-- ==== Sys2Proof/Word.lean ====
section
/-! DEFINITION. Word types of the E12 and the plainest helpers over them (R5 to R7). -/

namespace Sys2Proof

/-- A byte of memory (R7). -/
abbrev Byte := BitVec 8

/-- A limb, an unsigned 32-bit digit (R7, R233). -/
abbrev Limb := BitVec 32

/-- A 64-bit word: an S register, an instruction word, a witness (R7). -/
abbrev Word := BitVec 64

/-- One bit per lane of a warp (R182). -/
abbrev LaneMask := BitVec 32

/-- One V register: 32 lanes of 32 bits (R188). -/
abbrev Lanes := Vector (BitVec 32) 32

/-- Bits `hi:lo` of a word as a natural number (R5, R224). -/
def bits (w : Word) (hi lo : Nat) : Nat := (w.toNat >>> lo) % 2 ^ (hi + 1 - lo)

end Sys2Proof
end

