-- ==== Sys2Proof/Syntax.lean ====
section
/-! DEFINITION. The abstract syntax: operand forms and `Instr`, one constructor per row of
spec/opcode_table.json. The first 176 are what an instruction word can hold; the others are the
steps of the machine around the warps, with the operands that say which object each acts on. -/

namespace Sys2Proof

/-- Operation width, field SZ (R197). -/
inductive Sz where
  | w32 | w64 | w16 | w8
  deriving DecidableEq, Repr

/-- The number of bits of a width (R197). -/
def Sz.bits : Sz → Nat
  | .w32 => 32 | .w64 => 64 | .w16 => 16 | .w8 => 8

/-- The number of bytes of a width. -/
def Sz.bytes : Sz → Nat
  | .w32 => 4 | .w64 => 8 | .w16 => 2 | .w8 => 1

/-- The format of a floating-point form, field SZ in MAJ 0x07 (R197, R278). -/
inductive FSz where
  | f32 | f64 | f16
  deriving DecidableEq, Repr

/-- An S register number, 0 to 127 (R195); an X register in the access slice (R223). -/
abbrev SReg := BitVec 7

/-- An S register field that may hold 0xFF for none, or be absent. -/
abbrev OptS := Option SReg

/-- Cross-lane modifiers of operand A (R198). -/
inductive XLane where
  | none
  | rot (n : BitVec 5)
  | up (n : BitVec 5)
  | dn (n : BitVec 5)
  | xor (n : BitVec 5)
  | lane (n : BitVec 5)
  | srot (n : BitVec 2)
  deriving DecidableEq, Repr

/-- The special registers (R191). -/
inductive Special where
  | exec | laneid | warpid | blockx | blocky | blockz | gridx | gridy | gridz
  | clusterid | clrank | dieid | coreid | slicemap
  | fmt | nbv | fpctl | nttth | phase | clock | cycle
  | cause | epc | tval | tlanes | tskid | tinfo | cpcnt | qstat | hstat | capptr | ctxid
  deriving DecidableEq, Repr

/-- Operand A of a vector form, by KA (R194, R195). -/
inductive SrcA where
  | v (r : BitVec 8) (x : XLane)
  | s (r : SReg)
  | special (sel : Special)
  | queue (q : BitVec 2)
  deriving DecidableEq, Repr

/-- Operand B of a vector form, by KB (R194, R195). -/
inductive SrcB where
  | v (r : BitVec 8)
  | s (r : SReg)
  | imm (i : BitVec 16)
  | queue (q : BitVec 2)
  deriving DecidableEq, Repr

/-- A uniform operand: an S register or an imm16. -/
inductive UImm where
  | s (r : SReg)
  | imm (i : BitVec 16)
  deriving DecidableEq, Repr

/-- Operand A of a scalar form (R271). -/
inductive SrcS where
  | s (r : SReg)
  | special (sel : Special)
  deriving DecidableEq, Repr

/-- A big-number or tile-group source: a V register or a queue (R338, R365). -/
inductive BigA where
  | v (r : BitVec 8)
  | queue (q : BitVec 2)
  deriving DecidableEq, Repr

/-- Operand B of BADD, BSUB and BCMP (R338). -/
inductive BigB where
  | v (r : BitVec 8)
  | queue (q : BitVec 2)
  | s (r : SReg)
  | imm (i : BitVec 16)
  deriving DecidableEq, Repr

/-- Condition operand of BSPLIT (R396). -/
inductive CondVS where
  | v (r : BitVec 8)
  | s (r : SReg)
  deriving DecidableEq, Repr

/-- Vector form with sources A and B (R260, R269, R275). `sg` is FLG bit 0, `fl` FLG bits 2:1. -/
structure OpAB where
  d : BitVec 8
  a : SrcA
  b : SrcB
  sz : Sz
  sg : Bool
  fl : BitVec 2
  deriving DecidableEq, Repr

/-- Vector form with sources A, B and C (R259, R260). -/
structure OpABC where
  d : BitVec 8
  a : SrcA
  b : SrcB
  c : BitVec 8
  sz : Sz
  sg : Bool
  fl : BitVec 2
  deriving DecidableEq, Repr

/-- Vector form with source A alone (R260, R270, R277). -/
structure OpA where
  d : BitVec 8
  a : SrcA
  sz : Sz
  sg : Bool
  fl : BitVec 2
  deriving DecidableEq, Repr

/-- The combining operation of LSCAN and LRED (R276). -/
inductive ScanOp where
  | add | min | max | and | or | xor
  deriving DecidableEq, Repr

/-- LSCAN and LRED (R276). -/
structure OpScan where
  d : BitVec 8
  a : SrcA
  op : ScanOp
  sz : Sz
  sg : Bool
  ex : Bool
  sat : Bool
  deriving DecidableEq, Repr

/-- Scalar form with two sources (R271, R272). -/
structure OpS where
  d : SReg
  a : SrcS
  b : UImm
  sz : Sz
  sg : Bool
  fl : BitVec 2
  deriving DecidableEq, Repr

/-- Scalar form with one source (R272). -/
structure OpS1 where
  d : SReg
  a : SrcS
  sz : Sz
  sg : Bool
  deriving DecidableEq, Repr

/-- SSEL (C an S register) and SCMP (C a condition code 0 to 9) (R272). -/
structure OpS3 where
  d : SReg
  a : SrcS
  b : SReg
  c : BitVec 8
  sz : Sz
  sg : Bool
  deriving DecidableEq, Repr

/-- Rounding selection of a floating-point form, field FLG (R279). -/
inductive RSel where
  | dyn | rne | rtz | rup | rdn
  deriving DecidableEq, Repr

/-- Floating-point form with sources A and B (R280). -/
structure FpAB where
  d : BitVec 8
  a : SrcA
  b : SrcB
  f : FSz
  rm : RSel
  deriving DecidableEq, Repr

/-- FFMA, and FCMP with its condition in C (R280, R281). -/
structure FpABC where
  d : BitVec 8
  a : SrcA
  b : SrcB
  c : BitVec 8
  f : FSz
  rm : RSel
  deriving DecidableEq, Repr

/-- FSQRT and FCLASS (R280). -/
structure FpA where
  d : BitVec 8
  a : SrcA
  f : FSz
  rm : RSel
  deriving DecidableEq, Repr

/-- The type codes of FCVT (R283). -/
inductive CvtTy where
  | f32 | f64 | f16 | u32 | s32 | u64 | s64
  deriving DecidableEq, Repr

/-- The witness field of an FM word: W with WI and WO (R200). -/
inductive WitF where
  | none
  | inp (r : SReg)
  | out (r : SReg)
  | both (r : SReg)
  deriving DecidableEq, Repr

/-- A vector load, store, gather or scatter (R200, R285, R309). -/
structure MemV where
  d : BitVec 8
  base : OptS
  index : Option (BitVec 8)
  sc : BitVec 2
  off : BitVec 12
  w : WitF
  sz : Sz
  deriving DecidableEq, Repr

/-- A uniform load, store or gather (R285, R294, R309). -/
structure MemU where
  d : SReg
  base : OptS
  off : BitVec 12
  w : WitF
  sz : Sz
  deriving DecidableEq, Repr

/-- LDK and STK; `k` is the register count minus 1 (R293). -/
structure MemK where
  d : BitVec 8
  base : OptS
  off : BitVec 12
  k : BitVec 3
  w : WitF
  sz : Sz
  deriving DecidableEq, Repr

/-- The atomic operations (R299). -/
inductive Aop where
  | add | smin | smax | umin | umax | and | or | xor | swap | cas
  deriving DecidableEq, Repr

/-- ATS and ATM (R298). -/
structure AtV where
  d : BitVec 8
  base : OptS
  index : Option (BitVec 8)
  sc : BitVec 2
  off : BitVec 8
  w : WitF
  aop : Aop
  wide : Bool
  deriving DecidableEq, Repr

/-- ATSU (R298). -/
structure AtU where
  d : SReg
  base : OptS
  off : BitVec 8
  w : WitF
  aop : Aop
  wide : Bool
  deriving DecidableEq, Repr

/-- CPL (R313, R314); `st` is the direction bit. -/
structure CopyL where
  d : BitVec 8
  base : OptS
  index : Option (BitVec 8)
  sc : BitVec 2
  off : BitVec 8
  w : OptS
  tag : BitVec 3
  st : Bool
  deriving DecidableEq, Repr

/-- CPB (R313, R315). -/
structure CopyB where
  d : SReg
  base : OptS
  off : BitVec 8
  w : OptS
  tag : BitVec 3
  deriving DecidableEq, Repr

/-- The output type of ZCVT (R370). -/
inductive ZTy where
  | f32 | f16 | s32 | s16 | s8 | acc
  deriving DecidableEq, Repr

/-- Barrier levels (R399). -/
inductive BarLevel where
  | blk | coh | clu | die | grid
  deriving DecidableEq, Repr

/-- BAR and BARARR (R399): result register, arrival witness, mask register, number. -/
structure BarOp where
  d : OptS
  w : OptS
  m : OptS
  n : BitVec 8
  lvl : BarLevel
  settle : Bool
  deriving DecidableEq, Repr

/-- The operations of XRED (R406). -/
inductive XOp where
  | add | smin | smax | and | or | xor
  deriving DecidableEq, Repr

/-- The half ops (R205). -/
inductive Hop where
  | hadd | hsub | hand | hor | hxor | hshl | hshr | hmov | hmin | hmax | hfadd | hfmul
  | hsadd | hsmov | hssub | hnop
  deriving DecidableEq, Repr

/-- The source of a half (R204). -/
inductive HSrc where
  | v (r : BitVec 8)
  | s (r : SReg)
  | imm (i : BitVec 8)
  | queue (q : BitVec 2)
  deriving DecidableEq, Repr

/-- One half of a paired word (R204, R205). -/
structure Half where
  op : Hop
  rd : BitVec 8
  rs : HSrc
  deriving DecidableEq, Repr

/-- A clause header (R209). SETA and SETB hold 0 to 11, or 15 for none. -/
structure Header where
  wait : BitVec 12
  seta : BitVec 4
  setb : BitVec 4
  len : BitVec 4
  pp : Bool
  yld : Bool
  deriving DecidableEq, Repr

/-! ### Operands of the machine's own steps -/

/-- 32 lanes of 64 bits: one contribution to XRED (R406). -/
abbrev Lanes64 := Vector (BitVec 64) 32

/-- A source of waiting work on a die (R429). -/
inductive WorkSource where
  | claimed (grid flat : Nat)
  | grid (grid : Nat)
  | bin (ctx bin : Nat)
  deriving DecidableEq, Repr

/-- The steps of a page migration (R50). -/
inductive MigPhase where
  | freeze | drain | copy | switch | invalidate | release
  deriving DecidableEq, Repr

/-- What the scrubber finds in a word (R85). -/
inductive ScrubFind where
  | clean | corrected | uncorrectable
  deriving DecidableEq, Repr

/-- The word in which an error shows (R85, R154): a word of scratch or a sector of a home cache, by its memory key; a sector in its stack;
a lane of a V register, a shape entry, an S register or an X register of a warp; a lane of an entry of a warp's queue; an accumulator of
a block. -/
inductive ScrubPlace where
  | memory (key : Nat) | stack (sector : Nat)
  | vreg (warp r lane : Nat) | shape (warp r : Nat) | sreg (warp r : Nat) | xreg (warp r : Nat)
  | queue (warp : Nat) (q : BitVec 2) (entry lane : Nat) | acc (block i : Nat)
  deriving DecidableEq, Repr

/-- A path out of the package (R163). -/
inductive Path where
  | cxl | expander | port (n : Nat)
  deriving DecidableEq, Repr

/-- The answer to a back-invalidation snoop: unmodified, modified data, or none in time (R464). -/
inductive SnoopAnswer where
  | clean | modified (data : List Byte) | timeout
  deriving DecidableEq, Repr

/-- The instance set of a barrier (R190, R400): level, owner of the set, number.
The owner is the block for .blk and .coh, the first block's identifier of the launch cluster for
.clu, and the launch ID for .die and .grid; `die` tells the sets of the dies apart. -/
structure BarKey where
  lvl : BarLevel
  owner : Nat
  die : Nat
  n : Nat
  deriving DecidableEq, Repr

/-- What a pre-emption request names (R454). -/
inductive PreemptUnit where
  | cluster (grid cluster : Nat)
  | block (block : Nat)
  | context (ctx : Nat)
  deriving DecidableEq, Repr

/-- The steps of a context switch (R460). -/
inductive SwitchPhase where
  | stop | preempt | drain | saveBins | saveScratch | settle | install | restore
  deriving DecidableEq, Repr

/-- Registers whose write has no step of its own (R462): ring heads (R151, R466), a context's CAPVA (R474), a reduction group (R469), another
register of the directory; and what firmware sets (log 105): a routing-table entry and the package ID (R467), a package that has left the
domain or is in it again, and the clock master (R468), PWRCAP (R472), the region masks of a host function and of a Novdel ingress, and a firewall region with its base and limit
(R53); and the recovery mailbox (R470). -/
inductive PlainReg where
  | remapHead | eventHead | capva (ctx : Nat) | grpcfg (g : Nat) (mask : Word)
  | route (id : Nat) | pwrcap | other (offset : Nat)
  | packageId | departed (id : Nat) | clockMaster | hostMask (fn : Nat) | portMask (port : Nat) | region (i : Nat) (range : Nat × Nat) | mailbox
  deriving DecidableEq, Repr

/-- A monitor whose reading has fallen below its threshold (R472). -/
inductive Monitor where
  | die (d : Nat) | power | stack (n : Nat)
  deriving DecidableEq, Repr

/-- One constructor per row of spec/opcode_table.json. -/
inductive Instr where
  /-- CLAUSE_START (R213): A sub-warp starts a clause once every flag named in WAIT has count zero; a flag with E set raises its operation's error instead. -/
  | clauseStart (h : Header)
  /-- PAIRED_WORD (R208): Two half instructions read their sources at issue and then both write, occupying both issue ports. -/
  | pairedWord (x y : Half)
  /-- IADD (R260): Per-lane integer add, optionally saturating. -/
  | iadd (o : OpAB)
  /-- ISUB (R260): Per-lane integer subtract, optionally saturating. -/
  | isub (o : OpAB)
  /-- IMUL (R260): Per-lane integer multiply, optionally saturating. -/
  | imul (o : OpAB)
  /-- IMULH (R260): Per-lane high half of the 2n-bit product. -/
  | imulh (o : OpAB)
  /-- IMAD (R260): Per-lane multiply-add a × b + c, optionally saturating. -/
  | imad (o : OpABC)
  /-- IMADW (R263): Widening 32 × 32 + 64-bit multiply-add into a register pair. -/
  | imadw (o : OpABC)
  /-- IADDC (R262): Limb add with carry in, writing the limb to D and the carry to D+1. -/
  | iaddc (o : OpABC)
  /-- ISUBB (R262): Limb subtract with borrow in, writing the limb to D and the borrow to D+1. -/
  | isubb (o : OpABC)
  /-- IMIN (R260): Per-lane minimum. -/
  | imin (o : OpAB)
  /-- IMAX (R260): Per-lane maximum. -/
  | imax (o : OpAB)
  /-- IABS (R261): Per-lane absolute value of the signed operand, optionally saturating. -/
  | iabs (o : OpA)
  /-- AND (R260): Per-lane bitwise AND. -/
  | iand (o : OpAB)
  /-- OR (R260): Per-lane bitwise OR. -/
  | ior (o : OpAB)
  /-- XOR (R260): Per-lane bitwise XOR. -/
  | ixor (o : OpAB)
  /-- ANDN (R260): Per-lane a AND NOT b. -/
  | iandn (o : OpAB)
  /-- SHL (R264): Per-lane left shift, 0 for amounts of n or more. -/
  | shl (o : OpAB)
  /-- SHR (R264): Per-lane logical right shift. -/
  | shr (o : OpAB)
  /-- SAR (R264): Per-lane arithmetic right shift. -/
  | sar (o : OpAB)
  /-- ROT (R264): Per-lane left rotation. -/
  | rot (o : OpAB)
  /-- FSHF (R264): Per-lane funnel shift of A into C from above. -/
  | fshf (o : OpABC)
  /-- BFE (R265): Per-lane bit-field extract, optionally sign-extended. -/
  | bfe (o : OpAB)
  /-- BFI (R265): Per-lane bit-field insert of C into A. -/
  | bfi (o : OpABC)
  /-- CLZ (R260): Per-lane count of leading zero bits. -/
  | clz (o : OpA)
  /-- CTZ (R260): Per-lane count of trailing zero bits. -/
  | ctz (o : OpA)
  /-- POPC (R260): Per-lane population count. -/
  | popc (o : OpA)
  /-- BREV (R260): Per-lane bit reversal. -/
  | brev (o : OpA)
  /-- PRMB (R266): Per-lane byte permute from the pool of A and C, with sign replication. -/
  | prmb (o : OpABC)
  /-- SEL (R260): Per-lane select of A or B by bit i of S[C]. -/
  | sel (o : OpABC)
  /-- IDIV (R267): Per-lane division toward zero, trapping DIVZERO on a zero divisor. -/
  | idiv (o : OpAB)
  /-- IREM (R267): Per-lane remainder with the sign of the dividend. -/
  | irem (o : OpAB)
  /-- LEA (R268): Per-lane address arithmetic a + b × 2^s. -/
  | lea (o : OpAB)
  /-- ICMP_EQ (R269): Writes the mask of active lanes with a = b to an S register. -/
  | icmpEq (o : OpAB)
  /-- ICMP_NE (R269): Writes the mask of active lanes with a ≠ b. -/
  | icmpNe (o : OpAB)
  /-- ICMP_LT (R269): Writes the mask of active lanes with signed a < b. -/
  | icmpLt (o : OpAB)
  /-- ICMP_LE (R269): Writes the mask of active lanes with signed a ≤ b. -/
  | icmpLe (o : OpAB)
  /-- ICMP_GT (R269): Writes the mask of active lanes with signed a > b. -/
  | icmpGt (o : OpAB)
  /-- ICMP_GE (R269): Writes the mask of active lanes with signed a ≥ b. -/
  | icmpGe (o : OpAB)
  /-- ICMP_LTU (R269): Writes the mask of active lanes with unsigned a < b. -/
  | icmpLtu (o : OpAB)
  /-- ICMP_LEU (R269): Writes the mask of active lanes with unsigned a ≤ b. -/
  | icmpLeu (o : OpAB)
  /-- ICMP_GTU (R269): Writes the mask of active lanes with unsigned a > b. -/
  | icmpGtu (o : OpAB)
  /-- ICMP_GEU (R269): Writes the mask of active lanes with unsigned a ≥ b. -/
  | icmpGeu (o : OpAB)
  /-- MOV (R270): Per-lane move from any operand kind. -/
  | mov (o : OpA)
  /-- MOVI (R270): Per-lane move of a sign-extended immediate. -/
  | movi (d : BitVec 8) (imm : BitVec 16) (sz : Sz)
  /-- STOV (R270): Writes an S register into one lane of a V register. -/
  | stov (d : BitVec 8) (a : SReg) (j : UImm) (sz : Sz) (sg : Bool)
  /-- VTOS (R270): Reads one lane of a V register into an S register. -/
  | vtos (d : SReg) (a : BitVec 8) (j : UImm) (sz : Sz) (sg : Bool)
  /-- SADD (R272): Scalar add, optionally saturating. -/
  | sadd (o : OpS)
  /-- SSUB (R272): Scalar subtract, optionally saturating. -/
  | ssub (o : OpS)
  /-- SMUL (R272): Scalar multiply, optionally saturating. -/
  | smul (o : OpS)
  /-- SMULH (R272): Scalar high half of the product. -/
  | smulh (o : OpS)
  /-- SAND (R272): Scalar AND. -/
  | sand (o : OpS)
  /-- SOR (R272): Scalar OR. -/
  | sor (o : OpS)
  /-- SXOR (R272): Scalar XOR. -/
  | sxor (o : OpS)
  /-- SANDN (R272): Scalar a AND NOT b. -/
  | sandn (o : OpS)
  /-- SSHL (R272): Scalar left shift. -/
  | sshl (o : OpS)
  /-- SSHR (R272): Scalar logical right shift. -/
  | sshr (o : OpS)
  /-- SSAR (R272): Scalar arithmetic right shift. -/
  | ssar (o : OpS)
  /-- SMIN (R272): Scalar minimum. -/
  | smin (o : OpS)
  /-- SMAX (R272): Scalar maximum. -/
  | smax (o : OpS)
  /-- SCLZ (R272): Scalar count of leading zeros. -/
  | sclz (o : OpS1)
  /-- SCTZ (R272): Scalar count of trailing zeros. -/
  | sctz (o : OpS1)
  /-- SPOPC (R272): Scalar population count. -/
  | spopc (o : OpS1)
  /-- SSEL (R272): Scalar select of a or b by S[C] ≠ 0. -/
  | ssel (o : OpS3)
  /-- SLEA (R272): Scalar address arithmetic a + b × 2^s. -/
  | slea (o : OpS)
  /-- SCMP (R272): Scalar compare writing 1 or 0 under the condition code in C. -/
  | scmp (o : OpS3)
  /-- SMOVI (R273): Loads a zero- or sign-extended 32-bit immediate into an S register. -/
  | smovi (d : SReg) (imm : BitVec 32) (sg : Bool)
  /-- SMOVH (R273): Writes a 32-bit immediate into bits 63:32 of an S register. -/
  | smovh (d : SReg) (imm : BitVec 32)
  /-- LPERM (R275): Each active lane receives the value of the lane of A selected by B. -/
  | lperm (o : OpAB)
  /-- LSCAN (R276): Inclusive or exclusive prefix combination over active lanes. -/
  | lscan (o : OpScan)
  /-- LRED (R276): Reduction over active lanes written to every active lane. -/
  | lred (o : OpScan)
  /-- BALLOT (R277): Writes the mask of active lanes with nonzero A to every active lane. -/
  | ballot (o : OpA)
  /-- FADD (R280): Floating-point add rounded once. -/
  | fadd (o : FpAB)
  /-- FSUB (R280): Floating-point subtract rounded once. -/
  | fsub (o : FpAB)
  /-- FMUL (R280): Floating-point multiply rounded once. -/
  | fmul (o : FpAB)
  /-- FFMA (R280): Fused multiply-add rounded once. -/
  | ffma (o : FpABC)
  /-- FMIN (R280): minimumNumber of two floating-point values. -/
  | fmin (o : FpAB)
  /-- FMAX (R280): maximumNumber of two floating-point values. -/
  | fmax (o : FpAB)
  /-- FDIV (R280): Floating-point divide rounded once. -/
  | fdiv (o : FpAB)
  /-- FSQRT (R280): Floating-point square root rounded once. -/
  | fsqrt (o : FpA)
  /-- FCMP (R281): Floating-point compare writing 1 or 0 under a quiet or signalling condition. -/
  | fcmp (o : FpABC)
  /-- FCVT (R283): Conversion between floating-point and integer types. -/
  | fcvt (d : BitVec 8) (a : SrcA) (dt st : CvtTy) (rm : RSel)
  /-- FCLASS (R282): Writes the one-hot class mask of a floating-point encoding. -/
  | fclass (o : FpA)
  /-- LDS (R292): Per-lane scratch load into a V register. -/
  | lds (o : MemV)
  /-- STS (R292): Per-lane scratch store returning one witness. -/
  | sts (o : MemV)
  /-- LDSU (R294): Uniform scratch load into an S register. -/
  | ldsu (o : MemU)
  /-- STSU (R294): Uniform scratch store from an S register. -/
  | stsu (o : MemU)
  /-- LDK (R293): Loads a contiguous block into a group of k registers. -/
  | ldk (o : MemK)
  /-- STK (R293): Stores a group of k registers to a contiguous block. -/
  | stk (o : MemK)
  /-- ATS (R301): Per-lane scratch atomic, aggregated per address. -/
  | ats (o : AtV)
  /-- ATSU (R301): Uniform scratch atomic on one address. -/
  | atsu (o : AtU)
  /-- ATM (R302): Per-lane main-memory atomic performed at the home cache or host port. -/
  | atm (o : AtV)
  /-- WMERGE (R107): Merges two witnesses into the smallest domain with the later tick. -/
  | wmerge (d a b : SReg)
  /-- WMARK_L (R306): Writes the witness a write to a local address would return at the issue tick. -/
  | wmarkL (d a : SReg)
  /-- WMARK_V (R306): Translates a virtual address and writes the witness a write there would return. -/
  | wmarkV (d a : SReg)
  /-- WTEST (R305): Writes 1 if a witness is satisfied for the warp now, else 0. -/
  | wtest (d a : SReg)
  /-- WWAIT (R305): Stalls until a witness is satisfied for the warp. -/
  | wwait (a : SReg)
  /-- GATH (R311): Per-lane gather from main memory, grouped into page packets. -/
  | gath (o : MemV)
  /-- GATHS (R309): Uniform gather from one main-memory address into an S register. -/
  | gaths (o : MemU)
  /-- SCAT (R311): Per-lane scatter to main memory returning a merged witness. -/
  | scat (o : MemV)
  /-- CPL (R314): Issues one 32-byte lane copy per active lane to the copy engine under a batch tag. -/
  | cpl (o : CopyL)
  /-- CPB (R315): Issues a two-dimensional block copy to the copy engine under a batch tag. -/
  | cpb (o : CopyB)
  /-- CPSEAL (R318): Closes the open batch of a tag, making it the newest sealed batch. -/
  | cpseal (tag : BitVec 3)
  /-- CPWAIT (R318): Waits for every uncovered sealed batch of a tag and writes the merge of their witnesses. -/
  | cpwait (d : SReg) (tag : BitVec 3)
  /-- CPQRY (R319): Writes the outstanding count, open and sealed batch state and poison bit of a tag. -/
  | cpqry (d : SReg) (tag : BitVec 3)
  /-- HALLOC (R326): Heap command allocating a block of a size class, optionally zeroed or trapping. -/
  | halloc (d a : SReg) (w : OptS) (trapping zero fs : Bool)
  /-- HFREE (R327): Heap command making a live block freeing at its owning agent. -/
  | hfree (d a : SReg) (w : OptS) (fs : Bool)
  /-- HQRY (R328): Heap command returning the block, state and class that hold an address. -/
  | hqry (d a : SReg) (fs : Bool)
  /-- PCOMMIT (R329): Page command committing a reserve L0 leaf with a pool frame. -/
  | pcommit (d a : SReg) (w : OptS) (fs : Bool)
  /-- PDECOMMIT (R329): Page command returning a page to a reserve mode and its frame to the pool. -/
  | pdecommit (d a : SReg) (w : OptS) (zero fs : Bool)
  /-- PQRY (R330): Page command walking the tables and returning the entry where the walk ended. -/
  | pqry (d a : SReg) (fs : Bool)
  /-- STRM (R333): Starts an affine stream that pushes entries into an operand queue. -/
  | strm (q : BitVec 2) (a b c : SReg) (sz : Sz) (sext locl : Bool)
  /-- STRMEND (R332): Stalls until every stream on the masked queues has pushed its last entry. -/
  | strmend (mask : BitVec 4)
  /-- QMARK (R332): Pushes a marker into a queue after earlier streams' entries. -/
  | qmark (q : BitVec 2) (v : BitVec 16)
  /-- QDISC (R335): Discards queue entries up to and including the first marker and returns its value. -/
  | qdisc (d : SReg) (q : BitVec 2)
  /-- BADD (R341): Big-number add through the carry network. -/
  | badd (d : BitVec 8) (a : BigA) (b : BigB)
  /-- BSUB (R341): Big-number subtract. -/
  | bsub (d : BitVec 8) (a : BigA) (b : BigB)
  /-- BNEG (R341): Big-number negate. -/
  | bneg (d : BitVec 8) (a : BigA)
  /-- BCMP (R341): Big-number compare writing -1, 0 or 1. -/
  | bcmp (d : SReg) (a : BigA) (b : BigB) (abs : Bool)
  /-- BSHL (R343): Big-number left shift, trapping LENGTH on overflow. -/
  | bshl (d : BitVec 8) (a : BigA) (k : UImm)
  /-- BSHR (R343): Big-number right shift toward zero or toward minus infinity. -/
  | bshr (d : BitVec 8) (a : BigA) (k : UImm) (floor : Bool)
  /-- BMULS (R344): Big-number multiply by a 32-bit scalar. -/
  | bmuls (d : BitVec 8) (a : BigA) (b : UImm) (sg : Bool)
  /-- BDIVS (R345): Big-number divide by a scalar, writing quotient and remainder. -/
  | bdivs (d : BitVec 8) (a : BigA) (b c : SReg) (sg : Bool)
  /-- BNORM (R341): Rewrites a big number in canonical form. -/
  | bnorm (d : BitVec 8) (a : BigA)
  /-- BLEN (R346): Returns the stored shape byte, limb count and top limb. -/
  | blen (d : SReg) (a : BigA)
  /-- BBITS (R347): Returns the bit length, or trailing zero count, of a big number. -/
  | bbits (d : SReg) (a : BigA) (tz : Bool)
  /-- BSPILL (R349): Writes a big number as a limb array in scratch after reading its capacity. -/
  | bspill (a : BitVec 8) (b : SReg) (w : OptS)
  /-- BFILL (R350): Reads a limb array from scratch into a canonical big number. -/
  | bfill (d : BitVec 8) (a : SReg) (w : OptS)
  /-- BCVT_TOTC (R348): Converts a big number to 1,024-bit two's complement lanes. -/
  | bcvtTotc (d : BitVec 8) (a : BigA)
  /-- BCVT_FROMTC (R348): Converts 1,024-bit two's complement lanes to a signed big number. -/
  | bcvtFromtc (d : BitVec 8) (a : BigA)
  /-- BCVT_F64 (R348): Rounds a big number to binary64 in an S register. -/
  | bcvtF64 (d : SReg) (a : BigA)
  /-- BCONV (R352): Adds the limb products of two numbers into a long accumulator row. -/
  | bconv (t : BitVec 8) (a b : BigA) (c : SReg) (neg : Bool)
  /-- CRES (R353): Resolves 32 accumulator columns into limbs and carries into the next tile or an S register. -/
  | cres (d t : BitVec 8) (b : SReg) (last : OptS)
  /-- LMUL (R356): Long-number engine command multiplying two limb arrays exactly. -/
  | lmul (d a b c : SReg) (fs : Bool)
  /-- LADD (R356): Long-number engine command adding or subtracting two limb arrays. -/
  | ladd (d a b c : SReg) (sub fs : Bool)
  /-- NTTF (R358): Long-number engine command for a forward number-theoretic transform. -/
  | nttf (d a b c : SReg) (fs : Bool)
  /-- NTTI (R358): Long-number engine command for an inverse number-theoretic transform. -/
  | ntti (d a b c : SReg) (fs : Bool)
  /-- SETFMT (R363): Writes the format pair FMT. -/
  | setfmt (b : UImm)
  /-- MMA (R366): Adds an exact 32 × 32 matrix product into an accumulator tile. -/
  | mma (t : BitVec 8) (a b : BigA) (c : BitVec 8)
  /-- MMQ (R367): Arrives at a quad-cohort MMA instance sharing one B across four warps. -/
  | mmq (t : BitVec 8) (a b : BigA) (c : BitVec 8)
  /-- ZCLR (R369): Clears n accumulator tiles. -/
  | zclr (t n : BitVec 8)
  /-- ZLD (R369): Loads one accumulator row from four V registers. -/
  | zld (t : BitVec 8) (g : BigA) (row : UImm)
  /-- ZST (R369): Stores one accumulator row into four V registers. -/
  | zst (g t : BitVec 8) (row : UImm)
  /-- ZCVT (R371): Converts an accumulator row once to a float or integer type, optionally accumulating in binary32. -/
  | zcvt (d t : BitVec 8) (b : SReg) (c : OptS) (ty : ZTy) (clr : Bool)
  /-- ZADD (R369): Adds or subtracts one tile into another. -/
  | zadd (d a : BitVec 8) (sub : Bool)
  /-- ACCRUN (R383): Accord command multiplying a grammar matrix by input vectors exactly. -/
  | accrun (d a b c : SReg) (fs : Bool)
  /-- ACCSTAT (R391): Reports the last completed ACCRUN of the warp and the engine queue. -/
  | accstat (d : SReg) (fs : Bool)
  /-- BRA (R396): Unconditional relative branch. -/
  | bra (off : BitVec 22)
  /-- BRS (R396): Branch on a uniform S register nonzero or zero. -/
  | brs (c : SReg) (z : Bool) (off : BitVec 22)
  /-- BRV (R397): Branch on a per-lane condition, trapping UNIFORMITY when lanes disagree. -/
  | brv (v : BitVec 8) (z : Bool) (off : BitVec 22)
  /-- BRZ (R396): Branch when EXEC, or S register bits 31:0, are zero. -/
  | brz (m : OptS) (off : BitVec 22)
  /-- BSPLIT (R183): Splits the sub-warp by slice vote, or serialises the paths by mask. -/
  | bsplit (c : CondVS) (off : BitVec 22)
  /-- JOIN (R184): Acts on the top frame: runs the pending path, pops, waits for or merges with the sibling. -/
  | join
  /-- CALL (R396): Writes the link address and branches. -/
  | call (l : SReg) (off : BitVec 22)
  /-- RET (R396): Branches to the address in an S register, predicting a return. -/
  | ret (l : SReg)
  /-- JMPI (R396): Indirect jump to S register plus 8 × k. -/
  | jmpi (l : SReg) (k : BitVec 22)
  /-- LOOP (R396): Decrements an S register and branches while nonzero. -/
  | loop (c : SReg) (off : BitVec 22)
  /-- EXIT (R398): Removes the sub-warp's lanes from the warp, ending or merging the sub-warp. -/
  | exit
  /-- NOP (R396): Does nothing. -/
  | nop
  /-- BAR (R403): Arrives at a barrier and waits for its instance, optionally settling the result. -/
  | bar (o : BarOp)
  /-- BARARR (R403): Arrives at a barrier without waiting. -/
  | bararr (o : BarOp)
  /-- BARWT (R403): Waits for the barrier instance of the latest arrival and writes its result. -/
  | barwt (d : OptS) (n : BitVec 8) (lvl : BarLevel) (settle : Bool)
  /-- WAITX (R405): Stalls until an external counter reaches a value. -/
  | waitx (c : BitVec 8) (a : SReg) (d : OptS)
  /-- SIGX (R405): Adds to an external counter of a package, or signals the host. -/
  | sigx (c : BitVec 8) (a b : SReg) (settle : Bool)
  /-- XRED (R406): Contributes to an all-reduce of a configured group across packages. -/
  | xred (d a : BitVec 8) (g : BitVec 4) (op : XOp)
  /-- QPOST (R408): Checks a task record against the bin table, reserves room and posts it once the witness is settled. -/
  | qpost (d : OptS) (a : SReg) (w : OptS) (dev fs : Bool)
  /-- QINFO (R409): Reports occupancy of the bin that has a given key. -/
  | qinfo (d a : SReg) (fs : Bool)
  /-- DPUB (R410): Publishes a dependence counter with a count and record once the witness is settled. -/
  | dpub (d a b : SReg) (w : OptS) (dev fs : Bool)
  /-- DSIG (R410): Signals a dependence counter or fault ticket once the witness is settled. -/
  | dsig (a : SReg) (w : OptS) (dev tk fs : Bool)
  /-- LAUNCH (R411): Copies an LPB to the tail of a launch queue after settling a witness. -/
  | launch (d a b : SReg) (w : OptS) (fs : Bool)
  /-- TRAP (R412): Raises the precise trap SOFTWARE with a code. -/
  | trap (code : UImm)
  /-- TRET (R413): Clears the handled cause and delivers the next pending cause or leaves handler mode and resumes. -/
  | tret
  /-- PHINT (R414): Names a liveness record used to save the warp if a pre-emption request is pending. -/
  | phint (off : BitVec 16)
  /-- SRD (R412): Reads a special register. -/
  | srd (d : BitVec 8) (sel : Special)
  /-- SWR (R412): Writes a special register under its field map. -/
  | swr (sel : Special) (b : UImm)
  /-- BKPT (R412): Raises BREAKPOINT, or halts the warp for a claiming debugger. -/
  | bkpt (code : BitVec 16)
  /-- BLOCK_HALT (R441): A warp that received a block-halt stops at its next clause boundary and takes BLOCK_HALT. -/
  | blockHalt (w sub : Nat)
  /-- IMPRECISE_DELIVERY (R443): An imprecise cause is delivered to the issuing sub-warp at its next clause boundary, or becomes an orphan record. -/
  | impreciseDelivery (n : Nat)
  /-- ISSUE_SELECT (R431): Each cycle each partition fills ports A and B from eligible sub-warps by class, age and port rules. -/
  | issueSelect (core part : Nat)
  /-- STARVATION_BOOST (R432): A sub-warp eligible for 1,024 cycles without issuing goes ahead of every class. -/
  | starvationBoost (w sub : Nat)
  /-- WORK_CLASS_RAISE (R429): Work that has waited 65,536 cycles for room is raised one priority class, up to class 3. -/
  | workClassRaise (die : Nat) (src : WorkSource)
  /-- STREAM_PUSH (R333): A stream reads 32 elements and pushes an entry into its queue once room exists. -/
  | streamPush (w q : Nat)
  /-- ACCESS_SLICE_END (R333): The access slice's EXIT takes effect when all its streams have pushed, setting QSTAT bit 32. -/
  | accessSliceEnd (w : Nat)
  /-- TRANSLATION_SET_COMPLETE (R36): The completed translation set traps, parks the requester with fault records, or lets it proceed. -/
  | translationSetComplete (w sub : Nat)
  /-- TABLE_WALK (R31): A page-table walker reads table entries at their homes for a missing page. -/
  | tableWalk (die ctx vpage : Nat)
  /-- HOST_RING_WRITE (R43): The control die writes a fault record to the host ring, advances TAIL and raises event TYPE 4. -/
  | hostRingWrite (ctx : Nat)
  /-- HOST_RING_HEAD_POLL (R43): While the host ring is full, HEAD is reread at least every 2^12 ticks. -/
  | hostRingHeadPoll (ctx : Nat) (head : BitVec 32)
  /-- PARKED_WARP_RESUME (R37): A warp resumed by its ticket replays the faulting instruction from the start. -/
  | parkedWarpResume (w sub : Nat)
  /-- ENGINE_COMMAND_REPLAY (R39): A parked engine command replays from the start of its setup when its ticket resumes it. -/
  | engineCommandReplay (op : Nat)
  /-- COUNTER_DSIG_PERFORM (R178): A DSIG whose witness is settled is performed at the counter's home, posting the record at zero. -/
  | counterDsigPerform (op : Nat)
  /-- COUNTER_DPUB_PERFORM (R178): A DPUB whose witness is settled publishes the counter and record at its home. -/
  | counterDpubPerform (op : Nat)
  /-- QPOST_ACCEPT (R408): Once its witness is settled, a QPOST record is accepted by its bin and the flag clears. -/
  | qpostAccept (op : Nat)
  /-- LAUNCH_ENQUEUE (R411): After its witness is settled, LAUNCH reads the LPB and copies it to the queue tail, waiting if full. -/
  | launchEnqueue (op : Nat)
  /-- BIN_POST_ACCEPT (R175): A post waiting for bin room is accepted into the hardware queue or ring. -/
  | binPostAccept (ctx die bin : Nat)
  /-- BIN_RING_WRITE (R428): The command processor writes a held record to the bin's spill ring, retrying after faults or invalidations. -/
  | binRingWrite (ctx die bin : Nat)
  /-- BIN_REFILL (R428): When the hardware queue falls below 16, records move from the ring head into it. -/
  | binRefill (ctx die bin : Nat)
  /-- BIN_TIMER_EXPIRY (R427): A bin head that has waited TIMER ticks becomes eligible for dispatch. -/
  | binTimerExpiry (ctx die bin : Nat)
  /-- BIN_DISPATCH (R427): An eligible bin head is dispatched as a warp or engine task when resources allow. -/
  | binDispatch (ctx die bin : Nat)
  /-- TASK_END_SIGNAL (R179): At a warp task's EXIT or an engine task's success, the command processor performs DSIG on SUCC. -/
  | taskEndSignal (op : Nat)
  /-- BIN_TABLE_INSTALL (R174): A launch's bin table is installed on each die once the context's bins there are empty. -/
  | binTableInstall (grid die : Nat)
  /-- QUEUE_TAIL_REREAD (R418): A write performed at a queue's control line makes the control die reread TAIL. -/
  | queueTailReread (q : Nat)
  /-- LPB_TAKE (R419): The control die reads the next LPB of a served queue, validates it, writes word 31 and advances HEAD. -/
  | lpbTake (q : Nat)
  /-- GRID_BROADCAST (R423): Once the ticket reset and input witness are settled, the LPB is broadcast to the command processors. -/
  | gridBroadcast (grid : Nat)
  /-- BLOCK_CLAIM (R423): A command processor with room claims block indices by an atomic add to the ticket counter. -/
  | blockClaim (grid die : Nat)
  /-- CLUSTER_PLACEMENT (R424): A claimed launch cluster or block is placed on cores of one physical cluster once room exists. -/
  | clusterPlacement (grid die : Nat)
  /-- COOP_PLACEMENT (R425): A cooperative grid is placed as one unit once its dies can hold every block. -/
  | coopPlacement (grid : Nat)
  /-- BLOCK_START (R167): A gang whose every warp is placed starts together after its storage is zeroed. -/
  | blockStart (grid cluster : Nat)
  /-- BLOCK_END (R61): When a block's warps have exited and its operations completed, its resources are released. -/
  | blockEnd (block : Nat)
  /-- GRID_COMPLETE (R426): When ended blocks reach the block count and writes are visible, DSIG is performed on the completion counter. -/
  | gridComplete (grid : Nat)
  /-- OPERATION_COMPLETE (R214): A long-latency operation completes, decrementing its flag, clearing pending registers and setting E on error. -/
  | operationComplete (op : Nat)
  /-- ENGINE_COMMAND_COMPLETE (R126): An engine command completes with all its writes visible, writing status and completion witness. -/
  | engineCommandComplete (op : Nat)
  /-- COPY_EXECUTE (R123): The copy engine, once the input witness is satisfied, reads the source and stamps destination writes. -/
  | copyExecute (op unit : Nat)
  /-- LONG_COMMAND_START (R354): The long-number engine takes the next command in arrival order once its witness is satisfied. -/
  | longCommandStart (op : Nat)
  /-- ACCRUN_SETUP_START (R389): An ACCRUN starts setup once no earlier command owns an overlapping accumulator range. -/
  | accrunSetupStart (op : Nat)
  /-- HEAP_COMMAND_SERVE (R325): The owning Flacon agent serves HALLOC, HFREE or HQRY in its serial order. -/
  | heapCommandServe (op : Nat)
  /-- HEAP_FREE_RETURN (R327): A freeing block joins its class list once both witnesses of R129 are settled. -/
  | heapFreeReturn (ctx addr : Nat)
  /-- PAGE_COMMIT (R47): The control die pops a frame, zero-fills it, rewrites the leaf and invalidates the page. -/
  | pageCommit (op : Nat)
  /-- PAGE_DECOMMIT (R48): The control die rewrites the leaf to reserve, drains by invalidation and pushes the frame to the pool. -/
  | pageDecommit (op : Nat)
  /-- PAGE_MIGRATION (R50): The migration engine freezes, drains, copies, switches, invalidates and releases a page. -/
  | pageMigration (ctx va dst : Nat) (phase : MigPhase)
  /-- BOUNCE_REISSUE (R51): A bounced write or atomic is retranslated and reissued by its issuer with its original tick. -/
  | bounceReissue (req : Nat)
  /-- EPOCH_END (R149): Every 2^20 ticks CONF counters are halved, samples cleared, and background remapping may run. -/
  | epochEnd
  /-- VISIBILITY_TICK (R4): The visibility clock advances one tick, origins report watermarks and frontiers update. -/
  | visibilityTick
  /-- WRITE_PERFORM (R88): A write arriving at its home is placed in the location's coherence order, or bounced if frozen. -/
  | writePerform (req : Nat)
  /-- READ_SERVE (R89): A read at its home is served once earlier performed writes are visible. -/
  | readServe (req : Nat)
  /-- ATOMIC_SERVE (R118): An atomic request is served at its home, reading and writing in one step. -/
  | atomicServe (req : Nat)
  /-- PACKET_SERVE (R142): A home serves a gather, scatter or atomic packet as one unit. -/
  | packetServe (op page : Nat)
  /-- SECTOR_PACKET (R143): The base die serves a sector packet of up to 32 sector reads, returning each sector tagged. -/
  | sectorPacket (die stack : Nat)
  /-- SECTOR_FILL (R70): A returned sector is filled into the memory-side cache, after which waiting elements are served. -/
  | sectorFill (die sector : Nat)
  /-- SECTOR_WRITE_BACK (R70): An evicted line writes back its dirty sectors to the stack. -/
  | sectorWriteBack (die line : Nat)
  /-- DSRCFG_WRITE (R67): A change of die scratchpad split or owner waits for residency to clear, writes back, zeroes and releases. -/
  | dsrcfgWrite (die : Nat) (v : Word)
  /-- COMPLETION_TIMEOUT (R163): A KIND 01, 10 or 11 request with no completion within its timeout fails with reason TIMEOUT. -/
  | completionTimeout (req : Nat)
  /-- EXTENT_RELEASE_ORDERLY (R160): Regions become releasing, drain, write back, become withdrawn and are acknowledged. -/
  | extentReleaseOrderly (die first count : Nat)
  /-- BACK_INVALIDATION (R464): Before a device write to a host-held sector, the home snoops the host and accepts returned data first. -/
  | backInvalidation (req : Nat)
  /-- SIGX_TAKE_EFFECT (R405): A SIGX changes the target counter or raises a host event, after settling for .s. -/
  | sigxTakeEffect (op : Nat)
  /-- COLLECTIVE_REDUCE (R469): The collective engine combines an XRED instance's contributions over the package tree and returns the result. -/
  | collectiveReduce (ctx g : Nat) (peers : List (Option XOp × Lanes64))
  /-- BARRIER_COMPLETE (R402): When every participant has arrived, the instance completes with the merged witness or traps MEMBERSHIP. -/
  | barrierComplete (key : BarKey) (inst : Nat)
  /-- BARRIER_SETTLE_RELEASE (R122): A settling barrier releases its participants once the merged witness is settled. -/
  | barrierSettleRelease (w sub : Nat)
  /-- MMQ_INSTANCE (R368): When four arrivals meet, the MMQ instance updates each tile or traps QUAD or FORMAT. -/
  | mmqInstance (block cohort inst : Nat)
  /-- HANG_DETECT (R437): The hang counter reaching 2^HLOG traps every waiting warp HANG and writes the wait-for graph. -/
  | hangDetect (ctx : Nat)
  /-- EXTERNAL_TIMEOUT (R438): A warp in an external wait for 2^XLOG ticks traps HANG with the external bit set. -/
  | externalTimeout (w sub : Nat)
  /-- PREEMPT_TIMEOUT (R454): After 2^20, then 2^21, cycles without PHINT, a warp is saved whole at its next suitable boundary. -/
  | preemptTimeout (w sub : Nat)
  /-- PREEMPT_SAVE (R455): A stopped warp is written to the save area once all its flags read zero. -/
  | preemptSave (w : Nat)
  /-- REFRESH (R152): A bank refreshes one subarray on the refresh timer. -/
  | refresh (stack chan bank : Nat)
  /-- CONTEXT_SWITCH (R460): The control die stops, pre-empts, drains, saves and swaps one context for another. -/
  | contextSwitch (out inn : Nat) (phase : SwitchPhase)
  /-- HOST_PAGE_COMMIT (R47): The host requests a commit of a page through the control die. -/
  | hostPageCommit (ctx va : Nat)
  /-- INVALIDATE_PAGE (R32): System software invalidates the translation of one page, returning a device-scope witness. -/
  | invalidatePage (ctx va : Nat)
  /-- INVALIDATE_RANGE (R32): System software invalidates a range of pages. -/
  | invalidateRange (ctx va pages : Nat)
  /-- INVALIDATE_CONTEXT (R32): System software invalidates every translation of one context. -/
  | invalidateContext (ctx : Nat)
  /-- INVALIDATE_ALL (R32): System software invalidates every translation. -/
  | invalidateAll
  /-- FREEZE_RESUME (R473): Firmware releases a freeze so the frozen requester continues. -/
  | freezeResume (n : Nat)
  /-- FREEZE_ABORT (R473): Firmware releases a freeze by aborting the context's grids and discarding its blocks. -/
  | freezeAbort (n : Nat)
  /-- MEMORY_SCRUB (R85): Background scrubbing corrects or poisons words of the scratchpads and memory-side cache. -/
  | memoryScrub (place : ScrubPlace) (found : ScrubFind)
  /-- LINK_DOWN (R163): A link or expander reporting down fails every outstanding request on its path with reason LINK. -/
  | linkDown (path : Path)
  /-- LINK_RESTORE (R163): System software restores a path and clears its down state. -/
  | linkRestore (path : Path)
  /-- FLIT_CRC_FAIL (R467): A Novdel flit failing its CRC is replayed; 16 successive failures take the port down. -/
  | flitCrcFail (port : Nat)
  /-- EXTENT_ADD (R158): An extent's regions are zeroed at their homes, set online and acknowledged. -/
  | extentAdd (die first count : Nat)
  /-- EXTENT_RELEASE_FORCED (R161): Regions are withdrawn at once, pending writes and dirty sectors discarded, and an event raised. -/
  | extentReleaseForced (die first count : Nat)
  /-- CXL_MEM_WRITE (R465): The host port accepts a host write, stamps it at device scope and returns the completion. -/
  | cxlMemWrite (fn pa : Nat) (data : List Byte)
  /-- CXL_MEM_READ (R130): A host read of device memory is served at its home. -/
  | cxlMemRead (fn pa : Nat)
  /-- SNOOP_RESPONSE (R464): The host's back-invalidation response arrives, or CTOCFG.TOHOST expires and the device write fails. -/
  | snoopResponse (sector : Nat) (answer : SnoopAnswer)
  /-- HOST_COUNTER_WRITE (R404): A host write to an external counter takes effect once earlier host writes are visible. -/
  | hostCounterWrite (ctx : Nat) (c : BitVec 8) (v : Word)
  /-- PREEMPT_REQUEST (R454): System software requests pre-emption of a cluster, block or context. -/
  | preemptRequest (unit : PreemptUnit)
  /-- DIE_HALT (R453): The debug unit halts one compute die at clause boundaries. -/
  | dieHalt (die : Nat)
  /-- DIE_RELEASE (R453): The debug unit releases a halted die, resuming warps at their boundaries. -/
  | dieRelease (die : Nat)
  /-- PREEMPT_RESTORE (R459): A pre-empted block is restored to its cores and slots and each warp resumes. -/
  | preemptRestore (block : Nat)
  /-- QCFG_WRITE (R417): System software configures a launch queue, or receives INVALID. -/
  | qcfgWrite (q : Nat) (v : Word)
  /-- REGION_TABLE_WRITE (R146): System software writes a region table entry's NOREMAP and HVER. -/
  | regionTableWrite (die i : Nat) (v : Word)
  /-- SHAPE_RECORD_WRITE (R147): System software writes a shape record, permuting lines of frames mapped through it. -/
  | shapeRecordWrite (i : Nat) (v : Word)
  /-- REMAPCFG_WRITE (R151): Writes a die's remapping enable, threshold or reserve, or returns INVALID. -/
  | remapcfgWrite (die : Nat) (v : Word) (firmware : Bool)
  /-- REMAPLOG_WRITE (R151): System software names the remap log ring. -/
  | remaplogWrite (v : Word)
  /-- CTOCFG_WRITE (R162): System software sets completion timeouts, or receives INVALID. -/
  | ctocfgWrite (v : Word)
  /-- HANGCFG_WRITE (R435): System software configures hang detection for a context, or receives INVALID. -/
  | hangcfgWrite (ctx : Nat) (v : Word)
  /-- SAVECFG_WRITE (R456): System software names a context's save area. -/
  | savecfgWrite (ctx : Nat) (v : Word)
  /-- EVCFG_WRITE (R466): System software configures the host event ring. -/
  | evcfgWrite (v : Word)
  /-- CONTEXT_DESCRIPTOR_WRITE (R40): System software writes a context descriptor; a new Host ring field restarts the host fault ring. -/
  | contextDescriptorWrite (ctx i : Nat) (v : Word)
  /-- FAULT_LOG_CLEAR (R452): System software clears a context's fault log through the control die. -/
  | faultLogClear (ctx : Nat)
  /-- SILLAGE_CLEAR (R433): System software clears the Sillage table, whole or by core. -/
  | sillageClear (core : Option Nat)
  /-- REGISTER_WRITE (R462): A write to a BAR0 register with no behaviour of its own; other functions' accesses are unsupported. -/
  | registerWrite (physical : Bool) (r : PlainReg) (v : Word)
  /-- BOOT (R470): The boot ROM verifies and measures the firmware image and starts it, or stays in recovery. -/
  | boot (image signature : List Byte)
  /-- MEASUREMENT_EXTEND (R471): Firmware extends a measurement register with a digest. -/
  | measurementExtend (k : Nat) (digest : List Byte)
  /-- ATTESTATION_REQUEST (R471): A nonce through the BAR0 mailbox yields a signed attestation report. -/
  | attestationRequest (nonce : List Byte)
  /-- THERMAL_THROTTLE (R472): A die junction at 100 °C limits each partition to one word every second cycle. -/
  | thermalThrottle (die : Nat)
  /-- THERMAL_EVENT (R472): A die junction at 110 °C raises event TYPE 9. -/
  | thermalEvent (die : Nat) (reading : Word)
  /-- THERMAL_TRIP (R472): A junction at 120 °C or supply out of limits holds the package in reset. -/
  | thermalTrip
  /-- STACK_HOT_REFRESH (R472): A stack above 85 °C doubles its refresh rate. -/
  | stackHotRefresh (stack : Nat)
  /-- POWER_CAP_THROTTLE (R472): Package power above PWRCAP over 1 ms throttles issue on every die. -/
  | powerCapThrottle (watts : Nat)
  /-- PACKAGE_COLD_RESET (R475): Power-on, thermal trip or fundamental reset loses everything and restarts the clock at 2^20. -/
  | packageColdReset
  /-- PACKAGE_WARM_RESET (R475): A warm reset loses contexts, queues and memory contents and restarts the clock at 2^20. -/
  | packageWarmReset
  /-- COMPUTE_DIE_RESET (R475): Firmware resets one compute die, aborting its blocks while the clock runs on. -/
  | computeDieReset (die : Nat)
  /-- CLOCK_SYNC (R468): A package follows the clock master through sync flits, stepping forward when it joins. -/
  | clockSync (count : BitVec 52)
  /-- SKEW_LOSS (R468): A package that cannot hold skew within 2 ticks takes its Novdel ports down and leaves the domain. -/
  | skewLoss
  /-- HOST_SNOOP (R463): A CXL.cache snoop from the host arrives at the host port and always finds the line not held. -/
  | hostSnoop (line : Nat)
  /-- MONITOR_FALLS_BELOW_THRESHOLD (R472): A die junction falls below 100 °C, package power falls below PWRCAP, or a stack cools to 85 °C or below, ending throttling or doubled refresh. -/
  | monitorFallsBelowThreshold (m : Monitor)
  /-- DEBUG_UNIT_CLAIM (R412): The debug unit claims a context, after which BKPT halts the issuing warp for the debugger instead of trapping BREAKPOINT. -/
  | debugUnitClaim (ctx : Nat) (claim : Bool)
  deriving DecidableEq, Repr

end Sys2Proof
end

