-- ==== Sys2Proof/WellFormed.lean ====
section
/-! DEFINITION. Which terms of `Instr` stand for a word the E12 decodes (R194 to R209 and the form tables),
and which operands of a machine step name an object of the package (R1). A word that decodes to
no well-formed term traps ILLEGAL (R220). What depends on the state (the V budget, the slice, handler
mode, the place in the clause) is checked at issue. -/

namespace Sys2Proof

/-- A 64-bit V operand is an even register (R195). -/
def pairOk (sz : Sz) (r : BitVec 8) : Bool := sz != .w64 || r.toNat % 2 == 0

def SrcA.ok (sz : Sz) : SrcA → Bool
  | .v r _ => pairOk sz r
  | _ => true

def SrcB.ok (sz : Sz) : SrcB → Bool
  | .v r => pairOk sz r
  | _ => true

/-- No cross-lane modifier (R275, R276). -/
def SrcA.plain : SrcA → Bool
  | .v _ x => x == .none
  | _ => true

def SrcB.isImm : SrcB → Bool
  | .imm _ => true
  | _ => false

def FSz.sz : FSz → Sz
  | .f32 => .w32 | .f64 => .w64 | .f16 => .w16

/-- The sources of an A, B form have their widths (R195). -/
def OpAB.srcs (o : OpAB) : Bool := o.a.ok o.sz && o.b.ok o.sz

/-- A vector form of two sources, `.sat` allowed or not (R260). -/
def OpAB.wf (o : OpAB) (sat : Bool) : Bool :=
  pairOk o.sz o.d && o.srcs && (o.fl == 0 || (sat && o.fl == 1))

/-- BFE and LEA read B as 32 bits (R265, R268). -/
def OpAB.wfB32 (o : OpAB) (anyFl : Bool) : Bool :=
  pairOk o.sz o.d && o.a.ok o.sz && (anyFl || o.fl == 0)

/-- ICMP writes an S register and defines no FLG bit (R269). -/
def OpAB.wfCmp (o : OpAB) : Bool := o.d.toNat < 128 && o.srcs && !o.sg && o.fl == 0

/-- A vector form of three sources: an immediate B is not possible (R194, R259). -/
def OpABC.wf (o : OpABC) (sat : Bool) : Bool :=
  pairOk o.sz o.d && o.a.ok o.sz && o.b.ok o.sz && !o.b.isImm && pairOk o.sz o.c &&
    (o.fl == 0 || (sat && o.fl == 1))

def OpA.wf (o : OpA) (sat : Bool) : Bool :=
  pairOk o.sz o.d && o.a.ok o.sz && (o.fl == 0 || (sat && o.fl == 1))

def UImm.laneOk : UImm → Bool
  | .imm i => i.toNat < 32
  | .s _ => true

def OpS.wf (o : OpS) (sat : Bool) : Bool := o.fl == 0 || (sat && o.fl == 1)

def OpScan.wf (o : OpScan) (exOk : Bool) : Bool :=
  pairOk o.sz o.d && o.a.ok o.sz && o.a.plain && (exOk || !o.ex) && (!o.sat || o.op == .add)

/-- Floating-point forms take no immediate (R278). -/
def FpAB.wf (o : FpAB) (rounds : Bool) : Bool :=
  pairOk o.f.sz o.d && o.a.ok o.f.sz && o.b.ok o.f.sz && !o.b.isImm && (rounds || o.rm == .dyn)

def CvtTy.isInt : CvtTy → Bool
  | .u32 | .s32 | .u64 | .s64 => true
  | _ => false

def CvtTy.sz : CvtTy → Sz
  | .f32 | .u32 | .s32 => .w32
  | .f64 | .u64 | .s64 => .w64
  | .f16 => .w16

/-- B = 0xFF means no index, and then SC is 0 (R200). -/
def indexOk (index : Option (BitVec 8)) (sc : BitVec 2) : Bool :=
  match index with
  | none => sc == 0
  | some r => r != 255

def WitF.inputOnly : WitF → Bool
  | .none | .inp _ => true
  | _ => false

def MemV.wf (o : MemV) : Bool := pairOk o.sz o.d && indexOk o.index o.sc

/-- The number of barriers of a level (R190). -/
def BarLevel.count : BarLevel → Nat
  | .blk => 16 | .coh => 256 | .clu => 8 | .die => 4 | .grid => 2

/-- An S half (R205). -/
def Hop.scalar : Hop → Bool
  | .hsadd | .hsmov | .hssub => true
  | _ => false

/-- A half read on its own: operand kinds and ranges (R205, R206). -/
def Half.ok (h : Half) : Bool :=
  if h.op == .hnop then h.rd == 0 && h.rs == .v 0
  else if h.op.scalar then
    h.rd.toNat < 128 && (match h.rs with | .s _ | .imm _ => true | _ => false)
  else match h.op, h.rs with
    | .hfadd, .imm _ | .hfmul, .imm _ => false
    | _, _ => true

/-- The V registers a half reads (R207). -/
def Half.vReads (h : Half) : List Nat :=
  if h.op == .hnop then []
  else
    (if h.op == .hmov || h.op.scalar then [] else [h.rd.toNat]) ++
    (match h.rs with | .v r => [r.toNat] | _ => [])

/-- The V register a half writes. -/
def Half.vWrite (h : Half) : Option Nat :=
  if h.op == .hnop || h.op.scalar then none else some h.rd.toNat

/-- The S register a half writes. -/
def Half.sWrite (h : Half) : Option Nat := if h.op.scalar then some h.rd.toNat else none

/-- The S registers a half reads. -/
def Half.sReads (h : Half) : List Nat :=
  if h.op == .hnop then []
  else
    (if h.op == .hsadd || h.op == .hssub then [h.rd.toNat] else []) ++
    (match h.rs with | .s r => [r.toNat] | _ => [])

/-- The pairing rules (R207). -/
def pairRules (x y : Half) : Bool :=
  let reads := x.vReads ++ y.vReads
  (List.range 4).all (fun k => (reads.filter (fun r => r % 4 == k)).length ≤ 2) &&
  (match x.vWrite, y.vWrite with
    | some a, some b => a % 4 != b % 4
    | _, _ => true) &&
  (match x.sWrite, y.sWrite with
    | some a, some b => a != b
    | _, _ => true) &&
  (match x.vWrite with | some a => !(y.vReads.contains a) | none => true) &&
  (match x.sWrite with | some a => !(y.sReads.contains a) | none => true)

/-- SETA and SETB are 0 to 11 or 0xF, LEN is not 0 (R209). -/
def Header.wf (h : Header) : Bool :=
  h.len != 0 && (h.seta.toNat < 12 || h.seta == 15) && (h.setb.toNat < 12 || h.setb == 15)

/-- A special register SWR may name (R191): RO registers are refused. -/
def Special.writable : Special → Bool
  | .exec | .fmt | .nbv | .fpctl | .nttth | .phase | .cause | .epc | .tval | .tlanes | .tinfo
  | .hstat => true
  | _ => false

/-- A special register that only a handler may write (R191). -/
def Special.handlerOnly : Special → Bool
  | .cause | .epc | .tval | .tlanes | .tinfo => true
  | _ => false

def even (r : BitVec 8) : Bool := r.toNat % 2 == 0

/-- S[D + 1] exists (R321, R354, R381). -/
def dPair (d : SReg) : Bool := d.toNat ≤ 126

/-- The well-formed terms. -/
def Instr.wf : Instr → Bool
  | .clauseStart h => h.wf
  | .pairedWord x y => x.ok && y.ok && pairRules x y
  | .iadd o | .isub o | .imul o => o.wf true
  | .imulh o | .imin o | .imax o | .iand o | .ior o | .ixor o | .iandn o
  | .shl o | .shr o | .sar o | .rot o | .idiv o | .irem o => o.wf false
  | .imad o => o.wf true
  | .imadw o => o.sz == .w32 && even o.d && even o.c && o.fl == 0 && !o.b.isImm
  | .iaddc o | .isubb o => o.sz == .w32 && !o.sg && o.fl == 0 && even o.d && !o.b.isImm
  | .iabs o => o.wf true
  | .fshf o => o.wf false
  | .bfe o => o.wfB32 false
  | .bfi o => pairOk o.sz o.d && o.a.ok o.sz && !o.b.isImm && pairOk o.sz o.c && o.fl == 0
  | .clz o | .ctz o | .popc o | .brev o | .mov o => o.wf false
  | .prmb o => o.sz == .w32 && !o.sg && o.fl == 0 && !o.b.isImm
  | .sel o => pairOk o.sz o.d && o.a.ok o.sz && o.b.ok o.sz && !o.b.isImm && o.c.toNat < 128 && o.fl == 0
  | .lea o => o.wfB32 true
  | .icmpEq o | .icmpNe o | .icmpLt o | .icmpLe o | .icmpGt o | .icmpGe o
  | .icmpLtu o | .icmpLeu o | .icmpGtu o | .icmpGeu o => o.wfCmp
  | .movi d _ sz => pairOk sz d
  | .stov d _ j sz _ => pairOk sz d && j.laneOk
  | .vtos _ a j sz _ => pairOk sz a && j.laneOk
  | .sadd o | .ssub o | .smul o => o.wf true
  | .smulh o | .sand o | .sor o | .sxor o | .sandn o | .sshl o | .sshr o | .ssar o
  | .smin o | .smax o => o.wf false
  | .sclz _ | .sctz _ | .spopc _ | .slea _ | .smovi _ _ _ | .smovh _ _ => true
  | .ssel o => o.c.toNat < 128
  | .scmp o => o.c.toNat ≤ 9
  | .lperm o => o.wfB32 false && o.a.plain
  | .lscan o => o.wf true
  | .lred o => o.wf false
  | .ballot o => o.a.ok o.sz && !o.sg && o.fl == 0
  | .fadd o | .fsub o | .fmul o | .fdiv o => o.wf true
  | .fmin o | .fmax o => o.wf false
  | .ffma o => pairOk o.f.sz o.d && o.a.ok o.f.sz && o.b.ok o.f.sz && !o.b.isImm && pairOk o.f.sz o.c
  | .fsqrt o => pairOk o.f.sz o.d && o.a.ok o.f.sz
  | .fcmp o => o.a.ok o.f.sz && o.b.ok o.f.sz && !o.b.isImm && o.c.toNat ≤ 7 && o.rm == .dyn
  | .fcvt d a dt st _ => pairOk dt.sz d && a.ok st.sz && dt != st && !(dt.isInt && st.isInt)
  | .fclass o => o.a.ok o.f.sz && o.rm == .dyn
  | .lds o | .gath o => o.wf && o.w.inputOnly
  | .sts o | .scat o => o.wf
  | .ldsu o | .gaths o => o.w.inputOnly
  | .stsu _ => true
  | .ldk o => pairOk o.sz o.d && o.w.inputOnly
  | .stk o => pairOk o.sz o.d
  | .ats o | .atm o => indexOk o.index o.sc && (even o.d || !(o.wide || o.aop == .cas))
  | .atsu o => o.aop != .cas || dPair o.d
  | .wmerge _ _ _ | .wmarkL _ _ | .wmarkV _ _ | .wtest _ _ | .wwait _ => true
  | .cpl o => even o.d && indexOk o.index o.sc
  | .cpb o => dPair o.d
  | .cpseal _ | .cpwait _ _ | .cpqry _ _ => true
  | .halloc d _ _ _ _ _ | .pcommit d _ _ _ | .pdecommit d _ _ _ _ | .pqry d _ _ => dPair d
  | .hfree _ _ _ _ | .hqry _ _ _ => true
  | .strm _ a b c _ _ _ => a.toNat < 32 && b.toNat < 32 && c.toNat < 32
  | .strmend _ | .qmark _ _ | .qdisc _ _ => true
  | .badd _ _ _ | .bsub _ _ _ | .bneg _ _ | .bcmp _ _ _ _ | .bshl _ _ _ | .bshr _ _ _ _
  | .bmuls _ _ _ _ | .bdivs _ _ _ _ _ | .bnorm _ _ | .blen _ _ | .bbits _ _ _ | .bspill _ _ _
  | .bfill _ _ _ | .bcvtTotc _ _ | .bcvtFromtc _ _ | .bcvtF64 _ _ | .bconv _ _ _ _ _
  | .cres _ _ _ _ => true
  | .lmul d _ _ _ _ | .ladd d _ _ _ _ _ | .nttf d _ _ _ _ | .ntti d _ _ _ _ => dPair d
  | .setfmt b => match b with
    | .imm i => i.toNat < 256
    | .s _ => true
  | .mma _ _ _ _ | .mmq _ _ _ _ | .zclr _ _ | .zcvt _ _ _ _ _ _ | .zadd _ _ _ => true
  | .zld _ _ row | .zst _ _ row => row.laneOk
  | .accrun d _ _ _ _ | .accstat d _ => dPair d
  | .bra _ | .brs _ _ _ | .brv _ _ _ | .brz _ _ | .bsplit _ _ | .join | .call _ _ | .ret _
  | .jmpi _ _ | .loop _ _ | .exit | .nop => true
  | .bar o => o.n.toNat < o.lvl.count
  | .bararr o => o.n.toNat < o.lvl.count && o.d == none && !o.settle
  | .barwt _ n lvl _ => n.toNat < lvl.count
  | .waitx _ _ _ | .sigx _ _ _ _ => true
  | .xred d a _ _ => even d && even a
  | .qpost _ a _ _ _ => a.toNat ≤ 120
  | .dpub _ _ b _ _ _ => b.toNat ≤ 120
  | .qinfo _ _ _ | .dsig _ _ _ _ _ | .launch _ _ _ _ _ => true
  | .trap _ | .tret | .phint _ | .bkpt _ => true
  | .srd d r => r == .laneid || d.toNat < 128
  | .swr r _ => r.writable
  -- the machine's own steps: the object named exists in the package (R1)
  | .issueSelect core part => core < 240 && part < 6
  | .tableWalk die _ _ | .workClassRaise die _ | .blockClaim _ die | .clusterPlacement _ die
  | .binTableInstall _ die | .dieHalt die | .dieRelease die | .dsrcfgWrite die _
  | .thermalThrottle die | .thermalEvent die _ | .computeDieReset die | .remapcfgWrite die _ _
  | .sectorFill die _ | .sectorWriteBack die _ => die < 6
  | .binPostAccept _ die bin | .binRingWrite _ die bin | .binRefill _ die bin
  | .binTimerExpiry _ die bin | .binDispatch _ die bin => die < 6 && bin < 64
  | .regionTableWrite die i _ => die < 6 && i < 2048
  | .extentAdd die first count | .extentReleaseOrderly die first count
  | .extentReleaseForced die first count => die < 6 && first + count ≤ 2048
  | .sectorPacket die stack => die < 6 && stack < 2
  | .refresh stack chan bank => stack < 12 && chan < 32 && bank < 64
  | .stackHotRefresh stack => stack < 12
  | .flitCrcFail port => port < 8
  | .shapeRecordWrite i _ => i < 64
  | .qcfgWrite q _ | .queueTailReread q | .lpbTake q => q < 4096
  | .measurementExtend k digest => k < 8 && digest.length == 32
  | .attestationRequest nonce => nonce.length == 32
  | .contextDescriptorWrite ctx i _ => ctx < 4096 && i < 8
  | .hangcfgWrite ctx _ | .savecfgWrite ctx _ | .faultLogClear ctx | .debugUnitClaim ctx _ => ctx < 4096
  | .collectiveReduce _ g _ => g < 16
  | .blockHalt _ _ | .impreciseDelivery _ | .starvationBoost _ _ | .streamPush _ _
  | .accessSliceEnd _ | .translationSetComplete _ _ | .hostRingWrite _ | .hostRingHeadPoll _ _
  | .parkedWarpResume _ _ | .engineCommandReplay _ | .counterDsigPerform _ | .counterDpubPerform _
  | .qpostAccept _ | .launchEnqueue _ | .taskEndSignal _ | .gridBroadcast _ | .coopPlacement _
  | .blockStart _ _ | .blockEnd _ | .gridComplete _ | .operationComplete _
  | .engineCommandComplete _ | .copyExecute _ _ | .longCommandStart _ | .accrunSetupStart _
  | .heapCommandServe _ | .heapFreeReturn _ _ | .pageCommit _ | .pageDecommit _
  | .hostPageCommit _ _ | .invalidatePage _ _ | .invalidateRange _ _ _ | .invalidateContext _
  | .invalidateAll | .pageMigration _ _ _ _ | .bounceReissue _ | .epochEnd | .freezeResume _
  | .freezeAbort _ | .visibilityTick | .writePerform _ | .readServe _ | .atomicServe _
  | .packetServe _ _ | .memoryScrub _ _ | .completionTimeout _ | .linkDown _ | .linkRestore _
  | .cxlMemWrite _ _ _ | .cxlMemRead _ _ | .backInvalidation _ | .snoopResponse _ _
  | .hostCounterWrite _ _ _ | .sigxTakeEffect _ | .barrierComplete _ _ | .barrierSettleRelease _ _
  | .mmqInstance _ _ _ | .hangDetect _ | .externalTimeout _ _ | .preemptRequest _
  | .preemptTimeout _ _ | .preemptSave _ | .preemptRestore _ | .contextSwitch _ _ _
  | .remaplogWrite _ | .ctocfgWrite _ | .evcfgWrite _ | .sillageClear _ | .registerWrite _ _ _
  | .boot _ _ | .thermalTrip | .powerCapThrottle _ | .packageColdReset | .packageWarmReset
  | .clockSync _ | .skewLoss | .hostSnoop _ | .monitorFallsBelowThreshold _ => true

end Sys2Proof
end

