-- ==== Sys2Proof/Decode.lean ====
section
/-! DEFINITION. The decoder and the encoder of instruction words (R192 to R209, R220, R222).
`decode` is total on 64-bit words and rejects by name; every rejected word traps ILLEGAL (R220). -/

namespace Sys2Proof

/-- Why a word encodes no instruction (R220). -/
inductive Reject where
  /-- MAJ is not in the opcode map (R222). -/
  | major
  /-- SUB is at or beyond the length of the MAJ's list. -/
  | form
  /-- A reserved field is not zero, or a field is out of range (R195, R198, R200 to R203). -/
  | field
  /-- The fields break a rule of the form itself, or a pairing rule (R206, R207). -/
  | illFormed
  deriving DecidableEq, Repr

/-! ### Field layouts -/

/-- Format F3 (R194). -/
structure F3 where
  maj : BitVec 7
  d : BitVec 8
  a : BitVec 8
  b : BitVec 8
  c : BitVec 8
  sub : BitVec 6
  kb : BitVec 2
  ka : BitVec 2
  sz : BitVec 2
  xl : BitVec 4
  xa : BitVec 5
  flg : BitVec 3
  deriving DecidableEq, Repr

def F3.pack (r : F3) : Word :=
  0#1 ++ r.maj ++ r.d ++ r.a ++ r.b ++ r.c ++ r.sub ++ r.kb ++ r.ka ++ r.sz ++ r.xl ++ r.xa ++ r.flg

def F3.unpack (w : Word) : F3 where
  maj := w.extractLsb' 56 7
  d := w.extractLsb' 48 8
  a := w.extractLsb' 40 8
  b := w.extractLsb' 32 8
  c := w.extractLsb' 24 8
  sub := w.extractLsb' 18 6
  kb := w.extractLsb' 16 2
  ka := w.extractLsb' 14 2
  sz := w.extractLsb' 12 2
  xl := w.extractLsb' 8 4
  xa := w.extractLsb' 3 5
  flg := w.extractLsb' 0 3

/-- Format FL (R199). -/
structure FL where
  d : BitVec 8
  imm : BitVec 32
  sub : BitVec 6
  rsv : BitVec 7
  flg : BitVec 3
  deriving DecidableEq, Repr

def FL.pack (r : FL) : Word := 0x05#8 ++ r.d ++ r.imm ++ r.sub ++ r.rsv ++ r.flg

def FL.unpack (w : Word) : FL where
  d := w.extractLsb' 48 8
  imm := w.extractLsb' 16 32
  sub := w.extractLsb' 10 6
  rsv := w.extractLsb' 3 7
  flg := w.extractLsb' 0 3

/-- Format FM (R200). -/
structure FM where
  maj : BitVec 7
  d : BitVec 8
  a : BitVec 8
  b : BitVec 8
  w : BitVec 8
  sub : BitVec 6
  sc : BitVec 2
  wo : BitVec 1
  wi : BitVec 1
  sz : BitVec 2
  off : BitVec 12
  deriving DecidableEq, Repr

def FM.pack (r : FM) : Word :=
  0#1 ++ r.maj ++ r.d ++ r.a ++ r.b ++ r.w ++ r.sub ++ r.sc ++ r.wo ++ r.wi ++ r.sz ++ r.off

def FM.unpack (w : Word) : FM where
  maj := w.extractLsb' 56 7
  d := w.extractLsb' 48 8
  a := w.extractLsb' 40 8
  b := w.extractLsb' 32 8
  w := w.extractLsb' 24 8
  sub := w.extractLsb' 18 6
  sc := w.extractLsb' 16 2
  wo := w.extractLsb' 15 1
  wi := w.extractLsb' 14 1
  sz := w.extractLsb' 12 2
  off := w.extractLsb' 0 12

/-- Format FB (R201). -/
structure FB where
  cr : BitVec 8
  ck : BitVec 2
  off : BitVec 22
  sub : BitVec 6
  rsv : BitVec 15
  flg : BitVec 3
  deriving DecidableEq, Repr

def FB.pack (r : FB) : Word := 0x30#8 ++ r.cr ++ r.ck ++ r.off ++ r.sub ++ r.rsv ++ r.flg

def FB.unpack (w : Word) : FB where
  cr := w.extractLsb' 48 8
  ck := w.extractLsb' 46 2
  off := w.extractLsb' 24 22
  sub := w.extractLsb' 18 6
  rsv := w.extractLsb' 3 15
  flg := w.extractLsb' 0 3

/-- Format FE (R202). -/
structure FE where
  maj : BitVec 7
  d : BitVec 8
  a : BitVec 8
  b : BitVec 8
  c : BitVec 8
  sub : BitVec 6
  fs : BitVec 1
  rsv : BitVec 14
  flg : BitVec 3
  deriving DecidableEq, Repr

def FE.pack (r : FE) : Word :=
  0#1 ++ r.maj ++ r.d ++ r.a ++ r.b ++ r.c ++ r.sub ++ r.fs ++ r.rsv ++ r.flg

def FE.unpack (w : Word) : FE where
  maj := w.extractLsb' 56 7
  d := w.extractLsb' 48 8
  a := w.extractLsb' 40 8
  b := w.extractLsb' 32 8
  c := w.extractLsb' 24 8
  sub := w.extractLsb' 18 6
  fs := w.extractLsb' 17 1
  rsv := w.extractLsb' 3 14
  flg := w.extractLsb' 0 3

/-- One half of a paired word (R204). -/
structure FH where
  hop : BitVec 6
  rd : BitVec 8
  rs : BitVec 8
  hk : BitVec 2
  rsv : BitVec 7
  deriving DecidableEq, Repr

def FH.pack (r : FH) : BitVec 31 := r.hop ++ r.rd ++ r.rs ++ r.hk ++ r.rsv

def FH.unpack (h : BitVec 31) : FH where
  hop := h.extractLsb' 25 6
  rd := h.extractLsb' 17 8
  rs := h.extractLsb' 9 8
  hk := h.extractLsb' 7 2
  rsv := h.extractLsb' 0 7

/-! ### Codes of the small fields -/

def Sz.code : Sz → BitVec 2
  | .w32 => 0 | .w64 => 1 | .w16 => 2 | .w8 => 3

def Sz.ofCode (c : BitVec 2) : Sz :=
  if c = 0 then .w32 else if c = 1 then .w64 else if c = 2 then .w16 else .w8

def FSz.code : FSz → BitVec 2
  | .f32 => 0 | .f64 => 1 | .f16 => 2

def FSz.ofCode (c : BitVec 2) : Option FSz :=
  if c = 0 then some .f32 else if c = 1 then some .f64 else if c = 2 then some .f16 else none

def RSel.code : RSel → BitVec 3
  | .dyn => 0 | .rne => 4 | .rtz => 5 | .rup => 6 | .rdn => 7

def RSel.ofCode (c : BitVec 3) : Option RSel :=
  if c = 0 then some .dyn else if c = 4 then some .rne else if c = 5 then some .rtz
  else if c = 6 then some .rup else if c = 7 then some .rdn else none

/-- The selector of a special register (R191). -/
def Special.code : Special → BitVec 8
  | .exec => 0x00 | .laneid => 0x01 | .warpid => 0x02 | .blockx => 0x03 | .blocky => 0x04
  | .blockz => 0x05 | .gridx => 0x06 | .gridy => 0x07 | .gridz => 0x08 | .clusterid => 0x09
  | .clrank => 0x0A | .dieid => 0x0B | .coreid => 0x0C | .slicemap => 0x0D | .fmt => 0x10
  | .nbv => 0x11 | .fpctl => 0x12 | .nttth => 0x13 | .phase => 0x14 | .clock => 0x18
  | .cycle => 0x19 | .cause => 0x20 | .epc => 0x21 | .tval => 0x22 | .tlanes => 0x23
  | .tskid => 0x24 | .tinfo => 0x25 | .cpcnt => 0x28 | .qstat => 0x29 | .hstat => 0x2A
  | .capptr => 0x30 | .ctxid => 0x31

/-- Every special register, in selector order. -/
def Special.all : List Special :=
  [.exec, .laneid, .warpid, .blockx, .blocky, .blockz, .gridx, .gridy, .gridz, .clusterid, .clrank,
   .dieid, .coreid, .slicemap, .fmt, .nbv, .fpctl, .nttth, .phase, .clock, .cycle, .cause, .epc,
   .tval, .tlanes, .tskid, .tinfo, .cpcnt, .qstat, .hstat, .capptr, .ctxid]

def Special.ofCode (c : BitVec 8) : Option Special := Special.all.find? (fun s => s.code == c)

def CvtTy.code : CvtTy → BitVec 4
  | .f32 => 0 | .f64 => 1 | .f16 => 2 | .u32 => 8 | .s32 => 9 | .u64 => 10 | .s64 => 11

def CvtTy.ofCode (c : BitVec 4) : Option CvtTy :=
  [CvtTy.f32, .f64, .f16, .u32, .s32, .u64, .s64].find? (fun t => t.code == c)

def Aop.code : Aop → BitVec 4
  | .add => 0 | .smin => 1 | .smax => 2 | .umin => 3 | .umax => 4 | .and => 5 | .or => 6
  | .xor => 7 | .swap => 8 | .cas => 9

def Aop.ofCode (c : BitVec 4) : Option Aop :=
  [Aop.add, .smin, .smax, .umin, .umax, .and, .or, .xor, .swap, .cas].find? (fun t => t.code == c)

def ScanOp.code : ScanOp → BitVec 8
  | .add => 0 | .min => 1 | .max => 2 | .and => 3 | .or => 4 | .xor => 5

def ScanOp.ofCode (c : BitVec 8) : Option ScanOp :=
  [ScanOp.add, .min, .max, .and, .or, .xor].find? (fun t => t.code == c)

def XOp.code : XOp → BitVec 3
  | .add => 0 | .smin => 1 | .smax => 2 | .and => 3 | .or => 4 | .xor => 5

def XOp.ofCode (c : BitVec 3) : Option XOp :=
  [XOp.add, .smin, .smax, .and, .or, .xor].find? (fun t => t.code == c)

def ZTy.code : ZTy → BitVec 3
  | .f32 => 0 | .f16 => 1 | .s32 => 2 | .s16 => 3 | .s8 => 4 | .acc => 5

def ZTy.ofCode (c : BitVec 3) : Option ZTy :=
  [ZTy.f32, .f16, .s32, .s16, .s8, .acc].find? (fun t => t.code == c)

def BarLevel.code : BarLevel → BitVec 3
  | .blk => 0 | .coh => 1 | .clu => 2 | .die => 3 | .grid => 4

def BarLevel.ofCode (c : BitVec 3) : Option BarLevel :=
  [BarLevel.blk, .coh, .clu, .die, .grid].find? (fun t => t.code == c)

def Hop.code : Hop → BitVec 6
  | .hadd => 0 | .hsub => 1 | .hand => 2 | .hor => 3 | .hxor => 4 | .hshl => 5 | .hshr => 6
  | .hmov => 7 | .hmin => 8 | .hmax => 9 | .hfadd => 10 | .hfmul => 11 | .hsadd => 12
  | .hsmov => 13 | .hssub => 14 | .hnop => 15

def Hop.ofCode (c : BitVec 6) : Option Hop :=
  [Hop.hadd, .hsub, .hand, .hor, .hxor, .hshl, .hshr, .hmov, .hmin, .hmax, .hfadd, .hfmul, .hsadd,
   .hsmov, .hssub, .hnop].find? (fun t => t.code == c)

/-! ### Register fields -/

/-- An S register number as an 8-bit field (R195). -/
def sField (r : SReg) : BitVec 8 := 0#1 ++ r

def sOf (f : BitVec 8) : Option SReg := if f.toNat < 128 then some (f.extractLsb' 0 7) else none

def optField : OptS → BitVec 8
  | none => 0xFF
  | some r => sField r

def optOf (f : BitVec 8) : Option OptS := if f = 0xFF then some none else (sOf f).map some

def qField (q : BitVec 2) : BitVec 8 := 0#6 ++ q

def qOf (f : BitVec 8) : Option (BitVec 2) := if f.toNat < 4 then some (f.extractLsb' 0 2) else none

def bit (b : Bool) : BitVec 1 := BitVec.ofBool b

/-- FLG from its bit 0 and bits 2:1. -/
def flgOf (sg : Bool) (fl : BitVec 2) : BitVec 3 := fl ++ bit sg

def flgSg (f : BitVec 3) : Bool := f.getLsbD 0

def flgHi (f : BitVec 3) : BitVec 2 := f.extractLsb' 1 2

/-! ### Operands and fields -/

def XLane.fields : XLane → BitVec 4 × BitVec 5
  | .none => (0, 0)
  | .rot n => (1, n)
  | .up n => (2, n)
  | .dn n => (3, n)
  | .xor n => (4, n)
  | .lane n => (5, n)
  | .srot n => (6, 0#3 ++ n)

def XLane.of (xl : BitVec 4) (xa : BitVec 5) : Option XLane :=
  if xl = 0 then (if xa = 0 then some .none else Option.none)
  else if xl = 1 then some (.rot xa)
  else if xl = 2 then some (.up xa)
  else if xl = 3 then some (.dn xa)
  else if xl = 4 then some (.xor xa)
  else if xl = 5 then some (.lane xa)
  else if xl = 6 then (if xa.toNat < 4 then some (.srot (xa.extractLsb' 0 2)) else Option.none)
  else Option.none

/-- Fields that operand A fills: A, KA, XL, XA. -/
def F3.withA (r : F3) : SrcA → F3
  | .v n x => { r with a := n, ka := 0, xl := x.fields.1, xa := x.fields.2 }
  | .s n => { r with a := sField n, ka := 1 }
  | .special s => { r with a := s.code, ka := 2 }
  | .queue q => { r with a := qField q, ka := 3 }

/-- XL and XA are zero (R198, R203). -/
def F3.noX (r : F3) : Bool := r.xl == 0 && r.xa == 0

def F3.srcA (r : F3) : Option SrcA :=
  if r.ka = 0 then (XLane.of r.xl r.xa).map (SrcA.v r.a)
  else if r.noX then
    if r.ka = 1 then (sOf r.a).map .s
    else if r.ka = 2 then (Special.ofCode r.a).map .special
    else (qOf r.a).map .queue
  else none

/-- Fields that operand B fills: B, KB, and C for an immediate (R194). -/
def F3.withB (r : F3) : SrcB → F3
  | .v n => { r with b := n, kb := 0 }
  | .s n => { r with b := sField n, kb := 1 }
  | .imm i => { r with b := i.extractLsb' 0 8, c := i.extractLsb' 8 8, kb := 2 }
  | .queue q => { r with b := qField q, kb := 3 }

def F3.srcB (r : F3) : Option SrcB :=
  if r.kb = 0 then some (.v r.b)
  else if r.kb = 1 then (sOf r.b).map .s
  else if r.kb = 2 then some (.imm (r.c ++ r.b))
  else (qOf r.b).map .queue

/-- Operand B of a form without a C operand: C is zero or part of the immediate (R203). -/
def F3.srcBOnly (r : F3) : Option SrcB := if r.kb = 2 || r.c = 0 then r.srcB else none

def F3.withU (r : F3) : UImm → F3
  | .s n => { r with b := sField n, kb := 1 }
  | .imm i => { r with b := i.extractLsb' 0 8, c := i.extractLsb' 8 8, kb := 2 }

/-- A uniform B: KB 1 or 2, with C zero for a register. -/
def F3.uimm (r : F3) : Option UImm :=
  if r.kb = 1 then (if r.c = 0 then (sOf r.b).map .s else none)
  else if r.kb = 2 then some (.imm (r.c ++ r.b))
  else none

def F3.withBig (r : F3) : BigA → F3
  | .v n => { r with a := n, ka := 0 }
  | .queue q => { r with a := qField q, ka := 3 }

def F3.bigA (r : F3) : Option BigA :=
  if r.ka = 0 then some (.v r.a) else if r.ka = 3 then (qOf r.a).map .queue else none

/-- A register group in B (BCONV, MMA, MMQ). -/
def F3.withBig2 (r : F3) : BigA → F3
  | .v n => { r with b := n, kb := 0 }
  | .queue q => { r with b := qField q, kb := 3 }

def F3.bigA2 (r : F3) : Option BigA :=
  if r.kb = 0 then some (.v r.b) else if r.kb = 3 then (qOf r.b).map .queue else none

def F3.withBigB (r : F3) : BigB → F3
  | .v n => { r with b := n, kb := 0 }
  | .queue q => { r with b := qField q, kb := 3 }
  | .s n => { r with b := sField n, kb := 1 }
  | .imm i => { r with b := i.extractLsb' 0 8, c := i.extractLsb' 8 8, kb := 2 }

def F3.bigB (r : F3) : Option BigB :=
  if r.kb = 2 then some (.imm (r.c ++ r.b))
  else if r.c = 0 then
    if r.kb = 0 then some (.v r.b)
    else if r.kb = 1 then (sOf r.b).map .s
    else (qOf r.b).map .queue
  else none

/-- Scalar operands: kind codes 0 name S registers (R271). -/
def F3.withSA (r : F3) : SrcS → F3
  | .s n => { r with a := sField n, ka := 0 }
  | .special s => { r with a := s.code, ka := 2 }

def F3.srcSA (r : F3) : Option SrcS :=
  if r.noX then
    if r.ka = 0 then (sOf r.a).map .s
    else if r.ka = 2 then (Special.ofCode r.a).map .special
    else none
  else none

def F3.withSB (r : F3) : UImm → F3
  | .s n => { r with b := sField n, kb := 0 }
  | .imm i => { r with b := i.extractLsb' 0 8, c := i.extractLsb' 8 8, kb := 2 }

def F3.srcSB (r : F3) : Option UImm :=
  if r.kb = 0 then (if r.c = 0 then (sOf r.b).map .s else none)
  else if r.kb = 2 then some (.imm (r.c ++ r.b))
  else none

/-- A form's base: MAJ and SUB, every other field zero. -/
def F3.base (maj : BitVec 7) (sub : BitVec 6) : F3 :=
  { maj, d := 0, a := 0, b := 0, c := 0, sub, kb := 0, ka := 0, sz := 0, xl := 0, xa := 0, flg := 0 }

/-! ### Encoding by shape -/

def OpAB.enc (maj : BitVec 7) (sub : BitVec 6) (o : OpAB) : Word :=
  (((({ F3.base maj sub with d := o.d, sz := o.sz.code, flg := flgOf o.sg o.fl }).withA o.a).withB o.b)).pack

def OpABC.enc (maj : BitVec 7) (sub : BitVec 6) (o : OpABC) : Word :=
  (((({ F3.base maj sub with d := o.d, c := o.c, sz := o.sz.code, flg := flgOf o.sg o.fl }).withA o.a).withB o.b)).pack

def OpA.enc (maj : BitVec 7) (sub : BitVec 6) (o : OpA) : Word :=
  (({ F3.base maj sub with d := o.d, sz := o.sz.code, flg := flgOf o.sg o.fl }).withA o.a).pack

def OpScan.enc (sub : BitVec 6) (o : OpScan) : Word :=
  (({ F3.base 0x06 sub with d := o.d, c := o.op.code, sz := o.sz.code, flg := bit o.sat ++ bit o.ex ++ bit o.sg }).withA o.a).pack

def OpS.enc (sub : BitVec 6) (o : OpS) : Word :=
  ((({ F3.base 0x04 sub with d := sField o.d, sz := o.sz.code, flg := flgOf o.sg o.fl }).withSA o.a).withSB o.b).pack

def OpS1.enc (sub : BitVec 6) (o : OpS1) : Word :=
  (({ F3.base 0x04 sub with d := sField o.d, sz := o.sz.code, flg := flgOf o.sg 0 }).withSA o.a).pack

def OpS3.enc (sub : BitVec 6) (o : OpS3) : Word :=
  (({ F3.base 0x04 sub with d := sField o.d, b := sField o.b, c := o.c, sz := o.sz.code, flg := flgOf o.sg 0 }).withSA o.a).pack

def FpAB.enc (sub : BitVec 6) (o : FpAB) : Word :=
  ((({ F3.base 0x07 sub with d := o.d, sz := o.f.code, flg := o.rm.code }).withA o.a).withB o.b).pack

def FpABC.enc (sub : BitVec 6) (o : FpABC) : Word :=
  ((({ F3.base 0x07 sub with d := o.d, c := o.c, sz := o.f.code, flg := o.rm.code }).withA o.a).withB o.b).pack

def FpA.enc (sub : BitVec 6) (o : FpA) : Word :=
  (({ F3.base 0x07 sub with d := o.d, sz := o.f.code, flg := o.rm.code }).withA o.a).pack

/-- W, WO and WI of a witness field (R200). -/
def WitF.fields : WitF → BitVec 8 × BitVec 1 × BitVec 1
  | .none => (0xFF, 0, 0)
  | .inp r => (sField r, 0, 1)
  | .out r => (sField r, 1, 0)
  | .both r => (sField r, 1, 1)

def WitF.of (w : BitVec 8) (wo wi : BitVec 1) : Option WitF :=
  if wo = 0 && wi = 0 then (if w = 0xFF then some .none else Option.none)
  else (sOf w).map (fun r => if wo = 0 then .inp r else if wi = 0 then .out r else .both r)

def idxField : Option (BitVec 8) → BitVec 8
  | none => 0xFF
  | some r => r

def idxOf (f : BitVec 8) : Option (BitVec 8) := if f = 0xFF then none else some f

def FM.base (maj : BitVec 7) (sub : BitVec 6) : FM :=
  { maj, d := 0, a := 0xFF, b := 0xFF, w := 0xFF, sub, sc := 0, wo := 0, wi := 0, sz := 0, off := 0 }

def FM.withW (r : FM) (x : WitF) : FM := { r with w := x.fields.1, wo := x.fields.2.1, wi := x.fields.2.2 }

def MemV.enc (maj : BitVec 7) (sub : BitVec 6) (o : MemV) : Word :=
  (({ FM.base maj sub with d := o.d, a := optField o.base, b := idxField o.index, sc := o.sc, sz := o.sz.code, off := o.off }).withW o.w).pack

def MemU.enc (maj : BitVec 7) (sub : BitVec 6) (o : MemU) : Word :=
  (({ FM.base maj sub with d := sField o.d, a := optField o.base, sz := o.sz.code, off := o.off }).withW o.w).pack

def MemK.enc (sub : BitVec 6) (o : MemK) : Word :=
  (({ FM.base 0x10 sub with d := o.d, a := optField o.base, b := 0#5 ++ o.k, sz := o.sz.code, off := o.off }).withW o.w).pack

def atSz (wide : Bool) : BitVec 2 := if wide then 1 else 0

def AtV.enc (sub : BitVec 6) (o : AtV) : Word :=
  (({ FM.base 0x11 sub with d := o.d, a := optField o.base, b := idxField o.index, sc := o.sc, sz := atSz o.wide, off := o.aop.code ++ o.off }).withW o.w).pack

def AtU.enc (sub : BitVec 6) (o : AtU) : Word :=
  (({ FM.base 0x11 sub with d := sField o.d, a := optField o.base, sz := atSz o.wide, off := o.aop.code ++ o.off }).withW o.w).pack

/-- The input-only witness of a copy (R313). -/
def copyW : OptS → WitF
  | none => .none
  | some r => .inp r

def copyWOf : WitF → Option OptS
  | .none => some none
  | .inp r => some (some r)
  | _ => none

def CopyL.enc (o : CopyL) : Word :=
  (({ FM.base 0x13 3 with d := o.d, a := optField o.base, b := idxField o.index, sc := o.sc, off := bit o.st ++ o.tag ++ o.off }).withW (copyW o.w)).pack

def CopyB.enc (o : CopyB) : Word :=
  (({ FM.base 0x13 4 with d := sField o.d, a := optField o.base, off := 0#1 ++ o.tag ++ o.off }).withW (copyW o.w)).pack

/-- CPSEAL, CPWAIT and CPQRY (R313). -/
def tagEnc (sub : BitVec 6) (d : BitVec 8) (tag : BitVec 3) : Word :=
  ({ FM.base 0x13 sub with d, off := 0#1 ++ tag ++ 0#8 }).pack

def FE.base (maj : BitVec 7) (sub : BitVec 6) (fs : Bool) : FE :=
  { maj, d := 0xFF, a := 0xFF, b := 0xFF, c := 0xFF, sub, fs := bit fs, rsv := 0, flg := 0 }

def FB.base (sub : BitVec 6) : FB := { cr := 0, ck := 0, off := 0, sub, rsv := 0, flg := 0 }

def Header.enc (h : Header) : Word :=
  0x7F#8 ++ h.wait ++ h.seta ++ h.setb ++ h.len ++ bit h.pp ++ bit h.yld ++ 0#30

def HSrc.fields : HSrc → BitVec 8 × BitVec 2
  | .v r => (r, 0)
  | .s r => (sField r, 1)
  | .imm i => (i, 2)
  | .queue q => (qField q, 3)

def HSrc.of (rs : BitVec 8) (hk : BitVec 2) : Option HSrc :=
  if hk = 0 then some (.v rs)
  else if hk = 1 then (sOf rs).map .s
  else if hk = 2 then some (.imm rs)
  else (qOf rs).map .queue

def Half.enc (h : Half) : BitVec 31 :=
  FH.pack { hop := h.op.code, rd := h.rd, rs := h.rs.fields.1, hk := h.rs.fields.2, rsv := 0 }

def Half.of (x : BitVec 31) : Option Half :=
  let r := FH.unpack x
  if r.rsv = 0 then
    match Hop.ofCode r.hop, HSrc.of r.rs r.hk with
    | some op, some rs => some { op, rd := r.rd, rs }
    | _, _ => none
  else none

def pairEnc (x y : Half) : Word := 1#1 ++ x.enc ++ 0#1 ++ y.enc

def BarOp.enc (sub : BitVec 6) (o : BarOp) : Word :=
  ({ F3.base 0x31 sub with d := optField o.d, a := optField o.w, ka := 1, b := optField o.m, kb := 1, c := o.n, sz := 0#1 ++ bit o.settle, flg := o.lvl.code }).pack

def pairField (r : BitVec 8) : F3 → F3 := fun f => { f with d := r }

/-- The word of an instruction (R192 to R209, R222), none for a step of the machine. -/
def encode : Instr → Option Word
  | .clauseStart h => some h.enc
  | .pairedWord x y => some (pairEnc x y)
  | .iadd o => some (o.enc 0x01 0) | .isub o => some (o.enc 0x01 1)
  | .imul o => some (o.enc 0x01 2) | .imulh o => some (o.enc 0x01 3)
  | .imad o => some (o.enc 0x01 4) | .imadw o => some (o.enc 0x01 5)
  | .iaddc o => some (o.enc 0x01 6) | .isubb o => some (o.enc 0x01 7)
  | .imin o => some (o.enc 0x01 8) | .imax o => some (o.enc 0x01 9)
  | .iabs o => some (o.enc 0x01 10) | .iand o => some (o.enc 0x01 11)
  | .ior o => some (o.enc 0x01 12) | .ixor o => some (o.enc 0x01 13)
  | .iandn o => some (o.enc 0x01 14) | .shl o => some (o.enc 0x01 15)
  | .shr o => some (o.enc 0x01 16) | .sar o => some (o.enc 0x01 17)
  | .rot o => some (o.enc 0x01 18) | .fshf o => some (o.enc 0x01 19)
  | .bfe o => some (o.enc 0x01 20) | .bfi o => some (o.enc 0x01 21)
  | .clz o => some (o.enc 0x01 22) | .ctz o => some (o.enc 0x01 23)
  | .popc o => some (o.enc 0x01 24) | .brev o => some (o.enc 0x01 25)
  | .prmb o => some (o.enc 0x01 26) | .sel o => some (o.enc 0x01 27)
  | .idiv o => some (o.enc 0x01 28) | .irem o => some (o.enc 0x01 29)
  | .lea o => some (o.enc 0x01 30)
  | .icmpEq o => some (o.enc 0x02 0) | .icmpNe o => some (o.enc 0x02 1)
  | .icmpLt o => some (o.enc 0x02 2) | .icmpLe o => some (o.enc 0x02 3)
  | .icmpGt o => some (o.enc 0x02 4) | .icmpGe o => some (o.enc 0x02 5)
  | .icmpLtu o => some (o.enc 0x02 6) | .icmpLeu o => some (o.enc 0x02 7)
  | .icmpGtu o => some (o.enc 0x02 8) | .icmpGeu o => some (o.enc 0x02 9)
  | .mov o => some (o.enc 0x03 0)
  | .movi d imm sz => some ((({ F3.base 0x03 1 with d, sz := sz.code }).withU (.imm imm)).pack)
  | .stov d a j sz sg =>
    some ((({ F3.base 0x03 2 with d, a := sField a, ka := 1, sz := sz.code, flg := flgOf sg 0 }).withU j).pack)
  | .vtos d a j sz sg =>
    some ((({ F3.base 0x03 3 with d := sField d, a, sz := sz.code, flg := flgOf sg 0 }).withU j).pack)
  | .sadd o => some (o.enc 0) | .ssub o => some (o.enc 1) | .smul o => some (o.enc 2)
  | .smulh o => some (o.enc 3) | .sand o => some (o.enc 4) | .sor o => some (o.enc 5)
  | .sxor o => some (o.enc 6) | .sandn o => some (o.enc 7) | .sshl o => some (o.enc 8)
  | .sshr o => some (o.enc 9) | .ssar o => some (o.enc 10) | .smin o => some (o.enc 11)
  | .smax o => some (o.enc 12) | .sclz o => some (o.enc 13) | .sctz o => some (o.enc 14)
  | .spopc o => some (o.enc 15) | .ssel o => some (o.enc 16) | .slea o => some (o.enc 17)
  | .scmp o => some (o.enc 18)
  | .smovi d imm sg => some (FL.pack { d := sField d, imm, sub := 0, rsv := 0, flg := flgOf sg 0 })
  | .smovh d imm => some (FL.pack { d := sField d, imm, sub := 1, rsv := 0, flg := 0 })
  | .lperm o => some (o.enc 0x06 0) | .lscan o => some (o.enc 1) | .lred o => some (o.enc 2)
  | .ballot o => some (o.enc 0x06 3)
  | .fadd o => some (o.enc 0) | .fsub o => some (o.enc 1) | .fmul o => some (o.enc 2)
  | .ffma o => some (o.enc 3) | .fmin o => some (o.enc 4) | .fmax o => some (o.enc 5)
  | .fdiv o => some (o.enc 6) | .fsqrt o => some (o.enc 7) | .fcmp o => some (o.enc 8)
  | .fcvt d a dt st rm =>
    some ((({ F3.base 0x07 9 with d, c := dt.code ++ st.code, flg := rm.code }).withA a).pack)
  | .fclass o => some (o.enc 10)
  | .lds o => some (o.enc 0x10 0) | .sts o => some (o.enc 0x10 1)
  | .ldsu o => some (o.enc 0x10 2) | .stsu o => some (o.enc 0x10 3)
  | .ldk o => some (o.enc 4) | .stk o => some (o.enc 5)
  | .ats o => some (o.enc 0) | .atsu o => some (o.enc 1) | .atm o => some (o.enc 2)
  | .wmerge d a b =>
    some (({ F3.base 0x12 0 with d := sField d, a := sField a, ka := 1, b := sField b, kb := 1 }).pack)
  | .wmarkL d a => some (({ F3.base 0x12 1 with d := sField d, a := sField a, ka := 1 }).pack)
  | .wmarkV d a => some (({ F3.base 0x12 1 with d := sField d, a := sField a, ka := 1, flg := 1 }).pack)
  | .wtest d a => some (({ F3.base 0x12 2 with d := sField d, a := sField a, ka := 1 }).pack)
  | .wwait a => some (({ F3.base 0x12 3 with a := sField a, ka := 1 }).pack)
  | .gath o => some (o.enc 0x13 0) | .gaths o => some (o.enc 0x13 1) | .scat o => some (o.enc 0x13 2)
  | .cpl o => some o.enc
  | .cpb o => some o.enc
  | .cpseal tag => some (tagEnc 5 0 tag)
  | .cpwait d tag => some (tagEnc 6 (sField d) tag)
  | .cpqry d tag => some (tagEnc 7 (sField d) tag)
  | .halloc d a w t z fs =>
    some (({ FE.base 0x14 0 fs with d := sField d, a := sField a, c := optField w, flg := 0#1 ++ bit z ++ bit t }).pack)
  | .hfree d a w fs => some (({ FE.base 0x14 1 fs with d := sField d, a := sField a, c := optField w }).pack)
  | .hqry d a fs => some (({ FE.base 0x14 2 fs with d := sField d, a := sField a }).pack)
  | .pcommit d a w fs => some (({ FE.base 0x14 3 fs with d := sField d, a := sField a, c := optField w }).pack)
  | .pdecommit d a w z fs =>
    some (({ FE.base 0x14 4 fs with d := sField d, a := sField a, c := optField w, flg := 0#2 ++ bit z }).pack)
  | .pqry d a fs => some (({ FE.base 0x14 5 fs with d := sField d, a := sField a }).pack)
  | .strm q a b c sz sx lo =>
    some (({ F3.base 0x15 0 with d := qField q, a := sField a, ka := 1, b := sField b, kb := 1, c := sField c, sz := sz.code, flg := 0#1 ++ bit lo ++ bit sx }).pack)
  | .strmend m => some ((({ F3.base 0x15 1 with d := 0 }).withU (.imm (0#12 ++ m))).pack)
  | .qmark q v => some ((({ F3.base 0x15 2 with d := qField q }).withU (.imm v)).pack)
  | .qdisc d q => some ((({ F3.base 0x15 3 with d := sField d }).withU (.imm (0#14 ++ q))).pack)
  | .badd d a b => some (((({ F3.base 0x20 0 with d }).withBig a).withBigB b).pack)
  | .bsub d a b => some (((({ F3.base 0x20 1 with d }).withBig a).withBigB b).pack)
  | .bneg d a => some ((({ F3.base 0x20 2 with d }).withBig a).pack)
  | .bcmp d a b ab =>
    some (((({ F3.base 0x20 3 with d := sField d, flg := 0#2 ++ bit ab }).withBig a).withBigB b).pack)
  | .bshl d a k => some (((({ F3.base 0x20 4 with d }).withBig a).withU k).pack)
  | .bshr d a k fl => some (((({ F3.base 0x20 5 with d, flg := 0#2 ++ bit fl }).withBig a).withU k).pack)
  | .bmuls d a b sg => some (((({ F3.base 0x20 6 with d, flg := 0#2 ++ bit sg }).withBig a).withU b).pack)
  | .bdivs d a b c sg =>
    some ((({ F3.base 0x20 7 with d, b := sField b, kb := 1, c := sField c, flg := 0#2 ++ bit sg }).withBig a).pack)
  | .bnorm d a => some ((({ F3.base 0x20 8 with d }).withBig a).pack)
  | .blen d a => some ((({ F3.base 0x20 9 with d := sField d }).withBig a).pack)
  | .bbits d a tz => some ((({ F3.base 0x20 10 with d := sField d, flg := 0#2 ++ bit tz }).withBig a).pack)
  | .bspill a b none => some (({ F3.base 0x20 11 with a, b := sField b, kb := 1 }).pack)
  | .bspill a b (some c) => some (({ F3.base 0x20 11 with a, b := sField b, kb := 1, c := sField c, flg := 2 }).pack)
  | .bfill d a none => some (({ F3.base 0x20 12 with d, a := sField a, ka := 1 }).pack)
  | .bfill d a (some c) => some (({ F3.base 0x20 12 with d, a := sField a, ka := 1, c := sField c, flg := 2 }).pack)
  | .bcvtTotc d a => some ((({ F3.base 0x20 13 with d }).withBig a).pack)
  | .bcvtFromtc d a => some ((({ F3.base 0x20 13 with d, flg := 1 }).withBig a).pack)
  | .bcvtF64 d a => some ((({ F3.base 0x20 13 with d := sField d, flg := 2 }).withBig a).pack)
  | .bconv t a b c ng =>
    some (((({ F3.base 0x21 0 with d := t, c := sField c, flg := 0#2 ++ bit ng }).withBig a).withBig2 b).pack)
  | .cres d t b none => some (({ F3.base 0x21 1 with d, a := t, b := sField b, kb := 1 }).pack)
  | .cres d t b (some c) =>
    some (({ F3.base 0x21 1 with d, a := t, b := sField b, kb := 1, c := sField c, flg := 1 }).pack)
  | .lmul d a b c fs => some (({ FE.base 0x22 0 fs with d := sField d, a := sField a, b := sField b, c := sField c }).pack)
  | .ladd d a b c sb fs =>
    some (({ FE.base 0x22 1 fs with d := sField d, a := sField a, b := sField b, c := sField c, flg := 0#2 ++ bit sb }).pack)
  | .nttf d a b c fs => some (({ FE.base 0x22 2 fs with d := sField d, a := sField a, b := sField b, c := sField c }).pack)
  | .ntti d a b c fs => some (({ FE.base 0x22 3 fs with d := sField d, a := sField a, b := sField b, c := sField c }).pack)
  | .setfmt b => some ((F3.base 0x28 0).withU b).pack
  | .mma t a b c => some (((({ F3.base 0x28 1 with d := t, c }).withBig a).withBig2 b).pack)
  | .mmq t a b c => some (((({ F3.base 0x28 2 with d := t, c }).withBig a).withBig2 b).pack)
  | .zclr t n => some ((({ F3.base 0x28 3 with d := t }).withU (.imm (0#8 ++ n))).pack)
  | .zld t g row => some (((({ F3.base 0x28 4 with d := t }).withBig g).withU row).pack)
  | .zst g t row => some ((({ F3.base 0x28 5 with d := g, a := t }).withU row).pack)
  | .zcvt d t b c ty clr =>
    some (({ F3.base 0x28 6 with d, a := t, b := sField b, kb := 1, c := optField c, sz := 0#1 ++ bit clr, flg := ty.code }).pack)
  | .zadd d a sb => some (({ F3.base 0x28 7 with d, a, flg := 0#2 ++ bit sb }).pack)
  | .accrun d a b c fs => some (({ FE.base 0x29 0 fs with d := sField d, a := sField a, b := sField b, c := sField c }).pack)
  | .accstat d fs => some (({ FE.base 0x29 1 fs with d := sField d }).pack)
  | .bra off => some (({ FB.base 0 with off }).pack)
  | .brs c z off => some (({ FB.base 1 with cr := sField c, ck := 1, off, flg := 0#2 ++ bit z }).pack)
  | .brv v z off => some (({ FB.base 2 with cr := v, ck := 2, off, flg := 0#2 ++ bit z }).pack)
  | .brz none off => some (({ FB.base 3 with off }).pack)
  | .brz (some m) off => some (({ FB.base 3 with cr := sField m, ck := 1, off }).pack)
  | .bsplit (.v r) off => some (({ FB.base 4 with cr := r, ck := 2, off }).pack)
  | .bsplit (.s r) off => some (({ FB.base 4 with cr := sField r, ck := 1, off }).pack)
  | .join => some (FB.base 5).pack
  | .call l off => some (({ FB.base 6 with cr := sField l, ck := 1, off }).pack)
  | .ret l => some (({ FB.base 7 with cr := sField l, ck := 1 }).pack)
  | .jmpi l k => some (({ FB.base 8 with cr := sField l, ck := 1, off := k }).pack)
  | .loop c off => some (({ FB.base 9 with cr := sField c, ck := 1, off }).pack)
  | .exit => some (FB.base 10).pack
  | .nop => some (FB.base 11).pack
  | .bar o => some (o.enc 0)
  | .bararr o => some (o.enc 1)
  | .barwt d n lvl st => some (BarOp.enc 2 { d, w := none, m := none, n, lvl, settle := st })
  | .waitx c a d =>
    some (({ F3.base 0x31 3 with d := optField d, a := sField a, ka := 1, b := 0xFF, kb := 1, c }).pack)
  | .sigx c a b st =>
    some (({ F3.base 0x31 4 with d := 0xFF, a := sField a, ka := 1, b := sField b, kb := 1, c, sz := 0#1 ++ bit st }).pack)
  | .xred d a g op => some (({ F3.base 0x31 5 with d, a, c := 0#4 ++ g, sz := 1, flg := op.code }).pack)
  | .qpost d a w dev fs =>
    some (({ FE.base 0x32 0 fs with d := optField d, a := sField a, c := optField w, flg := 0#1 ++ bit dev ++ 0#1 }).pack)
  | .qinfo d a fs => some (({ FE.base 0x32 1 fs with d := sField d, a := sField a }).pack)
  | .dpub d a b w dev fs =>
    some (({ FE.base 0x32 2 fs with d := sField d, a := sField a, b := sField b, c := optField w, flg := 0#1 ++ bit dev ++ 0#1 }).pack)
  | .dsig a w dev tk fs =>
    some (({ FE.base 0x32 3 fs with a := sField a, c := optField w, flg := 0#1 ++ bit dev ++ bit tk }).pack)
  | .launch d a b w fs =>
    some (({ FE.base 0x32 4 fs with d := sField d, a := sField a, b := sField b, c := optField w }).pack)
  | .trap code => some ((F3.base 0x38 0).withU code).pack
  | .tret => some (F3.base 0x38 1).pack
  | .phint off => some ((F3.base 0x38 2).withU (.imm off)).pack
  | .srd d r => some (({ F3.base 0x38 3 with d, a := r.code, ka := 2 }).pack)
  | .swr r b => some ((({ F3.base 0x38 4 with d := r.code }).withU b).pack)
  | .bkpt code => some ((F3.base 0x38 5).withU (.imm code)).pack
  | _ => none

/-! ### Decoding by shape. Each reads every field of the word: one that the form does not use must be
zero, or 0xFF where that stands for none (R203). -/

def F3.opAB (r : F3) : Option OpAB :=
  match r.srcA, r.srcBOnly with
  | some a, some b => some { d := r.d, a, b, sz := .ofCode r.sz, sg := flgSg r.flg, fl := flgHi r.flg }
  | _, _ => none

def F3.opABC (r : F3) : Option OpABC :=
  match r.srcA, r.srcB with
  | some a, some b => some { d := r.d, a, b, c := r.c, sz := .ofCode r.sz, sg := flgSg r.flg, fl := flgHi r.flg }
  | _, _ => none

/-- B, KB and C are zero. -/
def F3.noBC (r : F3) : Bool := r.b == 0 && r.kb == 0 && r.c == 0

def F3.opA (r : F3) : Option OpA :=
  if r.noBC then r.srcA.map (fun a => { d := r.d, a, sz := .ofCode r.sz, sg := flgSg r.flg, fl := flgHi r.flg })
  else none

def F3.opScan (r : F3) : Option OpScan :=
  if r.b = 0 && r.kb = 0 then
    match r.srcA, ScanOp.ofCode r.c with
    | some a, some op =>
      some { d := r.d, a, op, sz := .ofCode r.sz, sg := r.flg.getLsbD 0, ex := r.flg.getLsbD 1, sat := r.flg.getLsbD 2 }
    | _, _ => none
  else none

def F3.opS (r : F3) : Option OpS :=
  match sOf r.d, r.srcSA, r.srcSB with
  | some d, some a, some b => some { d, a, b, sz := .ofCode r.sz, sg := flgSg r.flg, fl := flgHi r.flg }
  | _, _, _ => none

def F3.opS1 (r : F3) : Option OpS1 :=
  if r.noBC && flgHi r.flg = 0 then
    match sOf r.d, r.srcSA with
    | some d, some a => some { d, a, sz := .ofCode r.sz, sg := flgSg r.flg }
    | _, _ => none
  else none

def F3.opS3 (r : F3) : Option OpS3 :=
  if r.kb = 0 && flgHi r.flg = 0 then
    match sOf r.d, r.srcSA, sOf r.b with
    | some d, some a, some b => some { d, a, b, c := r.c, sz := .ofCode r.sz, sg := flgSg r.flg }
    | _, _, _ => none
  else none

def F3.fpAB (r : F3) : Option FpAB :=
  match r.srcA, r.srcBOnly, FSz.ofCode r.sz, RSel.ofCode r.flg with
  | some a, some b, some f, some rm => some { d := r.d, a, b, f, rm }
  | _, _, _, _ => none

def F3.fpABC (r : F3) : Option FpABC :=
  match r.srcA, r.srcB, FSz.ofCode r.sz, RSel.ofCode r.flg with
  | some a, some b, some f, some rm => some { d := r.d, a, b, c := r.c, f, rm }
  | _, _, _, _ => none

def F3.fpA (r : F3) : Option FpA :=
  if r.noBC then
    match r.srcA, FSz.ofCode r.sz, RSel.ofCode r.flg with
    | some a, some f, some rm => some { d := r.d, a, f, rm }
    | _, _, _ => none
  else none

def F3.fcvtOf (r : F3) : Option Instr :=
  if r.b = 0 && r.kb = 0 && r.sz = 0 then
    match r.srcA, CvtTy.ofCode (r.c.extractLsb' 4 4), CvtTy.ofCode (r.c.extractLsb' 0 4), RSel.ofCode r.flg with
    | some a, some dt, some st, some rm => some (.fcvt r.d a dt st rm)
    | _, _, _, _ => none
  else none

/-- A word that holds only what was named: repacking its reading gives the word back. -/
def onlyIf (c : Bool) (x : Option α) : Option α := if c then x else none

def FM.memV (r : FM) : Option MemV :=
  match optOf r.a, WitF.of r.w r.wo r.wi with
  | some base, some w =>
    some { d := r.d, base, index := idxOf r.b, sc := r.sc, off := r.off, w, sz := .ofCode r.sz }
  | _, _ => none

def FM.memU (r : FM) : Option MemU :=
  if r.b = 0xFF && r.sc = 0 then
    match sOf r.d, optOf r.a, WitF.of r.w r.wo r.wi with
    | some d, some base, some w => some { d, base, off := r.off, w, sz := .ofCode r.sz }
    | _, _, _ => none
  else none

def FM.memK (r : FM) : Option MemK :=
  if r.b.toNat < 8 && r.sc = 0 then
    match optOf r.a, WitF.of r.w r.wo r.wi with
    | some base, some w => some { d := r.d, base, off := r.off, k := r.b.extractLsb' 0 3, w, sz := .ofCode r.sz }
    | _, _ => none
  else none

def FM.atV (r : FM) : Option AtV :=
  if r.sz = 0 || r.sz = 1 then
    match optOf r.a, WitF.of r.w r.wo r.wi, Aop.ofCode (r.off.extractLsb' 8 4) with
    | some base, some w, some aop =>
      some { d := r.d, base, index := idxOf r.b, sc := r.sc, off := r.off.extractLsb' 0 8, w, aop, wide := r.sz == 1 }
    | _, _, _ => none
  else none

def FM.atU (r : FM) : Option AtU :=
  if (r.sz = 0 || r.sz = 1) && r.b = 0xFF && r.sc = 0 then
    match sOf r.d, optOf r.a, WitF.of r.w r.wo r.wi, Aop.ofCode (r.off.extractLsb' 8 4) with
    | some d, some base, some w, some aop =>
      some { d, base, off := r.off.extractLsb' 0 8, w, aop, wide := r.sz == 1 }
    | _, _, _, _ => none
  else none

/-- The input witness of a copy; WO = 1 is ILLEGAL (R313). -/
def FM.copyWit (r : FM) : Option OptS :=
  match WitF.of r.w r.wo r.wi with
  | some x => copyWOf x
  | none => none

def FM.copyL (r : FM) : Option CopyL :=
  if r.sz = 0 then
    match optOf r.a, r.copyWit with
    | some base, some w =>
      some { d := r.d, base, index := idxOf r.b, sc := r.sc, off := r.off.extractLsb' 0 8, w, tag := r.off.extractLsb' 8 3, st := r.off.getLsbD 11 }
    | _, _ => none
  else none

def FM.copyB (r : FM) : Option CopyB :=
  if r.sz = 0 && r.b = 0xFF && r.sc = 0 && !r.off.getLsbD 11 then
    match sOf r.d, optOf r.a, r.copyWit with
    | some d, some base, some w => some { d, base, off := r.off.extractLsb' 0 8, w, tag := r.off.extractLsb' 8 3 }
    | _, _, _ => none
  else none

/-- The tag of CPSEAL, CPWAIT or CPQRY: nothing else is set (R313). -/
def FM.tagOnly (r : FM) : Option (BitVec 3) :=
  if r.a = 0xFF && r.b = 0xFF && r.w = 0xFF && r.sc = 0 && r.wo = 0 && r.wi = 0 && r.sz = 0 &&
      r.off.extractLsb' 0 8 = 0 && !r.off.getLsbD 11 then some (r.off.extractLsb' 8 3) else none

def decInteger (r : F3) : Except Reject (Option Instr) :=
  match r.sub.toNat with
  | 0 => .ok (r.opAB.map .iadd) | 1 => .ok (r.opAB.map .isub) | 2 => .ok (r.opAB.map .imul)
  | 3 => .ok (r.opAB.map .imulh) | 4 => .ok (r.opABC.map .imad) | 5 => .ok (r.opABC.map .imadw)
  | 6 => .ok (r.opABC.map .iaddc) | 7 => .ok (r.opABC.map .isubb) | 8 => .ok (r.opAB.map .imin)
  | 9 => .ok (r.opAB.map .imax) | 10 => .ok (r.opA.map .iabs) | 11 => .ok (r.opAB.map .iand)
  | 12 => .ok (r.opAB.map .ior) | 13 => .ok (r.opAB.map .ixor) | 14 => .ok (r.opAB.map .iandn)
  | 15 => .ok (r.opAB.map .shl) | 16 => .ok (r.opAB.map .shr) | 17 => .ok (r.opAB.map .sar)
  | 18 => .ok (r.opAB.map .rot) | 19 => .ok (r.opABC.map .fshf) | 20 => .ok (r.opAB.map .bfe)
  | 21 => .ok (r.opABC.map .bfi) | 22 => .ok (r.opA.map .clz) | 23 => .ok (r.opA.map .ctz)
  | 24 => .ok (r.opA.map .popc) | 25 => .ok (r.opA.map .brev) | 26 => .ok (r.opABC.map .prmb)
  | 27 => .ok (r.opABC.map .sel) | 28 => .ok (r.opAB.map .idiv) | 29 => .ok (r.opAB.map .irem)
  | 30 => .ok (r.opAB.map .lea)
  | _ => .error .form

def decCompare (r : F3) : Except Reject (Option Instr) :=
  match r.sub.toNat with
  | 0 => .ok (r.opAB.map .icmpEq) | 1 => .ok (r.opAB.map .icmpNe) | 2 => .ok (r.opAB.map .icmpLt)
  | 3 => .ok (r.opAB.map .icmpLe) | 4 => .ok (r.opAB.map .icmpGt) | 5 => .ok (r.opAB.map .icmpGe)
  | 6 => .ok (r.opAB.map .icmpLtu) | 7 => .ok (r.opAB.map .icmpLeu) | 8 => .ok (r.opAB.map .icmpGtu)
  | 9 => .ok (r.opAB.map .icmpGeu)
  | _ => .error .form

def decMove (r : F3) : Except Reject (Option Instr) :=
  match r.sub.toNat with
  | 0 => .ok (r.opA.map .mov)
  | 1 => .ok (match r.uimm with
      | some (.imm i) => onlyIf (r.a == 0 && r.ka == 0 && r.noX && r.flg == 0) (some (.movi r.d i (.ofCode r.sz)))
      | _ => none)
  | 2 => .ok (match r.uimm, sOf r.a with
      | some j, some a => onlyIf (r.ka == 1 && r.noX && flgHi r.flg == 0) (some (.stov r.d a j (.ofCode r.sz) (flgSg r.flg)))
      | _, _ => none)
  | 3 => .ok (match r.uimm, sOf r.d with
      | some j, some d => onlyIf (r.ka == 0 && r.noX && flgHi r.flg == 0) (some (.vtos d r.a j (.ofCode r.sz) (flgSg r.flg)))
      | _, _ => none)
  | _ => .error .form

def decScalar (r : F3) : Except Reject (Option Instr) :=
  match r.sub.toNat with
  | 0 => .ok (r.opS.map .sadd) | 1 => .ok (r.opS.map .ssub) | 2 => .ok (r.opS.map .smul)
  | 3 => .ok (r.opS.map .smulh) | 4 => .ok (r.opS.map .sand) | 5 => .ok (r.opS.map .sor)
  | 6 => .ok (r.opS.map .sxor) | 7 => .ok (r.opS.map .sandn) | 8 => .ok (r.opS.map .sshl)
  | 9 => .ok (r.opS.map .sshr) | 10 => .ok (r.opS.map .ssar) | 11 => .ok (r.opS.map .smin)
  | 12 => .ok (r.opS.map .smax) | 13 => .ok (r.opS1.map .sclz) | 14 => .ok (r.opS1.map .sctz)
  | 15 => .ok (r.opS1.map .spopc) | 16 => .ok (r.opS3.map .ssel) | 17 => .ok (r.opS.map .slea)
  | 18 => .ok (r.opS3.map .scmp)
  | _ => .error .form

def decScalarImm (r : FL) : Except Reject (Option Instr) :=
  match r.sub.toNat with
  | 0 => .ok (onlyIf (r.rsv == 0 && flgHi r.flg == 0) ((sOf r.d).map (fun d => .smovi d r.imm (flgSg r.flg))))
  | 1 => .ok (onlyIf (r.rsv == 0 && r.flg == 0) ((sOf r.d).map (fun d => .smovh d r.imm)))
  | _ => .error .form

def decLane (r : F3) : Except Reject (Option Instr) :=
  match r.sub.toNat with
  | 0 => .ok (r.opAB.map .lperm) | 1 => .ok (r.opScan.map .lscan) | 2 => .ok (r.opScan.map .lred)
  | 3 => .ok (r.opA.map .ballot)
  | _ => .error .form

def decFloat (r : F3) : Except Reject (Option Instr) :=
  match r.sub.toNat with
  | 0 => .ok (r.fpAB.map .fadd) | 1 => .ok (r.fpAB.map .fsub) | 2 => .ok (r.fpAB.map .fmul)
  | 3 => .ok (r.fpABC.map .ffma) | 4 => .ok (r.fpAB.map .fmin) | 5 => .ok (r.fpAB.map .fmax)
  | 6 => .ok (r.fpAB.map .fdiv) | 7 => .ok (r.fpA.map .fsqrt) | 8 => .ok (r.fpABC.map .fcmp)
  | 9 => .ok r.fcvtOf | 10 => .ok (r.fpA.map .fclass)
  | _ => .error .form

def decScratch (r : FM) : Except Reject (Option Instr) :=
  match r.sub.toNat with
  | 0 => .ok (r.memV.map .lds) | 1 => .ok (r.memV.map .sts) | 2 => .ok (r.memU.map .ldsu)
  | 3 => .ok (r.memU.map .stsu) | 4 => .ok (r.memK.map .ldk) | 5 => .ok (r.memK.map .stk)
  | _ => .error .form

def decAtomic (r : FM) : Except Reject (Option Instr) :=
  match r.sub.toNat with
  | 0 => .ok (r.atV.map .ats) | 1 => .ok (r.atU.map .atsu) | 2 => .ok (r.atV.map .atm)
  | _ => .error .form

/-- S[A] of a witness form, with KA = 1 and SZ, XL, XA zero (R304). -/
def F3.witA (r : F3) : Option SReg := if r.ka = 1 && r.sz = 0 && r.noX && r.c = 0 then sOf r.a else none

def decWitness (r : F3) : Except Reject (Option Instr) :=
  match r.sub.toNat with
  | 0 => .ok (match sOf r.d, r.witA, sOf r.b with
      | some d, some a, some b => onlyIf (r.kb == 1 && r.flg == 0) (some (.wmerge d a b))
      | _, _, _ => none)
  | 1 => .ok (match sOf r.d, r.witA with
      | some d, some a =>
        onlyIf (r.noBC && flgHi r.flg == 0) (some (if flgSg r.flg then .wmarkV d a else .wmarkL d a))
      | _, _ => none)
  | 2 => .ok (match sOf r.d, r.witA with
      | some d, some a => onlyIf (r.noBC && r.flg == 0) (some (.wtest d a))
      | _, _ => none)
  | 3 => .ok (match r.witA with
      | some a => onlyIf (r.noBC && r.d == 0 && r.flg == 0) (some (.wwait a))
      | none => none)
  | _ => .error .form

def decMain (r : FM) : Except Reject (Option Instr) :=
  match r.sub.toNat with
  | 0 => .ok (r.memV.map .gath) | 1 => .ok (r.memU.map .gaths) | 2 => .ok (r.memV.map .scat)
  | 3 => .ok (r.copyL.map .cpl) | 4 => .ok (r.copyB.map .cpb)
  | 5 => .ok (onlyIf (r.d == 0) (r.tagOnly.map .cpseal))
  | 6 => .ok (match sOf r.d, r.tagOnly with
      | some d, some t => some (.cpwait d t)
      | _, _ => none)
  | 7 => .ok (match sOf r.d, r.tagOnly with
      | some d, some t => some (.cpqry d t)
      | _, _ => none)
  | _ => .error .form

/-- The reserved bits of an FE word are zero and FLG has only bits of the mask (R202). -/
def FE.flags (r : FE) (mask : BitVec 3) : Bool := r.rsv == 0 && (r.flg &&& ~~~mask) == 0

def FE.side (r : FE) : Bool := r.fs == 1

def decHeap (r : FE) : Except Reject (Option Instr) :=
  let da := fun (k : SReg → SReg → Instr) => match sOf r.d, sOf r.a with
    | some d, some a => some (k d a)
    | _, _ => none
  let dac := fun (k : SReg → SReg → OptS → Instr) => match sOf r.d, sOf r.a, optOf r.c with
    | some d, some a, some c => some (k d a c)
    | _, _, _ => none
  match r.sub.toNat with
  | 0 => .ok (onlyIf (r.b == 0xFF && r.flags 3) (dac (fun d a c => .halloc d a c (r.flg.getLsbD 0) (r.flg.getLsbD 1) r.side)))
  | 1 => .ok (onlyIf (r.b == 0xFF && r.flags 0) (dac (fun d a c => .hfree d a c r.side)))
  | 2 => .ok (onlyIf (r.b == 0xFF && r.c == 0xFF && r.flags 0) (da (fun d a => .hqry d a r.side)))
  | 3 => .ok (onlyIf (r.b == 0xFF && r.flags 0) (dac (fun d a c => .pcommit d a c r.side)))
  | 4 => .ok (onlyIf (r.b == 0xFF && r.flags 1) (dac (fun d a c => .pdecommit d a c (r.flg.getLsbD 0) r.side)))
  | 5 => .ok (onlyIf (r.b == 0xFF && r.c == 0xFF && r.flags 0) (da (fun d a => .pqry d a r.side)))
  | _ => .error .form

def decStream (r : F3) : Except Reject (Option Instr) :=
  match r.sub.toNat with
  | 0 => .ok (match qOf r.d, sOf r.a, sOf r.b, sOf r.c with
      | some q, some a, some b, some c =>
        onlyIf (r.ka == 1 && r.kb == 1 && r.noX && !r.flg.getLsbD 2)
          (some (.strm q a b c (.ofCode r.sz) (r.flg.getLsbD 0) (r.flg.getLsbD 1)))
      | _, _, _, _ => none)
  | 1 => .ok (match r.uimm with
      | some (.imm i) => onlyIf (i.toNat < 16 && r.d == 0 && r.a == 0 && r.ka == 0 && r.sz == 0 && r.noX && r.flg == 0)
          (some (.strmend (i.extractLsb' 0 4)))
      | _ => none)
  | 2 => .ok (match r.uimm, qOf r.d with
      | some (.imm i), some q => onlyIf (r.a == 0 && r.ka == 0 && r.sz == 0 && r.noX && r.flg == 0) (some (.qmark q i))
      | _, _ => none)
  | 3 => .ok (match r.uimm, sOf r.d with
      | some (.imm i), some d => onlyIf (i.toNat < 4 && r.a == 0 && r.ka == 0 && r.sz == 0 && r.noX && r.flg == 0)
          (some (.qdisc d (i.extractLsb' 0 2)))
      | _, _ => none)
  | _ => .error .form

/-- A V-destination form of MAJ 0x20 with A and B (R338). -/
def F3.bigAB (r : F3) (k : BigA → BigB → Instr) : Option Instr :=
  match r.bigA, r.bigB with
  | some a, some b => some (k a b)
  | _, _ => none

/-- A form of MAJ 0x20 with A alone; B, KB and C are zero. -/
def F3.big1 (r : F3) (k : BigA → Instr) : Option Instr := onlyIf r.noBC (r.bigA.map k)

def F3.bigU (r : F3) (k : BigA → UImm → Instr) : Option Instr :=
  match r.bigA, r.uimm with
  | some a, some b => some (k a b)
  | _, _ => none

def F3.bigS1 (r : F3) (k : SReg → BigA → Instr) : Option Instr :=
  match sOf r.d with
  | some d => r.big1 (k d)
  | none => none

def decBig (r : F3) : Except Reject (Option Instr) :=
  let z := r.flg == 0
  let lo := flgHi r.flg == 0
  let sg := flgSg r.flg
  if r.sz = 0 && r.noX then
    match r.sub.toNat with
    | 0 => .ok (onlyIf z (r.bigAB (.badd r.d)))
    | 1 => .ok (onlyIf z (r.bigAB (.bsub r.d)))
    | 2 => .ok (onlyIf z (r.big1 (.bneg r.d)))
    | 3 => .ok (onlyIf lo (match sOf r.d with
        | some d => r.bigAB (fun a b => .bcmp d a b sg)
        | none => none))
    | 4 => .ok (onlyIf z (r.bigU (.bshl r.d)))
    | 5 => .ok (onlyIf lo (r.bigU (fun a k => .bshr r.d a k sg)))
    | 6 => .ok (onlyIf lo (r.bigU (fun a k => .bmuls r.d a k sg)))
    | 7 => .ok (onlyIf (lo && r.kb == 1) (match r.bigA, sOf r.b, sOf r.c with
        | some a, some b, some c => some (.bdivs r.d a b c sg)
        | _, _, _ => none))
    | 8 => .ok (onlyIf z (r.big1 (.bnorm r.d)))
    | 9 => .ok (onlyIf z (r.bigS1 .blen))
    | 10 => .ok (onlyIf lo (r.bigS1 (fun d a => .bbits d a sg)))
    | 11 => .ok (onlyIf (r.d == 0 && r.ka == 0 && r.kb == 1) (match sOf r.b with
        | some b =>
          if r.flg = 2 then (sOf r.c).map (fun c => .bspill r.a b (some c))
          else onlyIf (z && r.c == 0) (some (.bspill r.a b none))
        | none => none))
    | 12 => .ok (onlyIf (r.ka == 1 && r.kb == 0 && r.b == 0) (match sOf r.a with
        | some a =>
          if r.flg = 2 then (sOf r.c).map (fun c => .bfill r.d a (some c))
          else onlyIf (z && r.c == 0) (some (.bfill r.d a none))
        | none => none))
    | 13 => .ok (
        if r.flg = 0 then r.big1 (.bcvtTotc r.d)
        else if r.flg = 1 then r.big1 (.bcvtFromtc r.d)
        else if r.flg = 2 then r.bigS1 .bcvtF64
        else none)
    | _ => .error .form
  else if r.sub.toNat < 14 then .ok none else .error .form

def decLimbTile (r : F3) : Except Reject (Option Instr) :=
  match r.sub.toNat with
  | 0 => .ok (onlyIf (r.sz == 0 && r.noX && flgHi r.flg == 0) (match r.bigA, r.bigA2, sOf r.c with
      | some a, some b, some c => some (.bconv r.d a b c (flgSg r.flg))
      | _, _, _ => none))
  | 1 => .ok (onlyIf (r.sz == 0 && r.noX && r.ka == 0 && r.kb == 1) (match sOf r.b with
      | some b =>
        if r.flg = 1 then (sOf r.c).map (fun c => .cres r.d r.a b (some c))
        else onlyIf (r.flg == 0 && r.c == 0) (some (.cres r.d r.a b none))
      | none => none))
  | _ => .error .form

/-- The four S registers of a long-number or Accord command. -/
def FE.four (r : FE) (k : SReg → SReg → SReg → SReg → Instr) : Option Instr :=
  match sOf r.d, sOf r.a, sOf r.b, sOf r.c with
  | some d, some a, some b, some c => some (k d a b c)
  | _, _, _, _ => none

def decLong (r : FE) : Except Reject (Option Instr) :=
  match r.sub.toNat with
  | 0 => .ok (onlyIf (r.flags 0) (r.four (fun d a b c => .lmul d a b c r.side)))
  | 1 => .ok (onlyIf (r.flags 1) (r.four (fun d a b c => .ladd d a b c (r.flg.getLsbD 0) r.side)))
  | 2 => .ok (onlyIf (r.flags 0) (r.four (fun d a b c => .nttf d a b c r.side)))
  | 3 => .ok (onlyIf (r.flags 0) (r.four (fun d a b c => .ntti d a b c r.side)))
  | _ => .error .form

def decMatrix (r : F3) : Except Reject (Option Instr) :=
  let plain := r.sz == 0 && r.noX && r.flg == 0
  match r.sub.toNat with
  | 0 => .ok (onlyIf (plain && r.d == 0 && r.a == 0 && r.ka == 0) (match r.uimm with
      | some (.imm i) => onlyIf (i.toNat < 256) (some (.setfmt (.imm i)))
      | some (.s b) => some (.setfmt (.s b))
      | none => none))
  | 1 => .ok (onlyIf plain (match r.bigA, r.bigA2 with
      | some a, some b => some (.mma r.d a b r.c)
      | _, _ => none))
  | 2 => .ok (onlyIf plain (match r.bigA, r.bigA2 with
      | some a, some b => some (.mmq r.d a b r.c)
      | _, _ => none))
  | 3 => .ok (onlyIf (plain && r.a == 0 && r.ka == 0) (match r.uimm with
      | some (.imm i) => onlyIf (i.toNat < 256) (some (.zclr r.d (i.extractLsb' 0 8)))
      | _ => none))
  | 4 => .ok (onlyIf plain (match r.bigA, r.uimm with
      | some g, some row => some (.zld r.d g row)
      | _, _ => none))
  | 5 => .ok (onlyIf (plain && r.ka == 0) (r.uimm.map (.zst r.d r.a)))
  | 6 => .ok (onlyIf (r.ka == 0 && r.kb == 1 && r.noX && !r.sz.getLsbD 1) (match sOf r.b, optOf r.c, ZTy.ofCode r.flg with
      | some b, some c, some ty => some (.zcvt r.d r.a b c ty (r.sz.getLsbD 0))
      | _, _, _ => none))
  | 7 => .ok (onlyIf (r.sz == 0 && r.noX && r.ka == 0 && r.noBC && flgHi r.flg == 0) (some (.zadd r.d r.a (flgSg r.flg))))
  | _ => .error .form

def decAccord (r : FE) : Except Reject (Option Instr) :=
  match r.sub.toNat with
  | 0 => .ok (onlyIf (r.flags 0) (r.four (fun d a b c => .accrun d a b c r.side)))
  | 1 => .ok (onlyIf (r.flags 0 && r.a == 0xFF && r.b == 0xFF && r.c == 0xFF) ((sOf r.d).map (fun d => .accstat d r.side)))
  | _ => .error .form

def decBranch (r : FB) : Except Reject (Option Instr) :=
  let f0 := r.rsv == 0 && r.flg == 0
  let f1 := r.rsv == 0 && flgHi r.flg == 0
  let none0 := f0 && r.ck == 0 && r.cr == 0
  let sc := if r.ck = 1 then sOf r.cr else none
  match r.sub.toNat with
  | 0 => .ok (onlyIf none0 (some (.bra r.off)))
  | 1 => .ok (onlyIf f1 (sc.map (fun c => .brs c (flgSg r.flg) r.off)))
  | 2 => .ok (onlyIf (f1 && r.ck == 2) (some (.brv r.cr (flgSg r.flg) r.off)))
  | 3 => .ok (if none0 then some (.brz none r.off) else onlyIf f0 (sc.map (fun m => .brz (some m) r.off)))
  | 4 => .ok (onlyIf f0 (if r.ck = 2 then some (.bsplit (.v r.cr) r.off) else sc.map (fun m => .bsplit (.s m) r.off)))
  | 5 => .ok (onlyIf (none0 && r.off == 0) (some .join))
  | 6 => .ok (onlyIf f0 (sc.map (fun l => .call l r.off)))
  | 7 => .ok (onlyIf (f0 && r.off == 0) (sc.map .ret))
  | 8 => .ok (onlyIf f0 (sc.map (fun l => .jmpi l r.off)))
  | 9 => .ok (onlyIf f0 (sc.map (fun c => .loop c r.off)))
  | 10 => .ok (onlyIf (none0 && r.off == 0) (some .exit))
  | 11 => .ok (onlyIf (none0 && r.off == 0) (some .nop))
  | _ => .error .form

def F3.barOp (r : F3) : Option BarOp :=
  if r.ka = 1 && r.kb = 1 && r.noX && !r.sz.getLsbD 1 then
    match optOf r.d, optOf r.a, optOf r.b, BarLevel.ofCode r.flg with
    | some d, some w, some m, some lvl => some { d, w, m, n := r.c, lvl, settle := r.sz.getLsbD 0 }
    | _, _, _, _ => none
  else none

def decSync (r : F3) : Except Reject (Option Instr) :=
  match r.sub.toNat with
  | 0 => .ok (r.barOp.map .bar)
  | 1 => .ok (r.barOp.map .bararr)
  | 2 => .ok (match r.barOp with
      | some o => onlyIf (o.w == none && o.m == none) (some (.barwt o.d o.n o.lvl o.settle))
      | none => none)
  | 3 => .ok (match optOf r.d, sOf r.a with
      | some d, some a =>
        onlyIf (r.ka == 1 && r.kb == 1 && r.b == 0xFF && r.sz == 0 && r.noX && r.flg == 0) (some (.waitx r.c a d))
      | _, _ => none)
  | 4 => .ok (match sOf r.a, sOf r.b with
      | some a, some b =>
        onlyIf (r.d == 0xFF && r.ka == 1 && r.kb == 1 && !r.sz.getLsbD 1 && r.noX && r.flg == 0)
          (some (.sigx r.c a b (r.sz.getLsbD 0)))
      | _, _ => none)
  | 5 => .ok (match XOp.ofCode r.flg with
      | some op =>
        onlyIf (r.ka == 0 && r.kb == 0 && r.b == 0 && r.sz == 1 && r.noX && r.c.toNat < 16)
          (some (.xred r.d r.a (r.c.extractLsb' 0 4) op))
      | none => none)
  | _ => .error .form

def decTask (r : FE) : Except Reject (Option Instr) :=
  let dev := r.flg.getLsbD 1
  match r.sub.toNat with
  | 0 => .ok (match optOf r.d, sOf r.a, optOf r.c with
      | some d, some a, some w => onlyIf (r.flags 2 && r.b == 0xFF) (some (.qpost d a w dev r.side))
      | _, _, _ => none)
  | 1 => .ok (match sOf r.d, sOf r.a with
      | some d, some a => onlyIf (r.flags 0 && r.b == 0xFF && r.c == 0xFF) (some (.qinfo d a r.side))
      | _, _ => none)
  | 2 => .ok (match sOf r.d, sOf r.a, sOf r.b, optOf r.c with
      | some d, some a, some b, some w => onlyIf (r.flags 2) (some (.dpub d a b w dev r.side))
      | _, _, _, _ => none)
  | 3 => .ok (match sOf r.a, optOf r.c with
      | some a, some w =>
        onlyIf (r.flags 3 && r.d == 0xFF && r.b == 0xFF) (some (.dsig a w dev (r.flg.getLsbD 0) r.side))
      | _, _ => none)
  | 4 => .ok (match sOf r.d, sOf r.a, sOf r.b, optOf r.c with
      | some d, some a, some b, some w => onlyIf (r.flags 0) (some (.launch d a b w r.side))
      | _, _, _, _ => none)
  | _ => .error .form

def decSystem (r : F3) : Except Reject (Option Instr) :=
  let plain := r.sz == 0 && r.noX && r.flg == 0
  let noA := r.a == 0 && r.ka == 0
  match r.sub.toNat with
  | 0 => .ok (onlyIf (plain && noA && r.d == 0) (r.uimm.map .trap))
  | 1 => .ok (onlyIf (plain && noA && r.d == 0 && r.noBC) (some .tret))
  | 2 => .ok (onlyIf (plain && noA && r.d == 0) (match r.uimm with
      | some (.imm i) => some (.phint i)
      | _ => none))
  | 3 => .ok (onlyIf (plain && r.ka == 2 && r.noBC) ((Special.ofCode r.a).map (.srd r.d)))
  | 4 => .ok (onlyIf (plain && noA) (match Special.ofCode r.d, r.uimm with
      | some s, some b => some (.swr s b)
      | _, _ => none))
  | 5 => .ok (onlyIf (plain && noA && r.d == 0) (match r.uimm with
      | some (.imm i) => some (.bkpt i)
      | _ => none))
  | _ => .error .form

def decHeader (w : Word) : Option Instr :=
  onlyIf (w.extractLsb' 0 30 == 0)
    (some (.clauseStart { wait := w.extractLsb' 44 12, seta := w.extractLsb' 40 4, setb := w.extractLsb' 36 4,
                          len := w.extractLsb' 32 4, pp := w.getLsbD 31, yld := w.getLsbD 30 }))

def decPair (w : Word) : Option Instr :=
  if w.getLsbD 31 then none
  else match Half.of (w.extractLsb' 32 31), Half.of (w.extractLsb' 0 31) with
    | some x, some y => some (.pairedWord x y)
    | _, _ => none

/-- The reading of a word by its fields, before the rules of the form itself. -/
def decodeFields (w : Word) : Except Reject (Option Instr) :=
  if w.getLsbD 63 then .ok (decPair w)
  else
    match (w.extractLsb' 56 7).toNat with
    | 0x01 => decInteger (.unpack w)
    | 0x02 => decCompare (.unpack w)
    | 0x03 => decMove (.unpack w)
    | 0x04 => decScalar (.unpack w)
    | 0x05 => decScalarImm (.unpack w)
    | 0x06 => decLane (.unpack w)
    | 0x07 => decFloat (.unpack w)
    | 0x10 => decScratch (.unpack w)
    | 0x11 => decAtomic (.unpack w)
    | 0x12 => decWitness (.unpack w)
    | 0x13 => decMain (.unpack w)
    | 0x14 => decHeap (.unpack w)
    | 0x15 => decStream (.unpack w)
    | 0x20 => decBig (.unpack w)
    | 0x21 => decLimbTile (.unpack w)
    | 0x22 => decLong (.unpack w)
    | 0x28 => decMatrix (.unpack w)
    | 0x29 => decAccord (.unpack w)
    | 0x30 => decBranch (.unpack w)
    | 0x31 => decSync (.unpack w)
    | 0x32 => decTask (.unpack w)
    | 0x38 => decSystem (.unpack w)
    | 0x7F => .ok (decHeader w)
    | _ => .error .major

/-- The decoder (R220): a well-formed instruction, or the reason the word is none. -/
def decode (w : Word) : Except Reject Instr :=
  match decodeFields w with
  | .error e => .error e
  | .ok none => .error .field
  | .ok (some i) => if i.wf then .ok i else .error .illFormed

/-- The decoder on a word numbered as spec/opcode_table.json numbers it: an instruction is one 64-bit
word, so the bits above `nbits` are zero. -/
def decodeTableWord (nbits w : Nat) : Option Instr := (decode (BitVec.ofNat 64 (w % 2 ^ nbits))).toOption

end Sys2Proof
end

