-- ==== Sys2Proof/Config.lean ====
section
/-! DEFINITION. What an implementation fixes, and the free values: values the manual leaves open.
Each is an opaque constant with no body, so no proof can learn its value (assumption log 6). -/

namespace Sys2Proof.Config

/-- The n-th free value (log 6): partial contents of a destination after MEM_ERROR (R355), which of two
values an accumulator of a stopped rule holds (R385), and every other value the manual leaves open. -/
opaque freeValue : Nat → BitVec 64

/-- The four frame-hash functions of R145: hash version and die-relative frame to an 8-bit hash. -/
opaque frameHash : Nat → Nat → BitVec 8

/-- Whether the ML-DSA-44 check of R470 accepts a firmware image with a signature, under the key whose hash is fused. The key and the
image form are not in the manual. -/
opaque imageSigned : List Byte → List Byte → Bool

/-- The version number a firmware image carries (R470). -/
opaque imageVersion : List Byte → Nat

/-- The fused rollback counter (R470). -/
opaque rollbackCounter : Nat

/-- The identity capability of the part (R471, R474). -/
opaque identity : List Byte

/-- The device's public key (R471). -/
opaque devicePublicKey : Vector Byte 1312

/-- The ML-DSA-44 signature of an attestation report, under the key that a public key belongs to (R471). -/
opaque attestationSignature : Vector Byte 1312 → List Byte → Vector Byte 2420

/-- The mapping from a BAR0 offset to a register with no behaviour of its own (R462): whether the
offset names one. The register directory gives the offsets. -/
opaque plainRegister : Nat → Bool

/-- The internal resume record of a fault ticket (R44): context, ticket number, word 0 to 7. Its contents are not
in the manual. -/
opaque resumeWord : Nat → Nat → Nat → Word

/-- The 1,920 bytes of a saved warp frame's control section (R457), whose form only the E12 knows. -/
opaque controlByte : Nat → Nat → Byte

/-- The device frontier that another package of the load-store domain reports (R98, R132): package and tick. -/
opaque peerFrontier : Nat → Nat → Nat

end Sys2Proof.Config
end

