-- ==== Sys2Proof/Machine/State.lean ====
section
/-! DEFINITION. The machine's state, as plain data, the reasons a step can stop, and the state after reset.
The names are the manual's. `Sys` is everything but the bytes of memory. -/

namespace Sys2Proof.Machine

/-- A finite table from numbers to values, keys strictly rising; an absent key holds the default its field names. -/
abbrev Table (α : Type) := List (Nat × α)

/-- Memory: byte keys and bytes, keys strictly rising, no zero byte listed (R24, R57, R64; logs 2, 7).
The key of a location is made by `mainKey`, `scratchKey` and `dieKey` of Machine/Memory.lean. -/
abbrev Memory := List Host.Cell

/-! ### Traps -/

/-- The causes (R446), named by bit. -/
inductive Cause where
  | illegal | unguarded | uniformity | convergence | membership | scratchBounds | spillBounds | window
  | align | witness | page | protection | longOperand | length | divzero | format | quad
  | accordDepth | accordForward | accordBounds | queueUnderrun | noBin | depUnderflow | heapExhausted
  | heapInvalid | memError | impreciseStore | hang | software | breakpoint | blockHalt | fpx
  deriving DecidableEq, Repr

/-- The reasons of TINFO (R445). -/
inductive Reason where
  | none | noncanon | malformed | write | fetch | firewall | poison | timeout | link | withdrawn
  deriving DecidableEq, Repr

/-- What a cause records (R440, R445, R446): EPC is the place where it is delivered. `opc` is the
originating PC, or 0. -/
structure TrapInfo where
  cause : Cause
  tval : Word
  tlanes : LaneMask
  reason : Reason
  opc : Word
  ext : Bool
  deriving DecidableEq, Repr

/-- Who a fault-log record names (R452). -/
structure Who where
  ctx : Nat
  tskid : Word
  flat : Nat
  index : Nat
  slot : Nat
  part : Nat
  core : Nat
  deriving DecidableEq, Repr

/-- A completion flag (R189): the count, and E with its record. -/
structure Flag where
  count : Nat
  err : Option TrapInfo
  deriving DecidableEq, Repr

/-! ### Sub-warps -/

/-- A frame of the divergence stack (R183, R184). `fall` marks the child of the fall-through path; `gone` holds the
lanes of a sibling that has exited (R398). -/
inductive Frame where
  | serial (perm exec : LaneMask) (pending : Option (Word × LaneMask))
  | split (entry : Nat) (fall : Bool) (gone : Option LaneMask)
  deriving DecidableEq, Repr

/-- A clause in progress (R210): its header's address, the header, the memory key of the header word before placement,
and the code of its leaf's mapping (R144). -/
structure Clause where
  addr : Word
  h : Header
  key : Nat
  map : Nat
  deriving DecidableEq, Repr

/-- Where a sub-warp stands: at a clause boundary; inside a clause; or due to resume at a word of the
clause with the recorded header (R413). -/
inductive Place where
  | boundary
  | inside (c : Clause)
  | resume (header : Word)
  deriving DecidableEq, Repr

/-- What a sub-warp waits on (R436 and the instruction chapters). At a barrier: the instance, the result register,
whether the result settles, and whether the word issues again once the instance is over (R403). A wait that its word tests anew holds
what the port needs to tell that it is over (R430): the flag that is full; the tag and the number of lane copies; the scratch ranges;
the tiles; the queue and the entries wanted; the queues whose streams push. `abandoned`: HANG has ended the WAIT
of a header, whose clause starts without it (R449). -/
inductive Wait where
  | none
  | flags (mask : BitVec 12)
  | flagFull (f : Nat)
  | witness (w : Word)
  | translating (pages : List Nat)
  | ticket (page : Nat) (ring : Bool)
  | resumed
  | barrier (key : BarKey) (inst : Nat) (d : OptS) (settle again : Bool)
  | settle (w : Word) (d : OptS)
  | mmq (cohort inst : Nat)
  | join (entry : Nat)
  | binRoom (die bin : Nat)
  | counter (c : BitVec 8) (least : Word)
  | copyRoom (tag : BitVec 3) (n : Nat)
  | scratch (l : List (Nat × Nat))
  | tiles (l : List Nat)
  | queue (q : BitVec 2) (n : Nat)
  | clock
  | streams (mask : BitVec 4)
  | exiting
  | handlerBusy
  | debugger
  | abandoned
  deriving DecidableEq, Repr

/-- One page of a translation set that a waiting word or an operation keeps (R35, R39): virtual page, level and leaf. -/
structure PageLeaf where
  vpage : Nat
  level : Nat
  pte : Word
  deriving DecidableEq, Repr

/-- A sub-warp (R182). `under`: the wait of its word, where a miss of its code page hides it (R307). `came`: the transfer that brought it to a
clause that it has not started: the transferring word's PC and header (R395, log 13). `set`: the translation set of a word that waits behind it (R289, R307). `ext`: the tick at which the
external wait began that is being counted, and its count (R438). `since`: the tick at which its wait began. `ready`: the cycle since which it has been eligible
without issuing, and `boosted`: that is 1,024 cycles ago (R432). `stopped`: it has stopped to be saved (R454). -/
structure Sub where
  id : Nat
  pc : Word
  place : Place
  lset : LaneMask
  perm : LaneMask
  exec : LaneMask
  frames : List Frame
  wait : Wait
  under : Wait
  came : Option (Word × Word)
  set : List PageLeaf
  since : Nat
  ext : Nat × Nat
  ready : Nat
  boosted : Bool
  stopped : Bool
  deriving DecidableEq, Repr

/-! ### The access slice and the queues -/

/-- An entry of an operand queue (R77): 32 lanes, an entry whose element failed (R334) with the address and the PC of the read that
failed (R446), or a marker. -/
inductive QEntry where
  | data (l : Lanes)
  | failed (l : Lanes) (lanes : LaneMask) (reason : Reason) (va : Nat) (pc : Word)
  | marker (v : BitVec 16)
  deriving DecidableEq, Repr

/-- A stream (R333): its operands, how many of its elements' groups it has pushed, the high entry of a 64-bit group of which only the
low one has gone in, and the page whose ticket it waits on (R334). -/
structure Stream where
  q : BitVec 2
  base : Word
  desc : Word
  strides : Word
  sz : Sz
  sext : Bool
  locl : Bool
  pos : Nat
  high : Option QEntry
  pc : Word
  parked : Option Nat
  deriving DecidableEq, Repr

/-- What stands in line for a queue in the access slice: a stream, or a marker behind it (R332). -/
inductive QJob where
  | stream (s : Stream)
  | mark (v : BitVec 16)
  deriving DecidableEq, Repr

/-- The access context of a warp (R84, R333). `raised`: the cycle in which a cause of its own ended it (R442). -/
structure Access where
  xregs : Vector Word 32
  sub : Sub
  jobs : Vector (List QJob) 4
  ended : Bool
  raised : Option Nat
  deriving DecidableEq, Repr

/-! ### Warps and blocks -/

/-- A copy batch of a warp (R318): `taken` once a CPWAIT covers it. -/
structure Batch where
  no : Nat
  tag : BitVec 3
  closed : Bool
  taken : Bool
  wit : Word
  err : Option TrapInfo
  deriving DecidableEq, Repr

/-- The latest arrival of a warp at a barrier (R402, R403): its instance is open, complete with a result, ended by
unequal masks, or so ended and already reported. -/
inductive BarResult where
  | open_ | done (w : Word) | unequal | spent
  deriving DecidableEq, Repr

/-- A warp's slot at a barrier (R403): how often it has arrived, and how its latest arrival stands. -/
structure BarSlot where
  key : BarKey
  arrived : Nat
  result : BarResult
  deriving DecidableEq, Repr

/-- Handler mode (R447, R413): the sub-warp, those split from it since (log 14), the cause handled, the EXEC shadow, EPC and header as recorded,
whether EPC has been written, whether its entry clause has started, the cycle of entry by a precise cause of its own (R442), the pending causes, and the
causes of other sub-warps that wait for handler mode to end (R448). -/
structure Handler where
  sub : Nat
  kin : List Nat
  cause : Cause
  shadow : LaneMask
  epc : Word
  header : Word
  epcWritten : Bool
  entered : Bool
  cycle : Option Nat
  pending : List TrapInfo
  queued : List (Nat × TrapInfo)
  deriving DecidableEq, Repr

/-- A register word, a shape-file entry or an entry of an operand queue with an uncorrectable error (R85). -/
inductive BadReg where
  | v (r : Nat) (lanes : LaneMask)
  | s (r : Nat)
  | f (r : Nat)
  | x (r : Nat)
  deriving DecidableEq, Repr

/-- A block-halt that a warp has received (R441, R451): the sender's WARPID and cause, and whether it ends the warp. -/
structure Halt where
  who : Nat
  cause : Cause
  fatal : Bool
  cycle : Nat
  deriving DecidableEq, Repr

/-- A warp (R164, R181, R188, R191). `id` rises with placement: it is the age (R430). -/
structure Warp where
  id : Nat
  block : Nat
  index : Nat
  part : Nat
  slot : Nat
  budget : Nat
  spillBase : Nat
  spillSize : Nat
  vregs : Vector Lanes 256
  shapes : Vector (BitVec 8) 256
  tops : Vector Limb 256
  sregs : Vector Word 128
  flags : Vector Flag 12
  queues : Vector (List QEntry) 4
  access : Option Access
  subs : List Sub
  splits : List Nat
  exited : LaneMask
  fmt : Word
  nbv : Word
  fpctl : Word
  nttth : Word
  phase : Word
  cause : Word
  epc : Word
  tval : Word
  tlanes : LaneMask
  tinfo : Word
  hstat : Word
  handler : Option Handler
  halt : Option Halt
  batches : List Batch
  batchNo : Nat
  accord : Word
  accordTag : Word
  bars : List BarSlot
  mmqs : Table Nat
  bad : List BadReg
  hint : Option Nat
  deriving DecidableEq, Repr

/-- What a block runs for (R164, R173): a block of a grid, or a task of a bin. -/
inductive Job where
  | grid (launch flat : Nat)
  | task (die bin delivery : Nat) (record : List Word)
  deriving DecidableEq, Repr

/-- A resident block (R59, R164, R165). `first` is the identifier of the first block of its launch cluster. `engineWarp`:
what the warp of an engine task's block holds (R173): spill base and size, V budget. `ending`: the block has ended, and
its shared allocation stays for its cluster (R61). `recAt`: the address of a task's record, where it came from memory (R452). -/
structure Block where
  id : Nat
  job : Job
  recAt : Option Word
  ctx : Nat
  core : Nat
  first : Nat
  rank : Nat
  size : Nat
  nwarps : Nat
  scrBase : Nat
  scrSize : Nat
  engineWarp : Option (Nat × Nat × Nat)
  zBase : Nat
  zCount : Nat
  prio : Nat
  launch : Nat
  handler : Word
  acc : Table (BitVec 128)
  badAcc : List Nat
  started : Bool
  ending : Bool
  deriving DecidableEq, Repr

/-! ### Memory traffic -/

/-- The origins (R96). -/
inductive Origin where
  | part (core p : Nat)
  | accord (core : Nat)
  | copy (cluster : Nat)
  | long (cluster : Nat)
  | flacon (die : Nat)
  | proc (die : Nat)
  | host
  | novdel (port : Nat)
  deriving DecidableEq, Repr

/-- One lane's part of an atomic request (R119): lane, operand, and the comparand of CAS. -/
structure AtomLane where
  lane : Nat
  val : Word
  cmp : Word
  deriving DecidableEq, Repr

/-- Who builds a translation set: a sub-warp or an access context, a stream of a warp, an operation, or a bin (R35, R39, R428). -/
inductive Asker where
  | sub (warp : Nat) (o : Option Nat)
  | stream (warp q : Nat)
  | op (id : Nat)
  | bin (ctx die n : Nat)
  deriving DecidableEq, Repr

/-- What a request does at the home (R88, R89, R118). `held`: one access of an engine's unit of work, which waits at the home or on a
path out of the package for the unit to be done; `w` tells a write. `asked`: a read of a code fetch or of a stream outside the package,
which the asker takes up when it tries again; `why`: it has failed (R163). -/
inductive ReqKind where
  | read
  | write (data : List Byte)
  | atomic (aop : Aop) (wide : Bool) (lanes : List AtomLane)
  | held (w : Bool)
  | asked (a : Asker) (why : Option Reason)
  deriving DecidableEq, Repr

/-- A request on its way to a home (R88 to R92, R141). `lanes` are the elements it stands for (element 32 r + i is lane
i of register r), `va` the address that reports name. `arrived`: it reads, and its home holds it until the writes performed before it
came are visible (R89). -/
structure Req where
  id : Nat
  op : Nat
  origin : Origin
  tick : Nat
  key : Nat
  size : Nat
  kind : ReqKind
  lanes : List Nat
  va : Nat
  ctx : Nat
  bounced : Bool
  arrived : Bool
  left : Nat
  deriving DecidableEq, Repr

/-- A sector that the host is asked to give back, and since when (R464): it counts as held until the host has answered. `own`: for a write of
the control die itself. -/
structure Snoop where
  sector : Nat
  tick : Nat
  own : Bool
  deriving DecidableEq, Repr

/-- A sector that the home cache lacks (R143), with the request tag of R149 and the packet that needs it: its operation and page. -/
structure Wanted where
  sector : Nat
  ctx : Nat
  vpage : Nat
  packet : Nat × Nat := (0, 0)
  deriving DecidableEq, Repr

/-- A performed write that is not yet visible (R88). -/
structure Unseen where
  origin : Origin
  tick : Nat
  key : Nat
  size : Nat
  op : Nat
  deriving DecidableEq, Repr

/-- Who reads, where a home holds a read that is no request of a warp (R89): an operation, a stream or a fetch of a warp, the control die,
the host, or a table walk. -/
inductive ReadBy where
  | op (id : Nat)
  | warp (id : Nat)
  | control
  | host
  | walk
  deriving DecidableEq, Repr

/-- A read that has come to its home and waits there for the writes performed before it to become visible (R89): no later write is
performed before it. It waits at most 3 ticks. -/
structure Reading where
  key : Nat
  size : Nat
  tick : Nat
  who : ReadBy
  deriving DecidableEq, Repr

/-- How far a long-latency operation or engine command has come. -/
inductive Stage where
  | queued | parked (page : Nat) | resumed | running | done
  deriving DecidableEq, Repr

/-- An outstanding long-latency operation or engine command (R214, R215, R126): the instruction, who issued it, the
operands it read at issue, the registers that are pending, and what it has produced so far. A command of an
engine task (R172) or of a command processor has no warp. `phase`: PHASE of its warp at issue (R434). `set` is the translation set it keeps. `home`: the lanes of its sub-warp, once that has exited (R443). `lost`: its accesses as an engine that
have failed on their way: key, length, whether it writes, and why (R163). `moved`: the units of a copy that have moved, each with
its tick (R318). `results` lists
register writes by their codes (`codeV`, `codeS`). -/
structure Op where
  id : Nat
  instr : Instr
  warp : Option Nat
  sub : Nat
  lanes : LaneMask
  pc : Word
  ctx : Nat
  core : Nat
  part : Nat
  slot : Nat
  index : Nat
  block : Nat
  flag : Option Nat
  tick : Nat
  wit : Word
  args : List Word
  phase : Nat
  set : List PageLeaf
  pendV : List Nat
  pendS : List Nat
  results : List (Nat × Word)
  status : Nat
  out : Word
  err : Option TrapInfo
  stage : Stage
  pos : Nat
  batch : Option Nat
  home : LaneMask
  lost : List (Nat × Nat × Bool × Reason)
  moved : List (Nat × Nat)
  deriving DecidableEq, Repr

/-- An imprecise cause on its way (R443), or one of the access slice (R445). `halts`: its block-halt has not gone out yet (R441). -/
structure Imprecise where
  no : Nat
  who : Who
  warp : Nat
  sub : Nat
  lanes : LaneMask
  info : TrapInfo
  block : Nat
  halts : Bool
  deriving DecidableEq, Repr

/-- Where a translation is cached (R29). -/
inductive TlbAt where
  | core (c : Nat)
  | die (d : Nat)
  deriving DecidableEq, Repr

/-- A cached leaf (R29): the CTX field of its context's root (R20), virtual page base, level, entry. -/
structure TlbEntry where
  place : TlbAt
  ctx : Nat
  base : Nat
  level : Nat
  pte : Word
  deriving DecidableEq, Repr

/-- How a walk ended (R21, R25, R31, R54, R159). -/
inductive Walk where
  | leaf (level : Nat) (pte : Word)
  | absent (level : Nat) (pte : Word)
  | malformed (level : Nat) (pte : Word)
  | firewall (pa : Nat)
  | failed (reason : Reason)
  deriving DecidableEq, Repr

/-- An entry of a die's translation-miss table (R30): a page, and who waits for its walk. -/
structure Miss where
  die : Nat
  ctx : Nat
  vpage : Nat
  askers : List Asker
  deriving DecidableEq, Repr

/-- How a walk ended, as a translation set that waited for it holds it until the set is over (R35, R39). -/
structure Found where
  asker : Asker
  die : Nat
  ctx : Nat
  vpage : Nat
  walk : Walk
  deriving DecidableEq, Repr

/-- An invalidation that has dropped its entries and is not complete (R32): its context (none: every one), the first of its
pages and their number (none: every page of the context), the page ranges of the large entries that it dropped (first, number), and the
identifier from which on what is translated is later than it. -/
structure Inval where
  ctx : Option Nat
  first : Nat
  count : Option Nat
  also : List (Nat × Nat)
  upto : Nat
  deriving DecidableEq, Repr

/-- A fault record held in the miss table until it is accepted (R42, R43). -/
structure HeldFault where
  ctx : Nat
  die : Nat
  record : List Word
  deriving DecidableEq, Repr

/-! ### Contexts -/

/-- The state of a heap block (R325, R327). -/
inductive HeapState where
  | free | live | freeing
  deriving DecidableEq, Repr

/-- A block of the Flacon heap (R325): class, owning agent, state, and the two witnesses of its last free (R129). -/
structure HeapBlock where
  addr : Nat
  cls : Nat
  owner : Nat
  state : HeapState
  wit : Word
  mark : Word
  deriving DecidableEq, Repr

/-- An armed fault ticket (R44): its number in the ticket area and the virtual page. -/
structure Ticket where
  no : Nat
  vpage : Nat
  deriving DecidableEq, Repr

/-- The host fault ring as the control die holds it (R43). -/
inductive RingState where
  | ok | full | error
  deriving DecidableEq, Repr

/-- A context (R40, R404, R435, R436, R452, R456, R474). `ringStale`: what stood in HEAD of the host ring when the ring was started anew, which
counts as 0 (R43). -/
structure Context where
  desc : Vector Word 8
  hangcfg : Word
  savecfg : Word
  capva : Word
  arena : Option (Nat × Nat)
  heap : List HeapBlock
  log : List (List Byte)
  dropped : Nat
  hang : Nat
  event : Bool
  frozen : Bool
  claimed : Bool
  ringTail : BitVec 32
  ringState : RingState
  ringStale : BitVec 32
  tickets : List Ticket
  counters : Table Word
  held : Bool
  deriving DecidableEq, Repr

/-! ### Bins, queues and grids -/

/-- A record in a bin (R175, R408, R427, R452): its words, its delivery number, the tick at which it was accepted, the TDIE with which it
was accepted, and its address where it came from memory. -/
structure BinRec where
  words : List Word
  no : Nat
  tick : Nat
  tdie : Nat
  addr : Option Word
  deriving DecidableEq, Repr

/-- What the die keeps of a record that lies in the ring; `ticket`: its word 4, the ticket of a fault record (R41, R436). -/
structure RingRec where
  no : Nat
  tick : Nat
  tdie : Nat
  addr : Option Word
  ticket : Word
  deriving DecidableEq, Repr

/-- A bin of an installed table (R174, R427, R428): the four words of its entry, the hardware queue, the records
held for the ring (`ring`: what the die keeps of each written one), ring head and tail, and its counts. `heldParked` and
`refillParked`: the page on whose ticket, or past 2^40 on whose invalidation, the next ring write or read waits. `reserved`
counts room reserved by QPOST. `expired`: the head's timer has run out; `since` and `raised`: from which cycle the head
has waited for room, and by how many classes it is raised (R429). -/
structure Bin where
  cfg : Vector Word 4
  hwq : List BinRec
  ring : List RingRec
  held : List BinRec
  heldParked : Option Nat
  refillParked : Option Nat
  head : Nat
  tail : Nat
  running : Nat
  accepted : Nat
  reserved : Nat
  expired : Bool
  since : Option Nat
  raised : Nat
  deriving DecidableEq, Repr

/-- An installed bin table (R174). -/
structure Bins where
  ctx : Nat
  die : Nat
  launch : Nat
  handler : Word
  bins : Vector Bin 64
  deriving DecidableEq, Repr

/-- A post of a counter that waits for bin room (R175). -/
structure WaitingPost where
  ctx : Nat
  die : Nat
  bin : Nat
  record : List Word
  addr : Option Word
  op : Option Nat
  deriving DecidableEq, Repr

/-- A role of a launch (R166). -/
structure Role where
  entry : Word
  access : Word
  budget : Nat
  warps : Nat
  deriving DecidableEq, Repr

/-- Claimed blocks of one launch cluster that wait for room (R424, R429): `count` flat indices from `flat` on, claimed in
`cycle`. `since` and `raised`: from which cycle this work has waited, and by how many classes it is raised. -/
structure Claim where
  die : Nat
  flat : Nat
  count : Nat
  cycle : Nat
  since : Nat
  raised : Nat
  deriving DecidableEq, Repr

/-- How far a grid has come (R422, R423, R426). -/
inductive GridState where
  | accepted | running | aborted | complete
  deriving DecidableEq, Repr

/-- A grid (R419 to R426): launch ID, the slot it came from, the LPB, its tables, and its counts. `judged`: its input
witness has been judged and is bad (R422). `exhausted`: every index is claimed (R423). `installs`: dies where its bin table is still to be installed. `raised`: for each
die, from which cycle the grid has waited there as a source, and by how many classes it is raised (R429). `accept`: the
tick of its acceptance, and later of its latest block end. -/
structure Grid where
  launch : Nat
  ctx : Nat
  slotPA : Word
  lpb : Vector Word 32
  binTable : List Word
  prio : Nat
  roles : List Role
  cohorts : Vector Word 256
  ticketKey : Nat
  state : GridState
  judged : Bool
  exhausted : Bool
  installs : List Nat
  claims : List Claim
  assigned : List (Nat × Nat)
  ended : List Nat
  raised : Table (Nat × Nat)
  accept : Nat
  deriving DecidableEq, Repr

/-- One arrival at a barrier instance (R401): participant (flat block index, warp index), witness, mask. -/
structure Arrival where
  block : Nat
  warp : Nat
  wit : Word
  mask : LaneMask
  deriving DecidableEq, Repr

/-- A barrier instance that is collecting arrivals (R402). -/
structure BarInst where
  key : BarKey
  inst : Nat
  arrivals : List Arrival
  deriving DecidableEq, Repr

/-- One arrival at an MMQ instance (R367); `pops`: the queue entries that its word takes. -/
structure MmqArrival where
  warp : Nat
  sub : Nat
  pops : List (BitVec 2 × Nat)
  tile : Nat
  a : List Lanes
  b : List Lanes
  c : Nat
  fmt : Word
  bField : BitVec 8
  deriving DecidableEq, Repr

/-- An MMQ instance (R368). -/
structure MmqInst where
  block : Nat
  cohort : Nat
  inst : Nat
  arrivals : List MmqArrival
  deriving DecidableEq, Repr

/-- One local contribution to an XRED instance (R406). -/
structure XContrib where
  op : Nat
  who : Nat
  xop : XOp
  lanes : Lanes64
  deriving DecidableEq, Repr

/-! ### Pre-emption -/

/-- A saved warp (R455, R457): the warp, the liveness record it was saved with (`none` for a whole save), the physical address
of its frame, and the number of the control section that was written there (log 25). -/
structure SavedWarp where
  warp : Warp
  live : Option (List Word)
  frame : Nat
  serial : Nat
  deriving DecidableEq, Repr

/-- A block of which warps are saved (R458, R459). `out`: the block has left its core, and its frame at `frame` holds the
granules `grans` of its shared allocation and the tiles `tiles`; `poison` tells which words of those granules are poisoned, from the allocation's start. -/
structure SavedBlock where
  block : Block
  warps : List SavedWarp
  out : Bool
  grans : List Nat
  tiles : List Nat
  frame : Nat
  poison : List Nat
  deriving DecidableEq, Repr

/-- What a context switch saved of a context besides its blocks (R460): its bin tables, the physical address of what is written of them,
and the die scratchpads it owned, each with its DSRCFG and the physical address of its copy. -/
structure SavedContext where
  ctx : Nat
  bins : List Bins
  binAt : Nat
  dies : List (Nat × Word × Nat)
  deriving DecidableEq, Repr

/-- A context switch under way (R460): the contexts, the last step done, and its tick. -/
structure Switch where
  out : Nat
  inn : Nat
  phase : SwitchPhase
  tick : Nat
  deriving DecidableEq, Repr

/-- A pre-emption request (R454): the blocks it names and the cycle of the request. -/
structure Preempt where
  unit : PreemptUnit
  cycle : Nat
  deriving DecidableEq, Repr

/-- A page migration under way (R50). `stale`: its leaf has been written since it began (R52). -/
structure Migration where
  ctx : Nat
  vpage : Nat
  src : Nat
  dst : Nat
  pte : Word
  leafKey : Nat
  phase : MigPhase
  background : Bool
  stale : Bool
  deriving DecidableEq, Repr

/-! ### The parts of the machine around the warps -/

/-- The clocks and frontiers (R4, R97, R98). `now` is the visibility clock without its wrap: a reading is
`now mod 2^52` (log 8). DESIGN CHOICE (log 117): R4 bounds the skew between two readings inside the package by 1 tick, and R93 has every origin
and home read its clock locally; every one of them reads this one clock, so that the skew is 0. -/
structure Time where
  now : Nat
  cycle : Nat
  cycleBase : Vector Nat 6
  clusterF : Vector Nat 60
  dieF : Vector Nat 6
  deviceF : Nat
  systemF : Nat
  peerF : Table Nat
  deriving DecidableEq, Repr

/-- A region-table entry (R146). -/
structure Region where
  conf : Nat
  state : Nat
  noremap : Bool
  hver : Nat
  deriving DecidableEq, Repr

/-- A compute die (R65, R67, R85, R146, R151, R453, R472). `dsrNew`: a write of DSRCFG that is under way. `corrected`: the
corrected errors counted. `regionAll` is what every region of the die holds that `regions`
does not list. `lastServed`: for each class, the source that had the last turn of R429 (0: none). -/
structure Die where
  dsrcfg : Word
  dsrNew : Option Word
  regionAll : Region
  regions : Table Region
  remapcfg : Word
  conflicts : Nat
  samples : List (Nat × Nat)
  openRows : Table Nat
  corrected : Nat
  halted : Bool
  throttled : Bool
  lastServed : Vector Nat 4
  deriving DecidableEq, Repr

/-- A firewall region (R53): base and limit, in units of 64 KiB and the limit exclusive (log 94), the KIND of the range, permissions,
and the class mask (bit 0 core contexts, 1 engines, 2 host functions, 3 Novdel ingresses). -/
structure FwRegion where
  base : Nat
  limit : Nat
  kind : Nat
  read : Bool
  write : Bool
  classes : BitVec 4
  deriving DecidableEq, Repr

/-- What a freeze holds (R55). -/
inductive Frozen where
  | context (ctx : Nat)
  | function (fn : Nat)
  | ingress (port : Nat)
  deriving DecidableEq, Repr

/-- An entry of the freeze log (R55). -/
structure Freeze where
  held : Frozen
  requester : Origin
  ctx : Nat
  pa : Nat
  write : Bool
  tick : Nat
  released : Bool
  deriving DecidableEq, Repr

/-- A launch queue (R417, R418). -/
structure Queue where
  cfg : Word
  head : BitVec 32
  tail : BitVec 32
  deriving DecidableEq, Repr

/-- A status that the control die returns to system software (R52, R65, R146, R147, R151, R162, R435, R456, R460). -/
inductive CtlStatus where
  | ok | invalid | noSpace | busy | rejected
  deriving DecidableEq, Repr

/-- The PC that the debug unit has received from a sub-warp that BKPT halted (R453). -/
structure Broken where
  warp : Nat
  sub : Nat
  pc : Word
  deriving DecidableEq, Repr

/-- The registers of the control die (R162, R146 to R151, R417, R453, R466, R469 to R474). `status`: the answer to the latest write of
system software. `pageAnswer`: the status and the witness that the latest page command of the host returned (R47, R49). `extentAck`: the latest acknowledgement of an extent: its die, the regions that changed, and whether they are
online now (R158, R160). `msix`: how many interrupts of vector 0 the host has been sent. `mailbox`: the recovery mailbox. `broken`: what the debug
unit has received. -/
structure Control where
  ctocfg : Word
  shapes : Vector Word 64
  remaplog : Word
  remapHead : BitVec 32
  remapTail : BitVec 32
  evcfg : Word
  eventHead : BitVec 32
  eventTail : BitVec 32
  queues : Table Queue
  lastQueue : Vector Nat 4
  launches : BitVec 32
  grpcfg : Table (Word × Nat)
  sillage : Table (Vector Nat 14)
  measure : Vector (BitVec 256) 8
  booted : Bool
  recovery : Bool
  held : Bool
  pwrcap : Nat
  powerThrottle : Bool
  packageId : Nat
  routes : Table Nat
  capPage : Nat
  report : List Byte
  others : Table Word
  epoch : Nat
  hostMasks : Table (BitVec 64)
  portMasks : Table (BitVec 64)
  hostFrozen : List Nat
  status : CtlStatus
  invalWit : Word
  pageAnswer : Option (Nat × Word)
  extentAck : Option (Nat × List Nat × Bool)
  msix : Nat
  mailbox : Word
  broken : List Broken
  deriving DecidableEq, Repr

/-- How the host port answers an access to device memory (R55, R155, R461). -/
inductive HostStatus where
  | ok | poisoned | error
  deriving DecidableEq, Repr

/-- The latest answer to the host: the function and the address it named, and the data of a read (R130). -/
structure HostAnswer where
  fn : Nat
  pa : Nat
  status : HostStatus
  data : List Byte
  deriving DecidableEq, Repr

/-- The paths out of the package (R163, R467). `left`: the package has left its domain; `synced`: its clock has been set to the
master's; `master`: the package that firmware has named clock master; `gone`: the packages that have left the domain (R468). -/
structure Links where
  cxlDown : Bool
  expanderDown : Bool
  retries : Vector Nat 8
  portDown : Vector Bool 8
  left : Bool
  synced : Bool
  master : Nat
  gone : List Nat
  frozenPorts : List Nat
  deriving DecidableEq, Repr

/-- A choice of an issue port: warp, sub-warp, the PC and the place of the word it stood at, and the warp's phase (R433, R434). -/
structure Pick where
  warp : Nat
  sub : Nat
  pc : Word
  place : Place
  phase : Nat
  deriving DecidableEq, Repr

/-- Everything but the bytes of memory. Of each partition (6 × core + partition): `portA` is the sub-warp that port A
issued from last, `portPhase` the phase last counted, `portSeen` the cycle of its last selection (`portFrom` where there
was none), before which its cycles are counted, and `portPicks`, where it holds warps, that selection and the phase of its oldest warp
(R431, R434). `late`: sectors of which the host has not answered the snoop for a
write of the control die. `holder`: the host function that read each sector which the host holds (R54, R464). -/
structure Sys where
  time : Time
  warps : List Warp
  blocks : List Block
  grids : List Grid
  bins : List Bins
  posts : List WaitingPost
  ops : List Op
  reqs : List Req
  reading : List Reading
  unseen : List Unseen
  imprecise : List Imprecise
  contexts : Table Context
  dies : Vector Die 6
  tlb : List TlbEntry
  misses : List Miss
  found : List Found
  invals : List Inval
  heldFaults : List HeldFault
  icache : List (Nat × Nat × Word)
  cached : Table Bool
  wanted : List Wanted
  returned : List Nat
  poison : List Nat
  hostHeld : List Nat
  holder : Table Nat
  snooping : List Snoop
  late : List Nat
  hostAnswer : Option HostAnswer
  barriers : List BarInst
  mmqs : List MmqInst
  xreds : List (Nat × Nat × List XContrib)
  portA : Table (Nat × Nat)
  portPhase : Table Nat
  portSeen : Table Nat
  portPicks : Table (List Pick × Nat)
  portFrom : Nat
  refresh : Table (Nat × Nat)
  hot : List Nat
  ctl : Control
  links : Links
  fwRegions : Vector FwRegion 64
  freezes : List Freeze
  preempts : List Preempt
  saved : List SavedBlock
  savedContexts : List SavedContext
  switching : Option Switch
  migrations : List Migration
  agenda : List Instr
  selected : List (Nat × Option Nat)
  cur : Option (Nat × Option Nat)
  nextId : Nat
  free : Nat
  deriving DecidableEq, Repr

/-- The machine's state: memory, and everything else. -/
structure State where
  mem : Memory
  sys : Sys
  deriving DecidableEq, Repr

/-- Why the machine stops with a fault. -/
inductive Fault where
  /-- Raised by the meaning of an instruction word when no sub-warp is issuing (`cur` names none that exists). Safe:
  the hardware never executes a word without a sub-warp, and `step` never asks for it. -/
  | noIssuer
  deriving DecidableEq, Repr

/-- Why an instruction has no meaning. -/
inductive Refusal where
  /-- Raised by a dispatch arm of an instruction that this model does not model. Safe. -/
  | notModelled (mnemonic : String)
  deriving DecidableEq, Repr

/-! ### The state after reset -/

/-- A die after reset (R65, R146, R151, R159). -/
def Die.reset : Die where
  dsrcfg := 0
  dsrNew := none
  regionAll := { conf := 0, state := 0, noremap := false, hver := 0 }
  regions := []
  remapcfg := 0x4000#64 <<< 48
  conflicts := 0
  samples := []
  openRows := []
  corrected := 0
  halted := false
  throttled := false
  lastServed := Vector.replicate 4 0

/-- A context after reset (R40, R404, R435, R456, R474): HEN 1, HLOG and XLOG 32. -/
def Context.reset : Context where
  desc := Vector.replicate 8 0
  hangcfg := 0x8020020000000000
  savecfg := 0
  capva := 0
  arena := none
  heap := []
  log := []
  dropped := 0
  hang := 0
  event := false
  frozen := false
  claimed := false
  ringTail := 0
  ringState := .ok
  ringStale := 0
  tickets := []
  counters := []
  held := false

/-- The clock after a package reset (R4, R114). -/
def Time.reset : Time where
  now := 2 ^ 20
  cycle := 0
  cycleBase := Vector.replicate 6 0
  clusterF := Vector.replicate 60 (2 ^ 20 - 1)
  dieF := Vector.replicate 6 (2 ^ 20 - 1)
  deviceF := 2 ^ 20 - 1
  systemF := 2 ^ 20 - 1
  peerF := []

/-- The control die after a cold reset (R147, R151, R162, R417, R466, R471; logs 4 and 5). CTOCFG holds 2,000 in
each field. -/
def Control.reset : Control where
  ctocfg := 0x000007D007D007D0
  shapes := Vector.replicate 64 0
  remaplog := 0
  remapHead := 0
  remapTail := 0
  evcfg := 0
  eventHead := 0
  eventTail := 0
  queues := []
  lastQueue := Vector.replicate 4 0
  launches := 0
  grpcfg := []
  sillage := []
  measure := Vector.replicate 8 0
  booted := false
  recovery := false
  held := false
  pwrcap := 2400
  powerThrottle := false
  packageId := 0
  routes := []
  capPage := 0
  report := []
  others := []
  epoch := 1
  hostMasks := []
  portMasks := []
  hostFrozen := []
  status := .ok
  invalWit := 0
  pageAnswer := none
  extentAck := none
  msix := 0
  mailbox := 0
  broken := []

def Links.reset : Links where
  cxlDown := false
  expanderDown := false
  retries := Vector.replicate 8 0
  portDown := Vector.replicate 8 false
  left := false
  synced := false
  master := 0
  gone := []
  frozenPorts := []

/-- The firewall region that is open to every requester (log 5), one for each KIND. -/
def openRegion (kind : Nat) : FwRegion where
  base := 0
  limit := 2 ^ 32
  kind := kind
  read := true
  write := true
  classes := 0xF

/-- A firewall region that permits nothing. -/
def closedRegion : FwRegion where
  base := 0
  limit := 0
  kind := 0
  read := false
  write := false
  classes := 0

/-- The firewall regions after reset (log 5). -/
def regionsReset : Vector FwRegion 64 := Vector.ofFn (fun i => if i.val < 4 then openRegion i.val else closedRegion)

/-- Everything but memory, after a package cold reset (R475). -/
def Sys.reset : Sys where
  time := Time.reset
  warps := []
  blocks := []
  grids := []
  bins := []
  posts := []
  ops := []
  reqs := []
  reading := []
  unseen := []
  imprecise := []
  contexts := []
  dies := Vector.replicate 6 Die.reset
  tlb := []
  misses := []
  found := []
  invals := []
  heldFaults := []
  icache := []
  cached := []
  wanted := []
  returned := []
  poison := []
  hostHeld := []
  holder := []
  snooping := []
  late := []
  hostAnswer := none
  barriers := []
  mmqs := []
  xreds := []
  portA := []
  portPhase := []
  portSeen := []
  portPicks := []
  portFrom := 0
  refresh := []
  hot := []
  ctl := Control.reset
  links := Links.reset
  fwRegions := regionsReset
  freezes := []
  preempts := []
  saved := []
  savedContexts := []
  switching := none
  migrations := []
  agenda := []
  selected := []
  cur := none
  nextId := 1
  free := 0

/-- The machine right after a package cold reset (R475). -/
def State.reset : State where
  mem := []
  sys := Sys.reset

end Sys2Proof.Machine
end

