-- ==== Sys2Proof/Machine/Memory.lean ====
section
/-! DEFINITION. Memory in its one canonical form, the keys of its locations, and little-endian values (R6). -/

namespace Sys2Proof.Machine

/-- The key of a byte of main memory: the KIND of the leaf and the physical address (R24). -/
def mainKey (kind pa : Nat) : Nat := kind % 4 * 2 ^ 48 + pa % 2 ^ 48

/-- The key of a byte of a core scratchpad: core and core scratchpad address P (R57). -/
def scratchKey (core p : Nat) : Nat := 2 ^ 50 + core * 2 ^ 22 + p

/-- The key of a byte of a die scratchpad: die and offset (R68). -/
def dieKey (die off : Nat) : Nat := 2 ^ 51 + die * 2 ^ 27 + off

/-- The byte at a key; an unlisted key reads as zero (logs 2, 7). -/
def Memory.byte (m : Memory) (k : Nat) : Byte :=
  match m with
  | [] => 0
  | (a, b) :: r => if a = k then b else Memory.byte r k

/-- Writes a byte, keeping the canonical form: a zero byte is not listed. -/
def Memory.put (m : Memory) (k : Nat) (b : Byte) : Memory :=
  match m with
  | [] => if b = 0 then [] else [(k, b)]
  | (a, c) :: r =>
    if k < a then (if b = 0 then (a, c) :: r else (k, b) :: (a, c) :: r)
    else if a = k then (if b = 0 then r else (k, b) :: r)
    else (a, c) :: Memory.put r k b

/-- The canonical form: keys strictly rising, no zero byte. -/
def Memory.wf : Memory → Bool
  | [] => true
  | [(_, b)] => b != 0
  | (a, b) :: (c, d) :: r => b != 0 && decide (a < c) && Memory.wf ((c, d) :: r)

/-- Writes bytes at rising keys. -/
def Memory.putAll (m : Memory) (k : Nat) : List Byte → Memory
  | [] => m
  | b :: bs => Memory.putAll (m.put k b) (k + 1) bs

/-- Zeroes a range of keys. -/
def Memory.clear (m : Memory) (k len : Nat) : Memory :=
  m.filter (fun c => !(decide (k ≤ c.1) && decide (c.1 < k + len)))

/-- `n` bytes from a key upward. -/
def Memory.bytes (m : Memory) (k n : Nat) : List Byte := (List.range n).map (fun i => m.byte (k + i))

/-- The value of bytes, least significant first (R6). -/
def leValue : List Byte → Nat
  | [] => 0
  | b :: bs => b.toNat + 256 * leValue bs

/-- The `n` low bytes of a value, least significant first (R6). -/
def leBytes (n v : Nat) : List Byte := (List.range n).map (fun i => BitVec.ofNat 8 (v >>> (8 * i)))

def Memory.value (m : Memory) (k n : Nat) : Nat := leValue (m.bytes k n)

/-- A 64-bit word of memory. -/
def Memory.word (m : Memory) (k : Nat) : Word := BitVec.ofNat 64 (m.value k 8)

/-- `n` 64-bit words of memory. -/
def Memory.words (m : Memory) (k n : Nat) : List Word := (List.range n).map (fun i => m.word (k + 8 * i))

/-- The bytes of words. -/
def wordBytes (ws : List Word) : List Byte := ws.flatMap (fun w => leBytes 8 w.toNat)

/-- One change of memory: bytes written at a key, or a range zeroed. -/
inductive Store where
  | bytes (key : Nat) (bs : List Byte)
  | clear (key len : Nat)
  deriving DecidableEq, Repr

def Store.apply (m : Memory) : Store → Memory
  | .bytes k bs => m.putAll k bs
  | .clear k n => m.clear k n

/-- Every key that a store covers lies in its range. -/
def Store.covers (k : Nat) : Store → Bool
  | .bytes a bs => decide (a ≤ k) && decide (k < a + bs.length)
  | .clear a n => decide (a ≤ k) && decide (k < a + n)

def applyStores (m : Memory) (l : List Store) : Memory := l.foldl Store.apply m

/-- What a step does: everything but memory afterwards, and the stores to memory in order. -/
structure Upd where
  sys : Sys
  stores : List Store

/-- The state after a step. -/
def commit (s : State) (u : Upd) : State := { mem := applyStores s.mem u.stores, sys := u.sys }

/-- No store. -/
def Upd.of (y : Sys) : Upd := { sys := y, stores := [] }

/-- One change after another: the second sees what the first left. -/
def Upd.andThen (s : State) (u : Upd) (f : State → Upd) : Upd :=
  let v := f (commit s u)
  { sys := v.sys, stores := u.stores ++ v.stores }

/-- A list of changes, each seeing what the earlier ones left. -/
def Upd.each {α : Type} (s : State) (f : α → State → Upd) : List α → Upd
  | [] => .of s.sys
  | x :: xs =>
    let u := f x s
    let v := Upd.each (commit s u) f xs
    { sys := v.sys, stores := u.stores ++ v.stores }

/-! ### Tables -/

def Table.get? {α : Type} (t : Table α) (k : Nat) : Option α :=
  match t with
  | [] => none
  | (a, b) :: r => if a = k then some b else Table.get? r k

def Table.getD {α : Type} (t : Table α) (k : Nat) (d : α) : α := (Table.get? t k).getD d

def Table.set {α : Type} (t : Table α) (k : Nat) (v : α) : Table α :=
  match t with
  | [] => [(k, v)]
  | (a, b) :: r =>
    if k < a then (k, v) :: (a, b) :: r
    else if a = k then (k, v) :: r
    else (a, b) :: Table.set r k v

def Table.erase {α : Type} (t : Table α) (k : Nat) : Table α := t.filter (fun e => e.1 != k)

end Sys2Proof.Machine
end

