-- ==== Sys2Proof/Machine/Ops.lean ====
section
/-! DEFINITION. The named operations every meaning is made of: finding and replacing the parts of the state,
clocks and witnesses, events and the fault log, taking a trap and returning from one. -/

namespace Sys2Proof.Machine

/-! ### Finding and replacing -/

def Sys.warp? (y : Sys) (id : Nat) : Option Warp := y.warps.find? (fun w => w.id == id)

def Sys.setWarp (y : Sys) (w : Warp) : Sys :=
  { y with warps := y.warps.map (fun v => if v.id == w.id then w else v) }

def Sys.block? (y : Sys) (id : Nat) : Option Block := y.blocks.find? (fun b => b.id == id)

def Sys.setBlock (y : Sys) (b : Block) : Sys :=
  { y with blocks := y.blocks.map (fun v => if v.id == b.id then b else v) }

def Sys.op? (y : Sys) (id : Nat) : Option Op := y.ops.find? (fun o => o.id == id)

def Sys.setOp (y : Sys) (p : Op) : Sys :=
  { y with ops := y.ops.map (fun v => if v.id == p.id then p else v) }

def Sys.dropOp (y : Sys) (id : Nat) : Sys :=
  { y with ops := y.ops.filter (fun v => v.id != id),
           reqs := y.reqs.filter (fun r => !(r.op == id && (match r.kind with | .held _ => true | _ => false))), found := y.found.filter (fun f => f.asker != .op id) }

def Sys.grid? (y : Sys) (launch : Nat) : Option Grid := y.grids.find? (fun g => g.launch == launch)

def Sys.setGrid (y : Sys) (g : Grid) : Sys :=
  { y with grids := y.grids.map (fun v => if v.launch == g.launch then g else v) }

def Sys.bins? (y : Sys) (ctx die : Nat) : Option Bins := y.bins.find? (fun b => b.ctx == ctx && b.die == die)

def Sys.setBins (y : Sys) (b : Bins) : Sys :=
  { y with bins := y.bins.map (fun v => if v.ctx == b.ctx && v.die == b.die then b else v) }

def Sys.context (y : Sys) (ctx : Nat) : Context := Table.getD y.contexts ctx Context.reset

def Sys.setContext (y : Sys) (ctx : Nat) (c : Context) : Sys :=
  { y with contexts := Table.set y.contexts ctx c }

def Sys.die (y : Sys) (d : Nat) : Die := y.dies.toList.getD d Die.reset

def Sys.setDie (y : Sys) (d : Nat) (x : Die) : Sys := { y with dies := y.dies.setIfInBounds d x }

/-- The die and the cluster of a core (R1). -/
def dieOf (core : Nat) : Nat := core / 40

def clusterOf (core : Nat) : Nat := core / 4

def clusterDie (cluster : Nat) : Nat := cluster / 10

/-- The sub-warp `some id`, or the access slice `none`. -/
def Warp.sub? (w : Warp) : Option Nat → Option Sub
  | some k => w.subs.find? (fun b => b.id == k)
  | none => w.access.map (·.sub)

def Warp.setSub (w : Warp) (o : Option Nat) (b : Sub) : Warp :=
  match o with
  | some k => { w with subs := w.subs.map (fun v => if v.id == k then b else v) }
  | none => { w with access := w.access.map (fun a => { a with sub := b }) }

/-- An event of R436 happened in the context in this tick. -/
def Sys.mark (y : Sys) (ctx : Nat) : Sys := y.setContext ctx { y.context ctx with event := true }

/-! ### Clocks and witnesses -/

/-- The visibility clock's reading, 52 bits (R4). Every origin and every home reads the same, with no skew (R93; DESIGN CHOICE, log 117). -/
def Sys.clk (y : Sys) : Nat := y.time.now % 2 ^ 52

/-- A witness (R101). -/
def mkWit (scope dom tick : Nat) : Word := BitVec.ofNat 64 (scope % 4 * 2 ^ 62 + dom % 1024 * 2 ^ 52 + tick % 2 ^ 52)

def witScope (w : Word) : Nat := bits w 63 62
def witDom (w : Word) : Nat := bits w 61 52
def witTick (w : Word) : Nat := bits w 51 0

/-- A nonnull witness whose DOMAIN lies outside the range of its SCOPE (R102). -/
def witMalformed (w : Word) : Bool :=
  w != 0 && ((witScope w == 0 && witDom w > 59) || (witScope w == 1 && witDom w > 5) || (witScope w ≥ 2 && witDom w != 0))

/-- The tick lies more than 2^16 and less than 2^51 ticks ahead (R112). -/
def witTooFar (clk : Nat) (w : Word) : Bool :=
  let age := (clk + 2 ^ 52 - witTick w) % 2 ^ 52
  w != 0 && (age > 2 ^ 51 && 2 ^ 52 - age > 2 ^ 16)

/-- Whether a witness is bad as an operand of an operation that consumes it (R102). -/
def witBad (clk : Nat) (w : Word) : Bool := witMalformed w || witTooFar clk w

/-- The later of two ticks (R107). -/
def laterTick (x y : Nat) : Nat := if (x + 2 ^ 52 - y) % 2 ^ 52 < 2 ^ 51 then x else y

/-- The smallest scope and domain that hold two (R107). -/
def joinDomain (s1 d1 s2 d2 : Nat) : Nat × Nat :=
  if s1 = s2 && d1 = d2 then (s1, d1)
  else if s1 = 3 || s2 = 3 then (3, 0)
  else if s1 = 2 || s2 = 2 then (2, 0)
  else
    let die := fun s d => if s = 0 then d / 10 else d
    if die s1 d1 = die s2 d2 then (1, die s1 d1) else (2, 0)

/-- WMERGE (R107). -/
def merge (a b : Word) : Word :=
  if a = 0 then b
  else if b = 0 then a
  else
    let j := joinDomain (witScope a) (witDom a) (witScope b) (witDom b)
    mkWit j.1 j.2 (laterTick (witTick a) (witTick b))

/-- A reader of witnesses: the cluster and the die it lies in (R99, R108). -/
structure Reader where
  cluster : Option Nat
  die : Option Nat
  deriving DecidableEq, Repr

def coreReader (core : Nat) : Reader := { cluster := some (clusterOf core), die := some (dieOf core) }
def clusterReader (c : Nat) : Reader := { cluster := some c, die := some (clusterDie c) }
def dieReader (d : Nat) : Reader := { cluster := none, die := some d }
def controlReader : Reader := { cluster := none, die := none }

/-- The relation in_domain of R108. -/
def inDomain (r : Reader) (s d : Nat) : Bool :=
  if s = 0 then r.cluster == some d else if s = 1 then r.die == some d else true

/-- What a test of a witness gives: it holds, the reader waits, or the witness traps. -/
inductive Judge where
  | yes | wait | bad
  deriving DecidableEq, Repr

/-- The comparison of R109 against one frontier. -/
def judgeAt (clk f t : Nat) : Judge :=
  let age := (clk + 2 ^ 52 - t) % 2 ^ 52
  if age > 2 ^ 51 then (if 2 ^ 52 - age > 2 ^ 16 then .bad else .wait)
  else if (f % 2 ^ 52 + 2 ^ 52 - t) % 2 ^ 52 < 2 ^ 51 then .yes
  else .wait

def Time.frontier (t : Time) (s d : Nat) : Nat :=
  if s = 0 then t.clusterF.toList.getD d 0
  else if s = 1 then t.dieF.toList.getD d 0
  else if s = 2 then t.deviceF
  else t.systemF

/-- Satisfaction for a reader (R109). -/
def Sys.satisfied (y : Sys) (r : Reader) (w : Word) : Judge :=
  if w = 0 then .yes
  else if witMalformed w then .bad
  else if !inDomain r (witScope w) (witDom w) then .yes
  else judgeAt y.clk (y.time.frontier (witScope w) (witDom w)) (witTick w)

/-- Settling, against the smallest frontier the reader holds whose domain contains the witness's (R111). -/
def Sys.settled (y : Sys) (r : Reader) (w : Word) : Judge :=
  if w = 0 then .yes
  else if witMalformed w then .bad
  else
    let s := witScope w
    let d := witDom w
    let f :=
      if s = 0 then
        if r.cluster = some d then y.time.frontier 0 d
        else if r.die = some (d / 10) then y.time.frontier 1 (d / 10)
        else y.time.deviceF
      else if s = 1 then (if r.die = some d then y.time.frontier 1 d else y.time.deviceF)
      else y.time.frontier s 0
    judgeAt y.clk f (witTick w)

/-- The domain of an origin at a scope, widened to the narrowest scope at which it has one (R96, R104). -/
def Origin.wit (o : Origin) (scope tick : Nat) : Word :=
  let die := fun d => if scope ≤ 1 then mkWit 1 d tick else mkWit scope 0 tick
  let cluster := fun c => if scope = 0 then mkWit 0 c tick else die (clusterDie c)
  match o with
  | .part core _ | .accord core => cluster (clusterOf core)
  | .copy c | .long c => cluster c
  | .flacon d | .proc d => die d
  | .host | .novdel _ => mkWit (if scope ≤ 2 then 2 else 3) 0 tick

/-! ### Events (R466) -/

def evEnabled (v : Word) : Bool := v.getLsbD 63
def evDrop (v : Word) : Nat := bits v 62 52
def evSize (v : Word) : Nat := 2 ^ (bits v 51 48 + 6)
def evBase (v : Word) : Nat := bits v 47 5 * 32

/-- EVCFG with one more event counted in DROP, saturating. -/
def evDropped (v : Word) : Word :=
  if evDrop v < 2047 then v + (1#64 <<< 52) else v

/-- Part of a sector of host memory that the control die writes itself: performed at its home, stamped by the host port (R88, R96). -/
def controlWrite (s : State) (key : Nat) (bs : List Byte) : Upd :=
  { sys := { s.sys with unseen := s.sys.unseen ++ [{ origin := .host, tick := s.sys.time.now, key, size := bs.length, op := 0 }] },
    stores := [.bytes key bs] }

/-- Raises an event with a tick: a record in the ring, with an interrupt of MSI-X vector 0, or one more dropped (R466, log 95). While the CXL
link is down no record can be written (R163), and the event is counted as dropped (DESIGN CHOICE, log 120). -/
def raiseEventAt (s : State) (ty ctx : Nat) (a0 a1 : Word) (tick : Nat) : Upd :=
  let c := s.sys.ctl
  let used := (c.eventTail - c.eventHead).toNat
  if evEnabled c.evcfg && used < evSize c.evcfg && !s.sys.links.cxlDown then
    let key := mainKey 2 (evBase c.evcfg + 32 * (c.eventTail.toNat % evSize c.evcfg))
    controlWrite { s with sys := { s.sys with ctl := { c with eventTail := c.eventTail + 1, msix := c.msix + 1 } } } key
      (leBytes 2 ty ++ leBytes 2 ctx ++ leBytes 4 0 ++ leBytes 8 tick ++ leBytes 8 a0.toNat ++ leBytes 8 a1.toNat)
  else .of { s.sys with ctl := { c with evcfg := evDropped c.evcfg } }

def raiseEvent (s : State) (ty ctx : Nat) (a0 a1 : Word) : Upd := raiseEventAt s ty ctx a0 a1 s.sys.clk

/-! ### Causes and the fault log (R446, R452) -/

/-- The number of a cause (R446). -/
def Cause.num : Cause → Nat
  | .illegal => 0 | .unguarded => 1 | .uniformity => 2 | .convergence => 3 | .membership => 4
  | .scratchBounds => 5 | .spillBounds => 6 | .window => 7 | .align => 8 | .witness => 9 | .page => 10
  | .protection => 11 | .longOperand => 13 | .length => 14 | .divzero => 15 | .format => 16 | .quad => 17
  | .accordDepth => 18 | .accordForward => 19 | .accordBounds => 20 | .queueUnderrun => 21 | .noBin => 22
  | .depUnderflow => 23 | .heapExhausted => 24 | .heapInvalid => 25 | .memError => 26
  | .impreciseStore => 27 | .hang => 28 | .software => 29 | .breakpoint => 30 | .blockHalt => 31 | .fpx => 32

/-- The code of a reason (R445). -/
def Reason.code : Reason → Nat
  | .none => 0 | .noncanon => 1 | .malformed => 2 | .write => 3 | .fetch => 4 | .firewall => 5
  | .poison => 6 | .timeout => 7 | .link => 8 | .withdrawn => 9

def allLanes : LaneMask := BitVec.allOnes 32

/-- A cause with its value; lanes all ones, no reason, no originating PC. -/
def trapOf (c : Cause) (v : Word) : TrapInfo :=
  { cause := c, tval := v, tlanes := allLanes, reason := .none, opc := 0, ext := false }

/-- TINFO (R445). -/
def TrapInfo.tinfo (t : TrapInfo) : Word :=
  BitVec.ofNat 64 (t.cause.num * 2 ^ 58 + (if t.ext then 2 ^ 57 else 0) + t.reason.code * 2 ^ 53 + bits t.opc 55 3)

def Cause.bit (c : Cause) : Word := BitVec.ofNat 64 (2 ^ c.num)

/-- TSKID (R191). -/
def Block.tskid (b : Block) : Word :=
  match b.job with
  | .grid launch _ => BitVec.ofNat 64 (launch % 2 ^ 32 * 2 ^ 32)
  | .task _ bin no _ => BitVec.ofNat 64 (no % 2 ^ 32 * 2 ^ 32 + 128 + bin % 64)

def Block.flat (b : Block) : Nat :=
  match b.job with
  | .grid _ f => f
  | .task _ _ _ _ => 0

def Block.isTask (b : Block) : Bool :=
  match b.job with
  | .grid _ _ => false
  | .task _ _ _ _ => true

def whoOf (b : Block) (w : Warp) : Who :=
  { ctx := b.ctx, tskid := b.tskid, flat := b.flat, index := w.index, slot := w.slot, part := w.part, core := b.core }

def Sys.who (y : Sys) (w : Warp) : Who :=
  match y.block? w.block with
  | some b => whoOf b w
  | none => { ctx := 0, tskid := 0, flat := 0, index := w.index, slot := w.slot, part := w.part, core := 0 }

/-- The 64 bytes of a fault-log record (R452). -/
def faultBytes (kind cause status : Nat) (n : Who) (pc tval : Word) (lanes : LaneMask) (tick : Nat)
    (record : Word) : List Byte :=
  leBytes 1 kind ++ leBytes 1 cause ++ leBytes 1 status ++ leBytes 1 0 ++ leBytes 2 n.ctx ++ leBytes 2 0 ++
  leBytes 8 n.tskid.toNat ++ leBytes 4 n.flat ++ leBytes 1 n.index ++ leBytes 1 (n.part * 16 + n.slot) ++
  leBytes 2 n.core ++ leBytes 8 pc.toNat ++ leBytes 8 tval.toNat ++ leBytes 4 lanes.toNat ++
  leBytes 4 (n.flat >>> 32) ++ leBytes 8 tick ++ leBytes 8 record.toNat

/-- Appends a record to the context's fault log, with its event, or counts it as dropped (R452). -/
def logFault (s : State) (ctx : Nat) (rec : List Byte) : Upd :=
  let c := s.sys.context ctx
  if c.log.length < 256 then
    Upd.andThen s (.of (s.sys.setContext ctx { c with log := c.log ++ [rec] }))
      (fun t => raiseEvent t 1 ctx (BitVec.ofNat 64 c.log.length) 0)
  else .of (s.sys.setContext ctx { c with dropped := c.dropped + 1 })

/-- A KIND 1 record: an orphan or a cause that was not delivered. -/
def logLost (s : State) (n : Who) (pc : Word) (t : TrapInfo) : Upd :=
  logFault s n.ctx (faultBytes 1 t.cause.num 0 n pc t.tval t.tlanes s.sys.clk 0)

/-! ### The end of a warp, and aborts -/

/-- The set is one of a warp's. -/
def Asker.ofWarp (a : Asker) (w : Nat) : Bool :=
  match a with
  | .sub v _ | .stream v _ => v == w
  | _ => false

/-- The request is a read of a fetch or a stream outside the package whose asker `f` picks. -/
def Req.askedBy (r : Req) (f : Asker → Bool) : Bool :=
  match r.kind with
  | .asked a _ => f a
  | _ => false

/-- The reads outside the package that an asker has under way are given up. -/
def Sys.unasked (y : Sys) (f : Asker → Bool) : Sys := { y with reqs := y.reqs.filter (fun r => !r.askedBy f) }

/-- A bin table in which a task of a block's bin runs no longer (R427). -/
def Bins.less (k : Block) (t : Bins) : Bins :=
  match k.job with
  | .task die bin _ _ =>
    match t.bins[bin]? with
    | some b => if t.ctx == k.ctx && t.die == die then { t with bins := t.bins.setIfInBounds bin { b with running := b.running - 1 } } else t
    | none => t
  | .grid _ _ => t

/-- A task of a bin ends. -/
def Sys.taskEnds (y : Sys) (k : Block) : Sys := { y with bins := y.bins.map (Bins.less k) }

/-- Removes a warp: its slot and registers are free at once, and a warp task ends (R179, R398). Operations it issued go on. -/
def Sys.dropWarp (y : Sys) (id : Nat) : Sys :=
  { y with bins := (match (y.warp? id).bind (fun w => y.block? w.block) with
             | some k => y.bins.map (Bins.less k)
             | none => y.bins),
           warps := y.warps.filter (fun w => w.id != id),
           selected := y.selected.filter (fun c => c.1 != id),
           reqs := y.reqs.filter (fun r => !r.askedBy (fun a => a.ofWarp id)),
           found := y.found.filter (fun f => !f.asker.ofWarp id) }

/-- The cycle in which the warp's access slice has raised a cause. -/
def Warp.sliceRaised (w : Warp) : Option Nat := w.access.bind (·.raised)

/-- A block-halt for one warp of a block (R441, R442, R451): it passes by a warp that has raised a precise cause of
its own in the same cycle, and pends in any other that is in its handler. -/
def Warp.receiveHalt (w : Warp) (h : Halt) : Warp :=
  match w.handler with
  | some d =>
    if h.fatal then { w with halt := some h }
    else if d.cycle = some h.cycle || w.sliceRaised == some h.cycle then w
    else if d.cause = .blockHalt || d.pending.any (fun p => p.cause == .blockHalt) then w
    else
      let t := trapOf .blockHalt (BitVec.ofNat 64 (h.cause.num * 256 + h.who))
      { w with cause := w.cause ||| Cause.blockHalt.bit, handler := some { d with pending := d.pending ++ [t] } }
  | none =>
    if !h.fatal && w.sliceRaised == some h.cycle then w
    else match w.halt with
    | none => { w with halt := some h }
    | some g =>
      if h.fatal && !g.fatal then { w with halt := some h }
      else if g.cycle = h.cycle && h.who < g.who then { w with halt := some { h with fatal := g.fatal || h.fatal } }
      else w

/-- Sends a block-halt from a warp to every other warp of its block (R441). -/
def Sys.sendHalt (y : Sys) (w : Warp) (c : Cause) (fatal : Bool) : Sys :=
  let h : Halt := { who := w.index, cause := c, fatal, cycle := y.time.cycle }
  let toward := fun v : Warp => if v.block == w.block && v.id != w.id then v.receiveHalt h else v
  { y with warps := y.warps.map toward,
           saved := y.saved.map (fun b => { b with warps := b.warps.map (fun x => { x with warp := toward x.warp }) }) }

/-- A block-halt would duplicate the cause that the warp is handling (R449). -/
def Warp.haltTwice (w : Warp) (cycle : Nat) : Bool :=
  match w.handler with
  | some d => d.cause == .blockHalt && d.cycle != some cycle && w.sliceRaised != some cycle && !d.pending.any (fun p => p.cause == .blockHalt)
  | none => false

/-- The same, with a KIND 1 record for each warp that is handling a BLOCK_HALT already (R449). -/
def sendHalt (s : State) (w : Warp) (c : Cause) : Upd :=
  let y := s.sys
  let busy := (y.warps ++ y.saved.flatMap (fun b => b.warps.map (·.warp))).filter (fun v =>
    v.block == w.block && v.id != w.id && v.haltTwice y.time.cycle)
  let t := trapOf .blockHalt (BitVec.ofNat 64 (c.num * 256 + w.index))
  Upd.andThen s (.of (y.sendHalt w c false)) (fun u => Upd.each u (fun v x => logLost x (x.sys.who v) 0 t) busy)

/-- Aborts the grid of a block: no further block of it is claimed or placed, and the host receives an event (R451).
`code` is the cause number, or 0xFF for firmware and die resets (R466). -/
def abortGrid (s : State) (launch code : Nat) : Upd :=
  match s.sys.grid? launch with
  | some g =>
    if g.state = .aborted || g.state = .complete then .of s.sys
    else
      Upd.andThen s (.of (s.sys.setGrid { g with state := .aborted, claims := [] }))
        (fun t => raiseEvent t 2 g.ctx (BitVec.ofNat 64 launch) (BitVec.ofNat 64 (code * 256 + 255)))
  | none => .of s.sys

/-- An unhandled trap (R451): a KIND 2 record, the block halted for good, the grid aborted, the warp ended. -/
def unhandled (s : State) (w : Warp) (t : TrapInfo) (pc : Word) (status : Nat) : Upd :=
  match s.sys.block? w.block with
  | none => .of (s.sys.dropWarp w.id)
  | some b =>
    let n := whoOf b w
    let u1 := logFault s b.ctx (faultBytes 2 t.cause.num status n pc t.tval t.tlanes s.sys.clk 0)
    let u2 := Upd.andThen s u1 (fun s1 => .of ((s1.sys.sendHalt w t.cause true).dropWarp w.id))
    match b.job with
    | .grid launch _ => Upd.andThen s u2 (fun s2 => abortGrid s2 launch t.cause.num)
    | .task _ _ _ _ => u2

/-! ### Taking a trap (R440 to R449) -/

/-- The sub-warp is the one in handler mode, or was split from it. -/
def Handler.has (d : Handler) (sub : Nat) : Bool := d.sub == sub || d.kin.contains sub

/-- The registers and the sub-warp at handler entry (R447 steps 2 to 4); a fatal block-halt still ends the warp (R451). -/
def Warp.intoHandler (w : Warp) (b : Sub) (t : TrapInfo) (epc header entry : Word) (pending : List TrapInfo)
    (cycle : Option Nat) : Warp :=
  let w1 := w.setSub (some b.id)
    { b with pc := entry, place := .boundary, exec := b.perm, wait := .none, under := .none, came := none, set := [] }
  { w1 with
    cause := pending.foldl (fun c p => c ||| p.cause.bit) t.cause.bit
    epc := epc, tval := t.tval, tlanes := t.tlanes, tinfo := t.tinfo, halt := w.halt.filter (·.fatal)
    handler := some { sub := b.id, kin := [], cause := t.cause, shadow := b.exec, epc, header, epcWritten := false,
                      entered := false, cycle, pending, queued := (w.handler.map (·.queued)).getD [] } }

/-- The PC that a fault-log record of a cause names (R452): the originating one, where it is not that of the place of delivery. -/
def TrapInfo.originPC (t : TrapInfo) (epc : Word) : Word := if t.opc = 0 then epc else t.opc

/-- Enters the handler, or ends the warp when LPB word 17 is 0 (R447 step 1). `own`: by a precise cause of the warp's own, and not by
BLOCK_HALT or an imprecise cause (R442). -/
def enterHandler (s : State) (w : Warp) (b : Sub) (t : TrapInfo) (epc header : Word) (pending : List TrapInfo)
    (own : Bool) : Upd :=
  match s.sys.block? w.block with
  | none => .of s.sys
  | some k =>
    if k.handler = 0 then unhandled s w t (t.originPC epc) 0
    else .of ((s.sys.unasked (fun a => a == .sub w.id (some b.id))).setWarp (w.intoHandler b t epc header k.handler pending
      (if own then some s.sys.time.cycle else none)))

/-- A cause raised in handler mode pends, or is logged when its bit is already set (R449). -/
def pendCause (s : State) (w : Warp) (d : Handler) (pc : Word) (t : TrapInfo) : Upd :=
  if (w.cause &&& t.cause.bit) != 0 then logLost s (s.sys.who w) pc t
  else .of (s.sys.setWarp { w with cause := w.cause ||| t.cause.bit,
                                   handler := some { d with pending := d.pending ++ [t] } })

/-- The end of the clause in progress, and the address that follows it (R210). -/
def Clause.next (c : Clause) : Word := c.addr + BitVec.ofNat 64 (8 * (c.h.len.toNat + 1))

/-- The sub-warp past the word at its pc; at a boundary there is no word to pass over (R449). A clause that is to be fetched again, for its
page has been invalidated, goes on behind the word. -/
def Sub.past (b : Sub) : Sub :=
  match b.place with
  | .inside c =>
    let pc := b.pc + 8
    let b1 := { b with pc, wait := .none, under := .none, came := none, set := [] }
    if pc = c.next then { b1 with place := .boundary } else b1
  | .resume _ => { b with pc := b.pc + 8, wait := .none, under := .none, came := none, set := [] }
  | .boundary => { b with wait := if b.wait = .abandoned then .abandoned else .none, under := .none, set := [] }

/-- The header of the clause a sub-warp stands in, or the clause it would start. -/
def Sub.header (b : Sub) : Word :=
  match b.place with
  | .inside c => c.addr
  | .resume h => h
  | .boundary => b.pc

/-- BLOCK_HALT's cause, from the block-halt received (R446). -/
def Halt.info (h : Halt) : TrapInfo := trapOf .blockHalt (BitVec.ofNat 64 (h.cause.num * 256 + h.who))

/-- Ends a warp that a fatal block-halt reached: no further record (R451). -/
def endHalted (s : State) (w : Warp) : Upd := .of (s.sys.dropWarp w.id)

/-- A precise trap of sub-warp `b` at the word or header it stands at (R440, R441, R442, R448, R449). -/
def takePrecise (s : State) (w : Warp) (b : Sub) (t : TrapInfo) : Upd :=
  match w.handler with
  | some d =>
    if d.has b.id then
      let t' := { t with opc := b.pc }
      Upd.andThen s (pendCause s w d b.pc t')
        (fun s1 => match s1.sys.warp? w.id with
          | some v => .of (s1.sys.setWarp (v.setSub (some b.id) b.past))
          | none => .of s1.sys)
    else
      .of (s.sys.setWarp { w.setSub (some b.id) { b with wait := .handlerBusy } with
        handler := some { d with queued := d.queued ++ [(b.id, t)] } })
  | none =>
    match w.halt with
    | some h =>
      if h.fatal then endHalted s w
      else if h.cycle = s.sys.time.cycle then
        Upd.andThen s (sendHalt s w t.cause) (fun s1 => enterHandler s1 w b t b.pc b.header [] true)
      else enterHandler s w b h.info b.pc b.header [t] false
    | none => Upd.andThen s (sendHalt s w t.cause) (fun s1 => enterHandler s1 w b t b.pc b.header [] true)

/-- A cause that the access slice raises (R445): its context ends, and the cause is delivered to the warp's lowest
sub-warp at its next clause boundary, with the slice's PC in OPC (log 9). The block-halt goes out at once; from a warp in handler mode it
goes out at the delivery, where that is outside the mode (R441); from a warp that stops for an earlier block-halt none goes (R442). -/
def takeAccess (s : State) (w : Warp) (a : Access) (t : TrapInfo) : Upd :=
  let now := s.sys.time.cycle
  let together := w.halt.any (fun h => !h.fatal && h.cycle == now)
  let w' := { w with access := some { a with ended := true, jobs := Vector.replicate 4 [], raised := some now },
                     halt := if together then none else w.halt }
  let sub := (w.subs.map (·.id)).foldl Nat.min ((w.subs.map (·.id)).headD 0)
  let m : Imprecise := { no := s.sys.nextId, who := s.sys.who w, warp := w.id, sub, lanes := allLanes,
                         info := { t with opc := a.sub.pc }, block := w.block, halts := w.handler.isSome && w'.halt.isNone }
  let y0 := (s.sys.setWarp w').unasked (fun x => match x with
    | .stream v _ => v == w.id
    | _ => false)
  let y : Sys := { y0 with imprecise := y0.imprecise ++ [m], nextId := y0.nextId + 1 }
  if w.handler.isNone && w'.halt.isNone then sendHalt { s with sys := y } w t.cause else .of y

/-- A trap of whichever slice is issuing. -/
def takeTrap (s : State) (w : Warp) (o : Option Nat) (b : Sub) (t : TrapInfo) : Upd :=
  match o, w.access with
  | none, some a => takeAccess s w a t
  | _, _ => takePrecise s w b t

/-- The pending cause of lowest bit, and the others (R449). -/
def lowestPending (l : List TrapInfo) : Option (TrapInfo × List TrapInfo) :=
  match l with
  | [] => none
  | t :: r =>
    let m := r.foldl (fun a p => if p.cause.num < a.cause.num then p else a) t
    some (m, l.filter (fun p => p.cause != m.cause))

/-- The warp after handler mode ends with no cause pending (R413): where its sub-warp resumes. -/
def Warp.leaveHandler (w : Warp) (d : Handler) (b : Sub) : Warp :=
  let afterWord := !d.epcWritten && (d.cause = .software || d.cause = .breakpoint)
  let target := if afterWord then w.epc + 8 else w.epc
  let place : Place := if d.epcWritten || target = d.header then .boundary else .resume d.header
  { w.setSub (some b.id) { b with pc := target, place, exec := d.shadow &&& b.perm &&& ~~~w.exited, wait := .none, under := .none,
                                  came := none, set := [] } with
    cause := 0, handler := none }

/-- The first cause that another sub-warp raised meanwhile enters the handler before any other sub-warp issues; those
behind it wait on (R448). -/
def enterQueued (s : State) (wid : Nat) (l : List (Nat × TrapInfo)) : Upd :=
  match l with
  | [] => .of s.sys
  | (k, t) :: rest =>
    match s.sys.warp? wid with
    | none => .of s.sys
    | some w =>
      match w.sub? (some k) with
      | none => .of s.sys
      | some b =>
        Upd.andThen s (takePrecise s w b t) (fun s1 =>
          match s1.sys.warp? wid with
          | some v => .of (s1.sys.setWarp { v with handler := v.handler.map (fun d => { d with queued := rest }) })
          | none => .of s1.sys)

/-- TRET in handler mode (R413): the next pending cause, or the return. -/
def trapReturn (s : State) (w : Warp) (d : Handler) (b : Sub) : Upd :=
  match lowestPending d.pending with
  | some (t, rest) =>
    .of (s.sys.setWarp (w.intoHandler { b with exec := d.shadow &&& b.perm } t d.epc d.header
      (((s.sys.block? w.block).map (·.handler)).getD 0) rest none))
  | none =>
    Upd.andThen s (.of (s.sys.setWarp (w.leaveHandler d b))) (fun s1 => enterQueued s1 w.id d.queued)

end Sys2Proof.Machine
end

