-- ==== Sys2Proof/Machine/Operands.lean ====
section
/-! DEFINITION. Operand forms: what each register field, immediate, queue and special register supplies, and how
results are written (R191, R195 to R198, R237, R258). -/

namespace Sys2Proof.Machine

/-! ### Register files -/

def zeroLanes : Lanes := Vector.replicate 32 0

/-- V register `r` (R188). -/
def Warp.v (w : Warp) (r : Nat) : Lanes := w.vregs[r]?.getD zeroLanes

/-- Lane `i` of V register `r`. -/
def Warp.vl (w : Warp) (r i : Nat) : BitVec 32 := (w.v r)[i]?.getD 0

def Warp.s (w : Warp) (r : SReg) : Word := w.sregs[r.toNat]

def Warp.sn (w : Warp) (r : Nat) : Word := w.sregs[r]?.getD 0

def Warp.setS (w : Warp) (r : SReg) (v : Word) : Warp := { w with sregs := w.sregs.set r.toNat v }

def Warp.setSn (w : Warp) (r : Nat) (v : Word) : Warp := { w with sregs := w.sregs.setIfInBounds r v }

/-- The register an S field names: S, or X in the access slice (R223). -/
def Warp.sx (w : Warp) (o : Option Nat) (r : SReg) : Word :=
  match o, w.access with
  | none, some a => a.xregs[r.toNat]?.getD 0
  | _, _ => w.s r

def Warp.setSx (w : Warp) (o : Option Nat) (r : SReg) (v : Word) : Warp :=
  match o, w.access with
  | none, some a => { w with access := some { a with xregs := a.xregs.setIfInBounds r.toNat v } }
  | _, _ => w.setS r v

/-- The shape byte is reset: another class wrote the register (R237). -/
def Warp.unshape (w : Warp) (r : Nat) : Warp :=
  { w with shapes := w.shapes.setIfInBounds r 0, tops := w.tops.setIfInBounds r 0 }

/-- Writes the lanes of a mask of V register `r`; the others keep their contents (R257). -/
def Warp.writeV (w : Warp) (r : Nat) (mask : LaneMask) (l : Lanes) : Warp :=
  let old := w.v r
  { (w.unshape r) with
    vregs := w.vregs.setIfInBounds r (Vector.ofFn (fun i : Fin 32 => if mask.getLsbD i then l[i] else old[i])) }

/-- Lane i is in EXEC (R224). -/
def Sub.active (b : Sub) (i : Nat) : Bool := b.exec.getLsbD i

/-- The lanes of a mask, ascending. -/
def lanesOf (m : LaneMask) : List Nat := (List.range 32).filter (fun i => m.getLsbD i)

/-- The mask of the lanes for which `f` holds. -/
def maskOf (f : Nat → Bool) : LaneMask :=
  (List.range 32).foldl (fun m i => if f i then m ||| (1#32 <<< i) else m) 0

/-! ### Integers of a width (R224, R258) -/

/-- The low `n` bits. -/
def low (n : Nat) (x : Word) : Word := BitVec.ofNat 64 (x.toNat % 2 ^ n)

/-- A pattern of `n` bits read as two's complement or as unsigned. -/
def toI (sg : Bool) (n : Nat) (x : Word) : Int :=
  let u := x.toNat % 2 ^ n
  if sg && u ≥ 2 ^ (n - 1) then (u : Int) - 2 ^ n else u

/-- The low `n` bits of an integer. -/
def wrap (n : Nat) (r : Int) : Word := BitVec.ofNat 64 (r % (2 ^ n : Int)).toNat

/-- Extension of an `n`-bit pattern to 64 bits. -/
def ext (sg : Bool) (n : Nat) (x : Word) : Word := wrap 64 (toI sg n x)

/-- sat_s (R224). -/
def satS (r : Int) (n : Nat) : Int :=
  if r < -(2 ^ (n - 1)) then -(2 ^ (n - 1)) else if r > 2 ^ (n - 1) - 1 then 2 ^ (n - 1) - 1 else r

/-- sat_u (R224). -/
def satU (r : Int) (n : Nat) : Int := if r < 0 then 0 else if r > 2 ^ n - 1 then 2 ^ n - 1 else r

def satOf (sg : Bool) (r : Int) (n : Nat) : Int := if sg then satS r n else satU r n

/-- An imm16 extended to 64 bits (R196). -/
def immS (i : BitVec 16) : Word := i.signExtend 64
def immZ (i : BitVec 16) : Word := i.zeroExtend 64

/-! ### Cross-lane sources (R198) -/

end Sys2Proof.Machine

namespace Sys2Proof
open Sys2Proof.Machine

/-- The source lane that lane i reads; `none` is beyond the warp. -/
def XLane.src (x : XLane) (i : Nat) : Option Nat :=
  match x with
  | .none => some i
  | .rot n => some ((i + 32 - n.toNat) % 32)
  | .up n => if i < n.toNat then Option.none else some (i - n.toNat)
  | .dn n => if i + n.toNat < 32 then some (i + n.toNat) else Option.none
  | .xor n => some (i ^^^ n.toNat)
  | .lane n => some n.toNat
  | .srot n => some (4 * (i / 4) + (i % 4 + 4 - n.toNat) % 4)

/-- The active lanes whose source lane lies outside the sub-warp's lane set (R198). -/
def XLane.outside (x : XLane) (b : Sub) : LaneMask :=
  maskOf (fun i => b.active i && (match x.src i with | some j => !b.lset.getLsbD j | Option.none => false))

/-- The lanes that are read for the active lanes. -/
def XLane.sources (x : XLane) (exec : LaneMask) : LaneMask :=
  maskOf (fun j => (lanesOf exec).any (fun i => x.src i == some j))

end Sys2Proof

namespace Sys2Proof.Machine

/-! ### Queues (R77 to R79, R335) -/

/-- The entry that the pop numbered `k` of one instruction takes: nothing behind a marker. -/
def popAt (l : List QEntry) (k : Nat) : Option QEntry :=
  if (l.take (k + 1)).any (fun e => match e with | .marker _ => true | _ => false) then none else l[k]?

/-- The lanes of a pop: zero at a marker. -/
def popLanes (l : List QEntry) (k : Nat) : Lanes :=
  match popAt l k with
  | some (.data v) => v
  | some (.failed v _ _ _ _) => v
  | _ => zeroLanes

/-- The queue after one pop: a marker stays (R335). -/
def popOne (l : List QEntry) : List QEntry :=
  match l with
  | .marker v :: r => .marker v :: r
  | _ :: r => r
  | [] => []

def popMany (l : List QEntry) : Nat → List QEntry
  | 0 => l
  | k + 1 => popMany (popOne l) k

def Warp.queue (w : Warp) (q : BitVec 2) : List QEntry := w.queues[q.toNat]?.getD []

def Warp.setQueue (w : Warp) (q : BitVec 2) (l : List QEntry) : Warp :=
  { w with queues := w.queues.setIfInBounds q.toNat l }

end Sys2Proof.Machine

namespace Sys2Proof
open Sys2Proof.Machine

/-- How many entries an operand of a width pops (R78). -/
def Sz.pops : Sz → Nat
  | .w64 => 2
  | _ => 1

end Sys2Proof

namespace Sys2Proof.Machine

/-! ### Special registers (R191) -/

/-- The units of a copy that have moved and whose writes are visible (R88, R124). -/
def Op.movedBy (p : Op) (now : Nat) : Nat := (p.moved.filter (fun u => decide (u.2 + 2 ≤ now))).length

/-- Copies outstanding under a tag: the lane copies of the warp's copy operations that have not completed (R318). -/
def Sys.copies (y : Sys) (w : Warp) (tag : BitVec 3) : Nat :=
  y.ops.foldl (fun n o =>
    if o.warp = some w.id then
      match o.instr with
      | .cpl c => if c.tag = tag then n + ((lanesOf o.lanes).length - o.movedBy y.time.now) else n
      | .cpb c => if c.tag = tag then n + 1 else n
      | _ => n
    else n) 0

def Sys.cpcnt (y : Sys) (w : Warp) : Word :=
  BitVec.ofNat 64 ((List.range 8).foldl (fun v t => v + Nat.min (y.copies w (BitVec.ofNat 3 t)) 255 * 2 ^ (8 * t)) 0)

/-- QSTAT: per queue the entries and a marker at the head; bit 32 the access slice's end. -/
def Warp.qstat (w : Warp) : Word :=
  let byte := fun q : Nat =>
    let l := w.queue (BitVec.ofNat 2 q)
    Nat.min l.length 31 + (match l with | .marker _ :: _ => 32 | _ => 0)
  BitVec.ofNat 64 ((List.range 4).foldl (fun v q => v + byte q * 2 ^ (8 * q)) 0 +
    (match w.access with | some a => if a.ended then 2 ^ 32 else 0 | none => 0))

/-- The grid dimensions of a block; 0 for tasks. -/
def Sys.dims (y : Sys) (k : Block) : Nat × Nat × Nat :=
  match k.job with
  | .grid launch _ =>
    match y.grid? launch with
    | some g => let v := g.lpb[2]; (bits v 31 0, bits v 47 32, bits v 63 48)
    | none => (1, 1, 1)
  | .task _ _ _ _ => (0, 0, 0)

/-- The block coordinates (R165); for tasks the tile of word 2 (R170). -/
def Sys.coords (y : Sys) (k : Block) : Nat × Nat × Nat :=
  match k.job with
  | .grid _ flat => let d := y.dims k; (flat % d.1, flat / d.1 % d.2.1, flat / d.1 / d.2.1)
  | .task _ _ _ rec => let t := rec.getD 2 0; (bits t 20 0, bits t 41 21, bits t 62 42)

/-- The slices of a lane set (R182). -/
def sliceMap (l : LaneMask) : Nat :=
  (List.range 8).foldl (fun m k => if (l >>> (4 * k)) &&& 0xF != 0 then m + 2 ^ k else m) 0

/-- A special register but LANEID, as SRD reads it. -/
def Sys.special (y : Sys) (w : Warp) (b : Sub) (k : Block) (sel : Special) : Word :=
  let n := fun x : Nat => BitVec.ofNat 64 x
  match sel with
  | .exec => b.exec.zeroExtend 64
  | .laneid => 0
  | .warpid => n (if k.isTask then 0 else w.index)
  | .blockx => n (y.coords k).1
  | .blocky => n (y.coords k).2.1
  | .blockz => n (y.coords k).2.2
  | .gridx => n (y.dims k).1
  | .gridy => n (y.dims k).2.1
  | .gridz => n (y.dims k).2.2
  | .clusterid => n (clusterOf k.core)
  | .clrank => n k.rank
  | .dieid => n (dieOf k.core)
  | .coreid => n k.core
  | .slicemap => n (sliceMap b.lset)
  | .fmt => w.fmt
  | .nbv => w.nbv
  | .fpctl => w.fpctl
  | .nttth => w.nttth
  | .phase => w.phase
  | .clock => n y.clk
  | .cycle => n (y.time.cycle - y.time.cycleBase.toList.getD (dieOf k.core) 0)
  | .cause => w.cause
  | .epc => w.epc
  | .tval => w.tval
  | .tlanes => w.tlanes.zeroExtend 64
  | .tskid => k.tskid
  | .tinfo => w.tinfo
  | .cpcnt => y.cpcnt w
  | .qstat => w.qstat
  | .hstat => w.hstat
  | .capptr => (y.context k.ctx).capva
  | .ctxid => n (bits (y.context k.ctx).desc[0] 12 1)

/-! ### Operand values -/

/-- What a meaning sees: the state, the issuing warp and sub-warp, its block, and the instruction. `o` is the
sub-warp's identifier, `none` for the access slice. -/
structure Env where
  s : State
  w : Warp
  b : Sub
  o : Option Nat
  k : Block
  i : Instr

def Env.y (e : Env) : Sys := e.s.sys

/-- A V register or a pair, lane i, at a width (R258). -/
def Warp.lane (w : Warp) (sz : Sz) (r i : Nat) : Word :=
  match sz with
  | .w64 => (w.vl (r + 1) i) ++ (w.vl r i)
  | _ => low sz.bits ((w.vl r i).zeroExtend 64)

/-- The value of a queue operand whose first pop is the k-th of the instruction on that queue. -/
def Warp.popLane (w : Warp) (sz : Sz) (q : BitVec 2) (k i : Nat) : Word :=
  let at_ := fun j => ((popLanes (w.queue q) j)[i]?).getD 0
  match sz with
  | .w64 => at_ (k + 1) ++ at_ k
  | _ => low sz.bits ((at_ k).zeroExtend 64)

/-- Operand A for lane i: raw bits of the width, zero-extended. -/
def Env.laneA (e : Env) (sz : Sz) (a : SrcA) (i : Nat) : Word :=
  match a with
  | .v r x => match x.src i with
    | some j => e.w.lane sz r.toNat j
    | none => 0
  | .s r => low sz.bits (e.w.sx e.o r)
  | .special .laneid => low sz.bits (BitVec.ofNat 64 i)
  | .special sel => low sz.bits (e.y.special e.w e.b e.k sel)
  | .queue q => e.w.popLane sz q 0 i

end Sys2Proof.Machine

namespace Sys2Proof
open Sys2Proof.Machine

/-- The pops of operand A on a queue. -/
def SrcA.popsOn (sz : Sz) (a : SrcA) (q : BitVec 2) : Nat :=
  match a with
  | .queue p => if p = q then sz.pops else 0
  | _ => 0

end Sys2Proof

namespace Sys2Proof.Machine

/-- Operand B for lane i; `before` counts the pops of A on the same queue, and `zx` chooses the
extension of an imm16 (R196). DESIGN CHOICE (log 130): at 8 bits, where there is nothing to extend, an imm16 supplies its low 8 bits. -/
def Env.laneB (e : Env) (sz : Sz) (a : SrcA) (asz : Sz) (b : SrcB) (zx : Bool) (i : Nat) : Word :=
  match b with
  | .v r => e.w.lane sz r.toNat i
  | .s r => low sz.bits (e.w.sx e.o r)
  | .imm m => low sz.bits (if zx then immZ m else immS m)
  | .queue q => e.w.popLane sz q (a.popsOn asz q) i

/-- Operand C, a V register, for lane i. -/
def Env.laneC (e : Env) (sz : Sz) (c : BitVec 8) (i : Nat) : Word := e.w.lane sz c.toNat i

/-- A uniform register or immediate, sign-extended. -/
def Env.uni (e : Env) (u : UImm) : Word :=
  match u with
  | .s r => e.w.sx e.o r
  | .imm m => immS m

/-- Operand A of a scalar form, at a width. DESIGN CHOICE (log 129): LANEID, which R195 gives per lane, reads 0 in a uniform operand. -/
def Env.scalarA (e : Env) (a : SrcS) : Word :=
  match a with
  | .s r => e.w.sx e.o r
  | .special .laneid => 0
  | .special sel => e.y.special e.w e.b e.k sel

/-- Writes an n-bit result per active lane under R258: extended to 32 bits, or to the pair. -/
def putLanes (w : Warp) (exec : LaneMask) (sz : Sz) (sg : Bool) (d : Nat) (f : Nat → Word) : Warp :=
  let vals := Vector.ofFn (fun i : Fin 32 => f i)
  match sz with
  | .w64 =>
    (w.writeV d exec (vals.map (fun v : Word => v.setWidth 32))).writeV (d + 1) exec
      (vals.map (fun v : Word => (v >>> 32).setWidth 32))
  | _ => w.writeV d exec (vals.map (fun v => (ext sg sz.bits v).setWidth 32))

/-! ### Register uses (R195, R215) -/

/-- One use of a register by an instruction: V or S, read or written, in the order D, A, B, C. -/
inductive Use where
  | vr (r : Nat) | vw (r : Nat) | sr (r : Nat) | sw (r : Nat)
  deriving DecidableEq, Repr

def vRead (sz : Sz) (r : BitVec 8) : List Use :=
  if sz = .w64 then [.vr r.toNat, .vr (r.toNat + 1)] else [.vr r.toNat]

def vWrite (sz : Sz) (r : BitVec 8) : List Use :=
  if sz = .w64 then [.vw r.toNat, .vw (r.toNat + 1)] else [.vw r.toNat]

end Sys2Proof.Machine

namespace Sys2Proof
open Sys2Proof.Machine

def SrcA.uses (sz : Sz) : SrcA → List Use
  | .v r _ => vRead sz r
  | .s r => [.sr r.toNat]
  | _ => []

def SrcB.uses (sz : Sz) : SrcB → List Use
  | .v r => vRead sz r
  | .s r => [.sr r.toNat]
  | _ => []

def UImm.uses : UImm → List Use
  | .s r => [.sr r.toNat]
  | .imm _ => []

def SrcS.uses : SrcS → List Use
  | .s r => [.sr r.toNat]
  | .special _ => []

def BigA.uses : BigA → List Use
  | .v r => [.vr r.toNat]
  | .queue _ => []

def BigB.uses : BigB → List Use
  | .v r => [.vr r.toNat]
  | .s r => [.sr r.toNat]
  | _ => []

/-- A register group of n V registers read. -/
def group (f : Nat → Use) (r n : Nat) : List Use := (List.range n).map (fun j => f (r + j))

def BigA.groupUses (n : Nat) : BigA → List Use
  | .v r => group .vr r.toNat n
  | .queue _ => []

def optUses (f : Nat → Use) : OptS → List Use
  | some r => [f r.toNat]
  | none => []

def WitF.uses : WitF → List Use
  | .none => []
  | .inp r => [.sr r.toNat]
  | .out r => [.sw r.toNat]
  | .both r => [.sr r.toNat, .sw r.toNat]

def OpAB.uses (o : OpAB) : List Use := vWrite o.sz o.d ++ o.a.uses o.sz ++ o.b.uses o.sz

/-- B is read as 32 bits (R265, R268, R275). -/
def OpAB.uses32 (o : OpAB) : List Use := vWrite o.sz o.d ++ o.a.uses o.sz ++ o.b.uses .w32

def OpABC.uses (o : OpABC) : List Use := vWrite o.sz o.d ++ o.a.uses o.sz ++ o.b.uses o.sz ++ vRead o.sz o.c

def OpA.uses (o : OpA) : List Use := vWrite o.sz o.d ++ o.a.uses o.sz

def OpS.uses (o : OpS) : List Use := [.sw o.d.toNat] ++ o.a.uses ++ o.b.uses

def Half.uses (h : Half) : List Use :=
  (h.vReads.map .vr) ++ (h.vWrite.toList.map .vw) ++ (h.sReads.map .sr) ++ (h.sWrite.toList.map .sw)

def MemV.uses (o : MemV) (load : Bool) : List Use :=
  (if load then vWrite o.sz o.d else vRead o.sz o.d) ++ optUses .sr o.base ++
    (match o.index with | some r => [.vr r.toNat] | none => []) ++ o.w.uses

def MemU.uses (o : MemU) (load : Bool) : List Use :=
  [if load then .sw o.d.toNat else .sr o.d.toNat] ++ optUses .sr o.base ++ o.w.uses

/-- LDK and STK name k registers, or k pairs at 64 bits (R293). -/
def MemK.count (o : MemK) : Nat := (o.k.toNat + 1) * (if o.sz = .w64 then 2 else 1)

def MemK.uses (o : MemK) (load : Bool) : List Use :=
  group (if load then .vw else .vr) o.d.toNat o.count ++ optUses .sr o.base ++ o.w.uses

end Sys2Proof
end

