-- ==== Sys2Proof/Machine/Issue.lean ====
section
/-! DEFINITION. Issue of an instruction word: the registers each form names, the checks that come before every
meaning (R81, R185, R195, R198, R211, R215, R220, R223, R79, R85), and what follows a meaning. -/

namespace Sys2Proof
open Sys2Proof.Machine

/-- The registers of the A and B groups of MMA and MMQ under a pair (R364, R367). -/
def groupB (fmt : Word) : Nat := if bits fmt 2 0 = 3 then 32 else 8

/-- Every register an instruction names, in the order D, A, B, C (R215). `fmt` is FMT, which fixes the groups of
MMA and MMQ (R364). -/
def Instr.uses (fmt : Word) : Instr → List Use
  | .pairedWord x y => x.uses ++ y.uses
  | .iadd o | .isub o | .imul o | .imulh o | .imin o | .imax o | .iand o | .ior o | .ixor o | .iandn o
  | .shl o | .shr o | .sar o | .rot o | .idiv o | .irem o => o.uses
  | .imad o | .fshf o => o.uses
  | .imadw o => vWrite .w64 o.d ++ o.a.uses .w32 ++ o.b.uses .w32 ++ vRead .w64 o.c
  | .iaddc o | .isubb o => vWrite .w64 o.d ++ o.a.uses .w32 ++ o.b.uses .w32 ++ vRead .w32 o.c
  | .iabs o | .clz o | .ctz o | .popc o | .brev o | .mov o => o.uses
  | .bfe o | .lea o | .lperm o => o.uses32
  | .bfi o => vWrite o.sz o.d ++ o.a.uses o.sz ++ o.b.uses .w32 ++ vRead o.sz o.c
  | .prmb o => o.uses
  | .sel o => vWrite o.sz o.d ++ o.a.uses o.sz ++ o.b.uses o.sz ++ [.sr o.c.toNat]
  | .icmpEq o | .icmpNe o | .icmpLt o | .icmpLe o | .icmpGt o | .icmpGe o
  | .icmpLtu o | .icmpLeu o | .icmpGtu o | .icmpGeu o =>
    [.sw o.d.toNat] ++ o.a.uses o.sz ++ o.b.uses o.sz
  | .movi d _ sz => vWrite sz d
  | .stov d a j sz _ => vWrite sz d ++ [.sr a.toNat] ++ j.uses
  | .vtos d a j sz _ => [.sw d.toNat] ++ vRead sz a ++ j.uses
  | .sadd o | .ssub o | .smul o | .smulh o | .sand o | .sor o | .sxor o | .sandn o | .sshl o | .sshr o
  | .ssar o | .smin o | .smax o | .slea o => o.uses
  | .sclz o | .sctz o | .spopc o => [.sw o.d.toNat] ++ o.a.uses
  | .ssel o => [.sw o.d.toNat] ++ o.a.uses ++ [.sr o.b.toNat, .sr o.c.toNat]
  | .scmp o => [.sw o.d.toNat] ++ o.a.uses ++ [.sr o.b.toNat]
  | .smovi d _ _ => [.sw d.toNat]
  | .smovh d _ => [.sw d.toNat, .sr d.toNat]
  | .lscan o | .lred o => vWrite o.sz o.d ++ o.a.uses o.sz
  | .ballot o => [.vw o.d.toNat] ++ o.a.uses o.sz
  | .fadd o | .fsub o | .fmul o | .fmin o | .fmax o | .fdiv o =>
    vWrite o.f.sz o.d ++ o.a.uses o.f.sz ++ o.b.uses o.f.sz
  | .ffma o => vWrite o.f.sz o.d ++ o.a.uses o.f.sz ++ o.b.uses o.f.sz ++ vRead o.f.sz o.c
  | .fcmp o => [.vw o.d.toNat] ++ o.a.uses o.f.sz ++ o.b.uses o.f.sz
  | .fsqrt o => vWrite o.f.sz o.d ++ o.a.uses o.f.sz
  | .fclass o => [.vw o.d.toNat] ++ o.a.uses o.f.sz
  | .fcvt d a dt st _ => vWrite dt.sz d ++ a.uses st.sz
  | .lds o | .gath o => o.uses true
  | .sts o | .scat o => o.uses false
  | .ldsu o | .gaths o => o.uses true
  | .stsu o => o.uses false
  | .ldk o => o.uses true
  | .stk o => o.uses false
  | .ats o | .atm o =>
    let sz : Sz := if o.wide || o.aop = .cas then .w64 else .w32
    (vRead sz o.d) ++ (if o.wide && o.aop = .cas then [.vr (o.d.toNat + 2), .vr (o.d.toNat + 3)] else []) ++
      (vWrite (if o.wide then .w64 else .w32) o.d) ++ optUses .sr o.base ++
      (match o.index with | some r => [.vr r.toNat] | none => []) ++ o.w.uses
  | .atsu o =>
    [.sr o.d.toNat] ++ (if o.aop = .cas then [.sr (o.d.toNat + 1)] else []) ++ [.sw o.d.toNat] ++
      optUses .sr o.base ++ o.w.uses
  | .wmerge d a b => [.sw d.toNat, .sr a.toNat, .sr b.toNat]
  | .wmarkL d a | .wmarkV d a | .wtest d a => [.sw d.toNat, .sr a.toNat]
  | .wwait a => [.sr a.toNat]
  | .cpl o => vRead .w64 o.d ++ optUses .sr o.base ++
      (match o.index with | some r => [.vr r.toNat] | none => []) ++ optUses .sr o.w
  | .cpb o => [.sr o.d.toNat, .sr (o.d.toNat + 1)] ++ optUses .sr o.base ++ optUses .sr o.w
  | .cpseal _ => []
  | .cpwait d _ | .cpqry d _ => [.sw d.toNat]
  | .halloc d a w _ _ _ => [.sw d.toNat, .sw (d.toNat + 1), .sr a.toNat] ++ optUses .sr w
  | .hfree d a w _ => [.sw d.toNat, .sr a.toNat] ++ optUses .sr w
  | .hqry d a _ => [.sw d.toNat, .sr a.toNat]
  | .pcommit d a w _ => [.sw d.toNat, .sw (d.toNat + 1), .sr a.toNat] ++ optUses .sr w
  | .pdecommit d a w _ _ => [.sw d.toNat, .sw (d.toNat + 1), .sr a.toNat] ++ optUses .sr w
  | .pqry d a _ => [.sw d.toNat, .sw (d.toNat + 1), .sr a.toNat]
  | .strm _ a b c _ _ _ => [.sr a.toNat, .sr b.toNat, .sr c.toNat]
  | .strmend _ | .qmark _ _ => []
  | .qdisc d _ => [.sw d.toNat]
  | .badd d a b | .bsub d a b => [.vw d.toNat] ++ a.uses ++ b.uses
  | .bneg d a | .bnorm d a | .bcvtTotc d a | .bcvtFromtc d a => [.vw d.toNat] ++ a.uses
  | .bcmp d a b _ => [.sw d.toNat] ++ a.uses ++ b.uses
  | .bshl d a k | .bshr d a k _ | .bmuls d a k _ => [.vw d.toNat] ++ a.uses ++ k.uses
  | .bdivs d a b c _ => [.vw d.toNat] ++ a.uses ++ [.sr b.toNat, .sw c.toNat]
  | .blen d a | .bbits d a _ | .bcvtF64 d a => [.sw d.toNat] ++ a.uses
  | .bspill a b w => [.vr a.toNat, .sr b.toNat] ++ optUses .sw w
  | .bfill d a w => [.vw d.toNat, .sr a.toNat] ++ optUses .sr w
  | .bconv _ a b c _ => a.uses ++ b.uses ++ [.sr c.toNat]
  | .cres d _ b last => [.vw d.toNat, .sr b.toNat] ++ optUses .sw last
  | .lmul d a b c _ | .ladd d a b c _ _ | .nttf d a b c _ | .ntti d a b c _ | .accrun d a b c _ =>
    [.sw d.toNat, .sr d.toNat, .sw (d.toNat + 1), .sr a.toNat, .sr b.toNat, .sr c.toNat]
  | .accstat d _ => [.sw d.toNat, .sw (d.toNat + 1)]
  | .setfmt b => b.uses
  | .mma _ a b c => a.groupUses 8 ++ b.groupUses (groupB fmt) ++
      (if bits fmt 2 0 = 3 then [.vr c.toNat] else [])
  | .mmq _ a b _ => a.groupUses (if bits fmt 2 0 = 3 then 9 else 8) ++ b.groupUses (groupB fmt / 4)
  | .zclr _ _ | .zadd _ _ _ => []
  | .zld _ g row => g.groupUses 4 ++ row.uses
  | .zst g _ row => group .vw g.toNat 4 ++ row.uses
  | .zcvt d _ b c ty _ =>
    [.vw d.toNat] ++ (if ty = .acc then [.vr d.toNat] else []) ++ [.sr b.toNat] ++ optUses .sr c
  | .bra _ | .brz none _ | .join | .exit | .nop | .tret | .phint _ | .bkpt _ => []
  | .brs c _ _ => [.sr c.toNat]
  | .brv v _ _ => [.vr v.toNat]
  | .brz (some m) _ => [.sr m.toNat]
  | .bsplit (.v r) _ => [.vr r.toNat]
  | .bsplit (.s r) _ => [.sr r.toNat]
  | .call l _ => [.sw l.toNat]
  | .ret l | .jmpi l _ => [.sr l.toNat]
  | .loop c _ => [.sr c.toNat, .sw c.toNat]
  | .bar o => optUses .sw o.d ++ optUses .sr o.w ++ optUses .sr o.m
  | .bararr o => optUses .sr o.w ++ optUses .sr o.m
  | .barwt d _ _ _ => optUses .sw d
  | .waitx _ a d => optUses .sw d ++ [.sr a.toNat]
  | .sigx _ a b _ => [.sr a.toNat, .sr b.toNat]
  | .xred d a _ _ => vWrite .w64 d ++ vRead .w64 a
  | .qpost d a w _ _ => optUses .sw d ++ group .sr a.toNat 8 ++ optUses .sr w
  | .qinfo d a _ => [.sw d.toNat, .sr a.toNat]
  | .dpub d a b w _ _ => [.sr d.toNat, .sw d.toNat, .sr a.toNat] ++ group .sr b.toNat 8 ++ optUses .sr w
  | .dsig a w _ _ _ => [.sr a.toNat] ++ optUses .sr w
  | .launch d a b w _ => [.sw d.toNat, .sr a.toNat, .sr b.toNat] ++ optUses .sr w
  | .trap u => u.uses
  | .srd d which => if which = .laneid then [.vw d.toNat] else [.sw d.toNat]
  | .swr _ u => u.uses
  | _ => []

/-- The registers that the decode check of R81 and R195 covers: the extents of MMA and MMQ are checked at issue. -/
def Instr.named : Instr → List Use
  | .mma _ a b c => a.uses ++ b.uses ++ [.vr c.toNat]
  | .mmq _ a b _ => a.uses ++ b.uses
  | i => i.uses 0

/-- The queue pops of a form, in operand order, but for the tile groups (R78). -/
def popsAB (a : SrcA) (asz : Sz) (b : SrcB) (bsz : Sz) : List (BitVec 2 × Nat) :=
  (match a with | .queue q => [(q, asz.pops)] | _ => []) ++ (match b with | .queue q => [(q, bsz.pops)] | _ => [])

def BigA.pops (n : Nat) : BigA → List (BitVec 2 × Nat)
  | .queue q => [(q, n)]
  | .v _ => []

def BigB.pops : BigB → List (BitVec 2 × Nat)
  | .queue q => [(q, 1)]
  | _ => []

def Half.pops (h : Half) : List (BitVec 2 × Nat) :=
  match h.rs with
  | .queue q => if h.op = .hnop then [] else [(q, 1)]
  | _ => []

def Instr.pops : Instr → List (BitVec 2 × Nat)
  | .pairedWord x y => x.pops ++ y.pops
  | .iadd o | .isub o | .imul o | .imulh o | .imin o | .imax o | .iand o | .ior o | .ixor o | .iandn o
  | .shl o | .shr o | .sar o | .rot o | .idiv o | .irem o
  | .icmpEq o | .icmpNe o | .icmpLt o | .icmpLe o | .icmpGt o | .icmpGe o
  | .icmpLtu o | .icmpLeu o | .icmpGtu o | .icmpGeu o => popsAB o.a o.sz o.b o.sz
  | .bfe o | .lea o | .lperm o => popsAB o.a o.sz o.b .w32
  | .imad o | .fshf o | .prmb o | .sel o => popsAB o.a o.sz o.b o.sz
  | .imadw o | .iaddc o | .isubb o => popsAB o.a .w32 o.b .w32
  | .bfi o => popsAB o.a o.sz o.b .w32
  | .iabs o | .clz o | .ctz o | .popc o | .brev o | .mov o | .ballot o => popsAB o.a o.sz (.imm 0) .w32
  | .lscan o | .lred o => popsAB o.a o.sz (.imm 0) .w32
  | .fadd o | .fsub o | .fmul o | .fmin o | .fmax o | .fdiv o => popsAB o.a o.f.sz o.b o.f.sz
  | .ffma o | .fcmp o => popsAB o.a o.f.sz o.b o.f.sz
  | .fsqrt o | .fclass o => popsAB o.a o.f.sz (.imm 0) .w32
  | .fcvt _ a _ st _ => popsAB a st.sz (.imm 0) .w32
  | .badd _ a b | .bsub _ a b | .bcmp _ a b _ => a.pops 1 ++ b.pops
  | .bneg _ a | .bnorm _ a | .bcvtTotc _ a | .bcvtFromtc _ a | .bcvtF64 _ a | .bshl _ a _ | .bshr _ a _ _
  | .bmuls _ a _ _ | .bdivs _ a _ _ _ | .blen _ a | .bbits _ a _ => a.pops 1
  | .bconv _ a b _ _ => a.pops 1 ++ b.pops 1
  | _ => []

/-- Operand A, with its size, where it may carry a cross-lane modifier (R198). -/
def Instr.srcA? : Instr → Option (SrcA × Sz)
  | .iadd o | .isub o | .imul o | .imulh o | .imin o | .imax o | .iand o | .ior o | .ixor o | .iandn o
  | .shl o | .shr o | .sar o | .rot o | .idiv o | .irem o | .bfe o | .lea o
  | .icmpEq o | .icmpNe o | .icmpLt o | .icmpLe o | .icmpGt o | .icmpGe o
  | .icmpLtu o | .icmpLeu o | .icmpGtu o | .icmpGeu o => some (o.a, o.sz)
  | .imad o | .fshf o | .bfi o | .prmb o | .sel o => some (o.a, o.sz)
  | .imadw o | .iaddc o | .isubb o => some (o.a, .w32)
  | .iabs o | .clz o | .ctz o | .popc o | .brev o | .mov o | .ballot o => some (o.a, o.sz)
  | .fadd o | .fsub o | .fmul o | .fmin o | .fmax o | .fdiv o => some (o.a, o.f.sz)
  | .ffma o | .fcmp o => some (o.a, o.f.sz)
  | .fsqrt o | .fclass o => some (o.a, o.f.sz)
  | .fcvt _ a _ st _ => some (a, st.sz)
  | _ => none

/-- Whole-warp operations that a split warp may not issue (R185, R274, R401). -/
def Instr.unsplit : Instr → Bool
  | .lperm _ | .lscan _ | .lred _ | .ballot _ | .bar _ | .bararr _ | .barwt _ _ _ _ => true
  | _ => false

/-- Whole-warp operations that need EXEC all ones besides (R339, R372, R406). -/
def Instr.whole : Instr → Bool
  | .badd _ _ _ | .bsub _ _ _ | .bneg _ _ | .bcmp _ _ _ _ | .bshl _ _ _ | .bshr _ _ _ _ | .bmuls _ _ _ _
  | .bdivs _ _ _ _ _ | .bnorm _ _ | .blen _ _ | .bbits _ _ _ | .bspill _ _ _ | .bfill _ _ _
  | .bcvtTotc _ _ | .bcvtFromtc _ _ | .bcvtF64 _ _ | .bconv _ _ _ _ _ | .cres _ _ _ _
  | .setfmt _ | .mma _ _ _ _ | .mmq _ _ _ _ | .zclr _ _ | .zld _ _ _ | .zst _ _ _ | .zcvt _ _ _ _ _ _
  | .zadd _ _ _ | .xred _ _ _ _ => true
  | _ => false

/-- The control transfers (R211). -/
def Instr.transfer : Instr → Bool
  | .bra _ | .brs _ _ _ | .brv _ _ _ | .brz _ _ | .bsplit _ _ | .join | .call _ _ | .ret _ | .jmpi _ _
  | .loop _ _ | .exit | .tret => true
  | _ => false

/-- The forms that run only in the access slice (R223). -/
def Instr.accessOnly : Instr → Bool
  | .strm _ _ _ _ _ _ _ | .strmend _ | .qmark _ _ => true
  | _ => false

/-- The forms that the access slice accepts (R223). -/
def Instr.inAccess : Instr → Bool
  | .sadd _ | .ssub _ | .smul _ | .smulh _ | .sand _ | .sor _ | .sxor _ | .sandn _ | .sshl _ | .sshr _
  | .ssar _ | .smin _ | .smax _ | .sclz _ | .sctz _ | .spopc _ | .ssel _ | .slea _ | .scmp _
  | .smovi _ _ _ | .smovh _ _ | .strm _ _ _ _ _ _ _ | .strmend _ | .qmark _ _
  | .bra _ | .brs _ _ _ | .loop _ _ | .exit | .nop | .clauseStart _ => true
  | _ => false

/-- The forms whose register and accumulator errors come last among their traps (R308, R336, R360, R373). -/
def Instr.lateMem (i : Instr) : Bool :=
  i.whole || (match i with
    | .lds _ | .sts _ | .ldsu _ | .stsu _ | .ldk _ | .stk _ | .ats _ | .atsu _ | .atm _
    | .gath _ | .gaths _ | .scat _ | .cpl _ | .cpb _ => true
    | _ => false)

/-- The long-number forms, which read the shape entries of the V registers they name (R236). -/
def Instr.readsShape : Instr → Bool
  | .badd _ _ _ | .bsub _ _ _ | .bneg _ _ | .bcmp _ _ _ _ | .bshl _ _ _ | .bshr _ _ _ _ | .bmuls _ _ _ _
  | .bdivs _ _ _ _ _ | .bnorm _ _ | .blen _ _ | .bbits _ _ _ | .bspill _ _ _ | .bcvtTotc _ _ | .bcvtFromtc _ _
  | .bcvtF64 _ _ | .bconv _ _ _ _ _ => true
  | _ => false

end Sys2Proof

namespace Sys2Proof.Machine

/-- Why a word does not complete now: it traps, it waits and will issue again, or another change takes place. -/
inductive Hold where
  | trap (t : TrapInfo)
  | wait (r : Wait)
  | change (u : Upd)

/-- A trap as the answer of a check. -/
def trapping {α : Type} (c : Cause) (v : Word) : Except Hold α := .error (.trap (trapOf c v))

/-- The word of an instruction, which ILLEGAL records (R220). -/
def Instr.word (i : Instr) : Word := (encode i).getD 0

/-- The issuing environment, when `cur` names a warp and sub-warp that exist. -/
def env? (i : Instr) (s : State) : Option Env :=
  match s.sys.cur with
  | none => none
  | some c =>
    match s.sys.warp? c.1 with
    | none => none
    | some w =>
      match w.sub? c.2, s.sys.block? w.block with
      | some b, some k => some { s, w, b, o := c.2, k, i }
      | _, _ => none

/-- A named register is out of range: the V budget, or X0 to X31 in the access slice (R81, R195, R223). -/
def Env.outOfRange (e : Env) : Bool :=
  e.i.named.any (fun u => match u with
    | .vr r | .vw r => e.w.budget ≤ r
    | .sr r | .sw r => e.o.isNone && 32 ≤ r)

/-- The place and slice checks of R210, R211, R220 and R223. -/
def Env.misplaced (e : Env) : Bool :=
  match e.b.place, e.i with
  | .inside _, .clauseStart _ => true
  | .inside c, i =>
    (i.transfer && e.b.pc + 8 != c.next) || (if e.o.isNone then !i.inAccess else i.accessOnly)
  | _, .clauseStart _ => false
  | _, _ => true

/-- V or S register `r` is pending for the warp (R215). -/
def Sys.pendingV (y : Sys) (w : Nat) (r : Nat) : Bool := y.ops.any (fun o => o.warp == some w && o.pendV.contains r)

def Sys.pendingS (y : Sys) (w : Nat) (r : Nat) : Bool := y.ops.any (fun o => o.warp == some w && o.pendS.contains r)

/-- The first pending register that the instruction names (log 10). -/
def Env.unguarded? (e : Env) : Option Nat :=
  if e.o.isNone then none
  else
    (e.i.uses e.w.fmt).findSome? (fun u => match u with
      | .vr r | .vw r => if e.y.pendingV e.w.id r then some r else none
      | .sr r | .sw r => if e.y.pendingS e.w.id r then some r else none)

/-- The lane of STOV and VTOS (R270). -/
def Env.laneArg (e : Env) (u : UImm) : Nat := (e.uni u).toNat % 32

/-- The source lanes that a cross-lane modifier takes from outside the sub-warp (R198). -/
def Env.foreign (e : Env) : LaneMask :=
  match e.i.srcA? with
  | some (.v _ x, _) => x.outside e.b
  | _ => 0

/-- CONVERGENCE as R198, R185, R270, R274, R339 and R372 raise it, with its TLANES, in the order of R284. -/
def Env.converge? (e : Env) : Option LaneMask :=
  let split := e.w.subs.length != 1
  if e.foreign != 0 then some e.foreign
  else if e.i.whole || e.i.unsplit then
    if split then some allLanes
    else if e.i.whole && e.b.exec != allLanes then some (~~~e.b.exec)
    else none
  else
    match e.i with
    | .stov _ _ j _ _ | .vtos _ _ j _ _ =>
      if e.b.lset.getLsbD (e.laneArg j) then none else some (1#32 <<< e.laneArg j)
    | _ => none

/-- A pop that finds its queue empty: it stalls, or traps once the access slice has ended (R79). -/
def Env.emptyPop (e : Env) (l : List (BitVec 2 × Nat)) : Option Hold :=
  let need := fun q : BitVec 2 => (l.filter (fun p => p.1 == q)).foldl (fun n p => n + p.2) 0
  let short := fun q : BitVec 2 =>
    let entries := e.w.queue q
    entries.length < need q && !entries.any (fun x => match x with | .marker _ => true | _ => false)
  match l.find? (fun p => short p.1) with
  | none => none
  | some (q, _) =>
    match e.w.access with
    | some a => if a.ended then some (.trap (trapOf .queueUnderrun (q.zeroExtend 64))) else some (.wait (.queue q (need q)))
    | none => some (.wait (.queue q (need q)))

/-- The entries that pops take, one after another: the queue, and the entry's index in it. -/
def popSpan : List (BitVec 2 × Nat) → List (BitVec 2 × Nat) → List (BitVec 2 × Nat)
  | _, [] => []
  | seen, (q, n) :: r =>
    let from_ := (seen.filter (fun p => p.1 == q)).foldl (fun k p => k + p.2) 0
    (List.range n).map (fun k => (q, from_ + k)) ++ popSpan (seen ++ [(q, n)]) r

/-- A popped entry whose element failed (R334), as MEM_ERROR at the pop, with the address and the PC of the read that failed
(R446). -/
def Env.failedPop (e : Env) (l : List (BitVec 2 × Nat)) : Option Hold :=
  (popSpan [] l).findSome? (fun p => match popAt (e.w.queue p.1) p.2 with
    | some (.failed _ m r va pc) =>
      some (.trap { trapOf .memError (BitVec.ofNat 64 va) with tlanes := m, reason := r, opc := pc })
    | _ => none)

/-- The lanes of V register r that the word reads (DESIGN CHOICE, log 118): lane j for VTOS, the lanes that B selects for operand A of LPERM, the source
lanes of a cross-lane operand, and else the active lanes. -/
def Env.readLanes (e : Env) (r : Nat) : LaneMask :=
  match e.i with
  | .vtos _ _ j _ _ => 1#32 <<< e.laneArg j
  | .lperm o =>
    (if (o.a.uses o.sz).contains (.vr r) then maskOf (fun j => (lanesOf e.b.exec).any (fun i => (e.laneB .w32 o.a o.sz o.b false i).toNat % 32 == j)) else 0) |||
      (if (o.b.uses .w32).contains (.vr r) then e.b.exec else 0)
  | i =>
    match i.srcA? with
    | some (.v a x, sz) =>
      let mine := (SrcA.v a x).uses sz
      if mine.contains (.vr r) then
        x.sources e.b.exec ||| (if ((i.uses e.w.fmt).erase (.vr r)).contains (.vr r) then e.b.exec else 0)
      else e.b.exec
    | _ => e.b.exec

/-- The lanes that an error in a register or a shape entry affects, where the instruction reads it (R85). -/
def Env.badLanes (e : Env) (u : Use) (b : BadReg) : LaneMask :=
  match u, b with
  | .vr r, .v n m => if r = n then m &&& e.readLanes r else 0
  | .vr r, .f n => if r = n && e.i.readsShape then allLanes else 0
  | .sr r, .s n => if r = n && e.o.isSome then allLanes else 0
  | .sr r, .x n => if r = n && e.o.isNone then allLanes else 0
  | _, _ => 0

/-- Uncorrectable errors in the registers that the instruction reads: TLANES holds the lanes of all of them (R85). -/
def Env.badRead (e : Env) : Option Hold :=
  let m := (e.i.uses e.w.fmt).foldl (fun a u => e.w.bad.foldl (fun a b => a ||| e.badLanes u b) a) 0
  if m = 0 then none else some (.trap { trapOf .memError 0 with tlanes := m })

/-- MEM_ERROR of the operands: a failed queue entry, or a register (R85, R334). DESIGN CHOICE (log 118): where several operands fail, the first
failed queue entry is reported alone, ahead of the registers, whose lanes are reported together. -/
def Env.memBad (e : Env) : Option Hold :=
  match e.failedPop e.i.pops with
  | some h => some h
  | none => e.badRead

/-- The handler that the issuing sub-warp is in. -/
def Env.handler? (e : Env) : Option Handler :=
  match e.w.handler with
  | some d => if d.has e.b.id then some d else none
  | none => none

/-- The package is in the load-store domain (R467), which neither it nor this one has left (R468). -/
def Sys.inLoadStore (y : Sys) (p : Nat) : Bool :=
  p == y.ctl.packageId || (!y.links.left && !y.links.gone.contains p && (Table.get? y.ctl.routes p).isSome)

/-- A target of SIGX is valid: the host, or a package of the domain (R405). -/
def Sys.sigTarget (y : Sys) (v : Word) : Bool :=
  if v.getLsbD 63 then bits v 62 0 == 0 else v.toNat < 64 && y.inLoadStore v.toNat

/-- ILLEGAL of a word that its encoding allows, which goes before UNGUARDED of its other operands (R416): a write of a
handler's register outside a handler, or a bad target of SIGX. -/
def Env.illegalFirst (e : Env) : Option Word :=
  match e.i with
  | .swr sel _ => if sel.handlerOnly && e.handler?.isNone then some (Instr.word e.i) else none
  | .sigx _ _ b _ =>
    if !e.y.pendingS e.w.id b.toNat && !e.y.sigTarget (e.w.s b) then some (e.w.s b) else none
  | _ => none

/-- The word waited behind its checks and runs again from that step (R289, R307), or is a CALL, whose target is checked first
(R416). -/
def Env.guardLater (e : Env) : Bool :=
  (match e.b.wait with | .witness _ => true | _ => false) || (match e.i with | .call _ _ => true | _ => false)

/-- UNGUARDED, with the register (R215). -/
def Env.guard? (e : Env) : Option TrapInfo := e.unguarded?.map (fun r => trapOf .unguarded (BitVec.ofNat 64 r))

/-- The checks before the meaning, in their order (R284, R360, R373, R416). -/
def Env.precheck (e : Env) : Option Hold :=
  if e.misplaced || e.outOfRange then some (.trap (trapOf .illegal (Instr.word e.i)))
  else match e.illegalFirst with
  | some v => some (.trap (trapOf .illegal v))
  | none => match (if e.guardLater then none else e.guard?) with
    | some t => some (.trap t)
    | none => match e.converge? with
      | some m => some (.trap { trapOf .convergence 0 with tlanes := m })
      | none => match e.emptyPop e.i.pops with
        | some h => some h
        | none => if e.i.lateMem then none else e.memBad

/-- A sub-warp behind a wait of its word. -/
def Sub.waitFor (b : Sub) (r : Wait) (now : Nat) : Sub :=
  { b with wait := r, under := .none, since := if b.wait = r then b.since else now, set := [] }

/-- The state after a word that did not complete. -/
def Env.held (e : Env) : Hold → Upd
  | .trap t => takeTrap e.s e.w e.o e.b t
  | .wait r => .of (e.y.setWarp (e.w.setSub e.o (e.b.waitFor r e.y.time.now)))
  | .change u => u

/-- Queues after the instruction's pops. -/
def Warp.popAll (w : Warp) (l : List (BitVec 2 × Nat)) : Warp :=
  l.foldl (fun v p => v.setQueue p.1 (popMany (v.queue p.1) p.2)) w

/-- The lanes of a V register that the word writes: lane j for STOV, else the active lanes. -/
def Env.writeLanes (e : Env) : LaneMask :=
  match e.i with
  | .stov _ _ j _ _ => e.b.exec &&& (1#32 <<< e.laneArg j)
  | _ => e.b.exec

/-- What an error of a V register leaves once some of its lanes are written (R85). -/
def BadReg.less (r : Nat) (m written : LaneMask) : Option BadReg :=
  if m &&& ~~~written = 0 then none else some (.v r (m &&& ~~~written))

/-- Register errors that the instruction's writes replaced (R85); a register that is pending in `y` is written when its operation completes. -/
def Env.repaired (e : Env) (y : Sys) (l : List BadReg) : List BadReg :=
  let us := e.i.uses e.w.fmt
  let v := fun r : Nat => us.contains (.vw r) && !y.pendingV e.w.id r
  let s := fun r : Nat => us.contains (.sw r) && !y.pendingS e.w.id r
  l.filterMap (fun b => match b with
    | .v r m => if v r then BadReg.less r m e.writeLanes else some b
    | .s r => if e.o.isSome && s r then none else some b
    | .f r => if v r then none else some b
    | .x r => if e.o.isNone && us.contains (.sw r) then none else some b)

/-- The warp after a word that completed and left `y`: pops made, and the sub-warp past the word. -/
def Env.afterIn (e : Env) (y : Sys) (w : Warp) (pops : List (BitVec 2 × Nat)) : Warp :=
  let w1 := w.popAll pops
  let w2 := w1.setSub e.o ((w1.sub? e.o).getD e.b).past
  { w2 with bad := e.repaired y w.bad }

/-- The same for a word that made no register pending. -/
def Env.after (e : Env) (w : Warp) (pops : List (BitVec 2 × Nat)) : Warp := e.afterIn e.y w pops

/-- Everything but memory after a word whose only effect is on its warp. -/
def Env.done (e : Env) (w : Warp) : Upd := .of ((e.y.setWarp (e.after w e.i.pops)).mark e.k.ctx)

/-- The same for a word that also changed `y`. -/
def Env.finish (e : Env) (y : Sys) (w : Warp) : Upd := .of ((y.setWarp (e.afterIn y w e.i.pops)).mark e.k.ctx)

/-- Issue of a word: the checks, then its meaning; a word that does not complete leaves what `held` says. -/
def issue (i : Instr) (s : State) (body : Env → Except Hold Upd) : Host.Outcome State Fault Refusal :=
  match env? i s with
  | none => .fault .noIssuer
  | some e =>
    match e.precheck with
    | some h => .next (commit s (e.held h))
    | none =>
      match body e with
      | .error h => .next (commit s (e.held h))
      | .ok u =>
        match (if i.lateMem then e.memBad else none) with
        | some h => .next (commit s (e.held h))
        | none => .next (commit s u)

/-- Issue of a word whose whole effect is on its warp's registers. -/
def issueReg (i : Instr) (s : State) (body : Env → Except Hold Warp) : Host.Outcome State Fault Refusal :=
  issue i s (fun e => match body e with
    | .ok w => .ok (e.done w)
    | .error h => .error h)

/-- A step of the machine around the warps (never a stop). -/
def machineStep (s : State) (u : Upd) : Host.Outcome State Fault Refusal := .next (commit s u)

/-- A step of system software, firmware or the host: a package in recovery, or held in reset, takes none (R470, R472). -/
def inputStep (s : State) (u : Upd) : Host.Outcome State Fault Refusal :=
  machineStep s (if s.sys.ctl.recovery || s.sys.ctl.held then .of s.sys else u)

/-- A machine step that is not enabled: nothing changes, and it may come again (log 1). -/
def idle (s : State) : Upd := .of s.sys

end Sys2Proof.Machine
end

