-- ==== Sys2Proof/Machine/Fp.lean ====
section
/-! DEFINITION. IEEE 754-2019 binary formats and exact arithmetic rounded once (R243 to R248). -/

namespace Sys2Proof.Machine

/-- A binary interchange format (R243): exponent bits and fraction bits. -/
structure FpFmt where
  eb : Nat
  fb : Nat
  deriving DecidableEq, Repr

def f16Fmt : FpFmt := { eb := 5, fb := 10 }
def f32Fmt : FpFmt := { eb := 8, fb := 23 }
def f64Fmt : FpFmt := { eb := 11, fb := 52 }

def FpFmt.bias (f : FpFmt) : Nat := 2 ^ (f.eb - 1) - 1
/-- The exponent of the smallest normal number. -/
def FpFmt.emin (f : FpFmt) : Int := 1 - (f.bias : Int)
def FpFmt.width (f : FpFmt) : Nat := 1 + f.eb + f.fb
def FpFmt.ones (f : FpFmt) : Nat := 2 ^ f.eb - 1

/-- A rounding mode: FPCTL.RM, and ties away from zero for NBV 1 (R244, R248). -/
inductive Rnd where
  | ne | tz | up | dn | away
  deriving DecidableEq, Repr

/-- What an encoding stands for: a NaN, an infinity, or (−1)^s · m · 2^e. -/
inductive FpVal where
  | nan (signalling : Bool)
  | inf (s : Bool)
  | fin (s : Bool) (m : Nat) (e : Int)
  deriving DecidableEq, Repr

/-- The flags in the order of FPCTL.FLAGS (R244). -/
abbrev FpFlags := BitVec 5

def fNV : FpFlags := 1
def fDZ : FpFlags := 2
def fOF : FpFlags := 4
def fUF : FpFlags := 8
def fNX : FpFlags := 16

/-- A pattern and the flags raised. -/
abbrev FpOut := Word × FpFlags

/-- The meaning of an encoding. -/
def FpFmt.unpack (f : FpFmt) (x : Word) : FpVal :=
  let n := x.toNat
  let s := x.getLsbD (f.width - 1)
  let e := n / 2 ^ f.fb % 2 ^ f.eb
  let m := n % 2 ^ f.fb
  if e = f.ones then (if m = 0 then .inf s else .nan (m < 2 ^ (f.fb - 1)))
  else if e = 0 then .fin s m (f.emin - f.fb)
  else .fin s (2 ^ f.fb + m) ((e : Int) - f.bias - f.fb)

def FpFmt.signBit (f : FpFmt) (s : Bool) : Nat := if s then 2 ^ (f.eb + f.fb) else 0

/-- The canonical NaN (R247). -/
def FpFmt.qnan (f : FpFmt) : Word := BitVec.ofNat 64 (f.ones * 2 ^ f.fb + 2 ^ (f.fb - 1))
def FpFmt.infinity (f : FpFmt) (s : Bool) : Word := BitVec.ofNat 64 (f.signBit s + f.ones * 2 ^ f.fb)
def FpFmt.zero (f : FpFmt) (s : Bool) : Word := BitVec.ofNat 64 (f.signBit s)
def FpFmt.largest (f : FpFmt) (s : Bool) : Word := BitVec.ofNat 64 (f.signBit s + f.ones * 2 ^ f.fb - 1)

/-- m · 2^e rounded to a multiple of 2^q, in units of 2^q, and whether it is exact. -/
def roundAt (r : Rnd) (s : Bool) (m : Nat) (e q : Int) : Nat × Bool :=
  if q ≤ e then (m * 2 ^ (e - q).toNat, true)
  else
    let d := 2 ^ (q - e).toNat
    let n := m / d
    let t := m % d
    let up := match r with
      | .ne => 2 * t > d || (2 * t = d && n % 2 = 1)
      | .tz => false
      | .up => t != 0 && !s
      | .dn => t != 0 && s
      | .away => 2 * t ≥ d
    (if up then n + 1 else n, t = 0)

/-- What an overflow delivers (R245). -/
def FpFmt.overflow (f : FpFmt) (r : Rnd) (s : Bool) : Word :=
  match r with
  | .ne | .away => f.infinity s
  | .tz => f.largest s
  | .up => if s then f.largest s else f.infinity s
  | .dn => if s then f.infinity s else f.largest s

/-- round_fp of a nonzero (−1)^s · m · 2^e (R245): tininess after rounding. `flush` is binary32 under NBV 1 (R248). -/
def FpFmt.round (f : FpFmt) (r : Rnd) (flush : Bool) (s : Bool) (m : Nat) (e : Int) : FpOut :=
  if m = 0 then (f.zero s, 0)
  else
    let qn : Int := e + m.log2 - f.fb
    let qmin : Int := f.emin - f.fb
    let q := if qn < qmin then qmin else qn
    let (n, exact) := roundAt r s m e q
    let (n', _) := roundAt r s m e qn
    let tiny := qn < qmin && !(n' ≥ 2 ^ (f.fb + 1) && qn + 1 = qmin)
    if flush && (tiny || n < 2 ^ f.fb) then (f.zero s, fUF ||| fNX)
    else
      let nx : FpFlags := if exact then 0 else fNX
      let uf : FpFlags := if tiny && !exact then fUF else 0
      let top := n ≥ 2 ^ (f.fb + 1)
      let frac := if top then n / 2 else n
      let q' := if top then q + 1 else q
      if frac < 2 ^ f.fb then (BitVec.ofNat 64 (f.signBit s + frac), nx ||| uf)
      else
        let ef := q' + f.fb + f.bias
        if ef ≥ f.ones then (f.overflow r s, fOF ||| fNX)
        else (BitVec.ofNat 64 (f.signBit s + ef.toNat * 2 ^ f.fb + (frac - 2 ^ f.fb)), nx ||| uf)

/-- How an operation reads and rounds: format, mode, and the subnormal rule of NBV 1 (R248). -/
structure FpCtx where
  f : FpFmt
  r : Rnd
  flush : Bool
  deriving DecidableEq, Repr

/-- An operand as it is read: a subnormal is zero when `flush`. -/
def FpFmt.read (f : FpFmt) (flush : Bool) (x : Word) : FpVal :=
  match f.unpack x with
  | .fin s m e => if flush && m < 2 ^ f.fb then .fin s 0 e else .fin s m e
  | v => v

def FpCtx.read (c : FpCtx) (x : Word) : FpVal := c.f.read c.flush x

def FpCtx.rnd (c : FpCtx) (s : Bool) (m : Nat) (e : Int) : FpOut := c.f.round c.r c.flush s m e

def FpVal.isNan : FpVal → Bool
  | .nan _ => true
  | _ => false

def FpVal.isSNan : FpVal → Bool
  | .nan b => b
  | _ => false

/-- NV when an operand is a signalling NaN (R247). -/
def snanFlag (l : List FpVal) : FpFlags := if l.any FpVal.isSNan then fNV else 0

def FpCtx.nan (c : FpCtx) (l : FpFlags) : FpOut := (c.f.qnan, l)

/-- A sum of two values that are not NaN (R280). -/
def FpCtx.sum (c : FpCtx) (a b : FpVal) : FpOut :=
  match a, b with
  | .inf s, .inf t => if s = t then (c.f.infinity s, 0) else c.nan fNV
  | .inf s, _ => (c.f.infinity s, 0)
  | _, .inf t => (c.f.infinity t, 0)
  | .fin s m e, .fin t n g =>
    let q := if e < g then e else g
    let x : Int := (m * 2 ^ (e - q).toNat : Nat)
    let y : Int := (n * 2 ^ (g - q).toNat : Nat)
    let z := (if s then -x else x) + (if t then -y else y)
    if z = 0 then (c.f.zero (if s = t then s else c.r == .dn), 0)
    else c.rnd (decide (z < 0)) z.natAbs q
  | _, _ => c.nan 0

def FpVal.neg : FpVal → FpVal
  | .inf s => .inf !s
  | .fin s m e => .fin (!s) m e
  | v => v

def FpCtx.add (c : FpCtx) (a b : FpVal) : FpOut :=
  if a.isNan || b.isNan then c.nan (snanFlag [a, b]) else c.sum a b

def FpCtx.sub (c : FpCtx) (a b : FpVal) : FpOut :=
  if a.isNan || b.isNan then c.nan (snanFlag [a, b]) else c.sum a b.neg

/-- The exact product of two values; `none` for 0 × ∞. NaN operands are dealt with before. -/
def mulExact (a b : FpVal) : Option FpVal :=
  match a, b with
  | .inf s, .inf t => some (.inf (s != t))
  | .inf s, .fin t m _ => if m = 0 then none else some (.inf (s != t))
  | .fin s m _, .inf t => if m = 0 then none else some (.inf (s != t))
  | .fin s m e, .fin t n g => some (.fin (s != t) (m * n) (e + g))
  | _, _ => none

/-- A value delivered: rounded when finite. -/
def FpCtx.give (c : FpCtx) (v : FpVal) : FpOut :=
  match v with
  | .nan _ => c.nan 0
  | .inf s => (c.f.infinity s, 0)
  | .fin s m e => c.rnd s m e

def FpCtx.mul (c : FpCtx) (a b : FpVal) : FpOut :=
  if a.isNan || b.isNan then c.nan (snanFlag [a, b])
  else match mulExact a b with
    | none => c.nan fNV
    | some v => c.give v

/-- FFMA: 0 × ∞ raises NV even when c is a quiet NaN (R280). -/
def FpCtx.fma (c : FpCtx) (a b d : FpVal) : FpOut :=
  if a.isNan || b.isNan then c.nan (snanFlag [a, b, d])
  else match mulExact a b with
    | none => c.nan fNV
    | some v => if d.isNan then c.nan (snanFlag [d]) else c.sum v d

/-- m / n · 2^e with enough bits to round once: an odd last bit stands for what is left over. -/
def FpCtx.quotient (c : FpCtx) (s : Bool) (m n : Nat) (e : Int) : FpOut :=
  let k := c.f.fb + 4 + n.log2
  let q := m * 2 ^ k / n
  let left := m * 2 ^ k % n
  c.rnd s (2 * q + (if left = 0 then 0 else 1)) (e - k - 1)

def FpCtx.div (c : FpCtx) (a b : FpVal) : FpOut :=
  match a, b with
  | .nan _, _ | _, .nan _ => c.nan (snanFlag [a, b])
  | .inf _, .inf _ => c.nan fNV
  | .inf s, .fin t _ _ => (c.f.infinity (s != t), 0)
  | .fin s _ _, .inf t => (c.f.zero (s != t), 0)
  | .fin s m e, .fin t n g =>
    if n = 0 then (if m = 0 then c.nan fNV else (c.f.infinity (s != t), fDZ))
    else if m = 0 then (c.f.zero (s != t), 0)
    else c.quotient (s != t) m n (e - g)

/-- Integer square root, one bit a step from the top. -/
def isqrtFrom (n : Nat) (r : Nat) : Nat → Nat
  | 0 => r
  | k + 1 => isqrtFrom n (if (r + 2 ^ k) * (r + 2 ^ k) ≤ n then r + 2 ^ k else r) k

def isqrt (n : Nat) : Nat := isqrtFrom n 0 (n.log2 / 2 + 1)

def FpCtx.sqrt (c : FpCtx) (a : FpVal) : FpOut :=
  match a with
  | .nan b => c.nan (if b then fNV else 0)
  | .inf s => if s then c.nan fNV else (c.f.infinity false, 0)
  | .fin s m e =>
    if m = 0 then (c.f.zero s, 0)
    else if s then c.nan fNV
    else
      let k := 2 * (c.f.fb + 3) + (if e % 2 = 0 then 0 else 1)
      let n := m * 2 ^ k
      let r := isqrt n
      c.rnd false (2 * r + (if r * r = n then 0 else 1)) ((e - k) / 2 - 1)

/-- The order of two values that are not NaN; zeros are equal. -/
def fpLt (a b : FpVal) : Bool :=
  match a, b with
  | .inf s, .inf t => s && !t
  | .inf s, _ => s
  | _, .inf t => !t
  | .fin s m e, .fin t n g =>
    let q := if e < g then e else g
    let x : Int := (m * 2 ^ (e - q).toNat : Nat)
    let y : Int := (n * 2 ^ (g - q).toNat : Nat)
    decide ((if s then -x else x) < (if t then -y else y))
  | _, _ => false

def FpVal.sign : FpVal → Bool
  | .inf s => s
  | .fin s _ _ => s
  | .nan _ => false

/-- minimumNumber and maximumNumber (R280): −0 counts as less than +0. -/
def FpCtx.pick (c : FpCtx) (max : Bool) (a b : FpVal) : FpOut :=
  let l := snanFlag [a, b]
  match a.isNan, b.isNan with
  | true, true => c.nan l
  | true, false => ((c.give b).1, l)
  | false, true => ((c.give a).1, l)
  | false, false =>
    let less := fpLt a b || (!fpLt b a && a.sign && !b.sign)
    ((c.give (if less != max then a else b)).1, l)

/-- FCMP's conditions (R281). -/
def fpCond (code : Nat) (a b : FpVal) : Bool × FpFlags :=
  let un := a.isNan || b.isNan
  let quiet := snanFlag [a, b]
  let loud : FpFlags := if un then fNV else 0
  let eq := !un && !fpLt a b && !fpLt b a
  match code with
  | 0 => (eq, quiet)
  | 1 => (!eq, quiet)
  | 2 => (!un && fpLt a b, loud)
  | 3 => (!un && !fpLt b a, loud)
  | 4 => (!un && fpLt b a, loud)
  | 5 => (!un && !fpLt a b, loud)
  | 6 => (un, quiet)
  | _ => (!un, quiet)

/-- The class bit of an encoding as stored (R282). -/
def FpFmt.classOf (f : FpFmt) (x : Word) : Nat :=
  match f.unpack x with
  | .nan true => 0
  | .nan false => 1
  | .inf s => if s then 2 else 9
  | .fin s m _ =>
    if m = 0 then (if s then 5 else 6)
    else if m < 2 ^ f.fb then (if s then 4 else 7)
    else (if s then 3 else 8)

/-- A value rounded to an integer in a range: out of range gives the nearest end and NV, not NX (R283, R255). -/
def toIntRange (r : Rnd) (lo hi : Int) (v : FpVal) : Int × FpFlags :=
  match v with
  | .nan _ => (0, fNV)
  | .inf s => (if s then lo else hi, fNV)
  | .fin s m e =>
    let (n, exact) := roundAt r s m e 0
    let z : Int := if s then -(n : Int) else n
    if z < lo then (lo, fNV) else if z > hi then (hi, fNV)
    else (z, if exact then 0 else fNX)

end Sys2Proof.Machine
end

