-- ==== Sys2Proof/Machine/Flags.lean ====
section
/-! DEFINITION. FPCTL: rounding modes, the sticky flags and FPX (R244 to R248, R279). -/

namespace Sys2Proof
open Sys2Proof.Machine

def FSz.fmt : FSz → FpFmt
  | .f32 => f32Fmt
  | .f64 => f64Fmt
  | .f16 => f16Fmt

/-- The rounding a form selects (R279), FPCTL.RM when dynamic. -/
def RSel.mode (r : RSel) (fpctl : Word) : Rnd :=
  match r with
  | .rne => .ne
  | .rtz => .tz
  | .rup => .up
  | .rdn => .dn
  | .dyn => match bits fpctl 1 0 with
    | 0 => .ne
    | 1 => .tz
    | 2 => .up
    | _ => .dn

end Sys2Proof

namespace Sys2Proof.Machine

/-- The numeric version 1 is selected (R248). -/
def Warp.v1 (w : Warp) : Bool := w.nbv == 1

/-- The context of a floating-point form (R245, R248). -/
def Warp.fpCtx (w : Warp) (f : FSz) (r : RSel) : FpCtx :=
  { f := f.fmt, r := r.mode w.fpctl, flush := w.v1 && f == .f32 }

/-- The enabled flags (R244). -/
def fpEnabled (fpctl : Word) : FpFlags := fpctl.extractLsb' 16 5

/-- FPCTL with flags ORed into FLAGS (R246). -/
def fpctlOr (fpctl : Word) (l : FpFlags) : Word := fpctl ||| (l.zeroExtend 64 <<< 8)

/-- Every flag raised by some active lane. -/
def flagsOf (b : Sub) (f : Nat → FpFlags) : FpFlags := (lanesOf b.exec).foldl (fun m i => m ||| f i) 0

/-- The active lanes that raised an enabled flag. -/
def flagLanes (b : Sub) (en : FpFlags) (f : Nat → FpFlags) : LaneMask :=
  maskOf (fun i => b.active i && (f i &&& en) != 0)

/-- Flags ORed into FPCTL, or FPX when an enabled one is raised (R246). -/
def Env.raiseFlags (e : Env) (f : Nat → FpFlags) (w : Warp) : Except Hold Warp :=
  let all := flagsOf e.b f
  let en := fpEnabled e.w.fpctl
  if (all &&& en) != 0 then
    .error (.trap { trapOf .fpx (all.zeroExtend 64) with tlanes := flagLanes e.b en f })
  else .ok { w with fpctl := fpctlOr e.w.fpctl all }

/-- The results of a floating-point form, one per active lane, with their flags. -/
def Env.fpPut (e : Env) (d : BitVec 8) (sz : Sz) (f : Nat → FpOut) : Except Hold Warp :=
  e.raiseFlags (fun i => (f i).2) (putLanes e.w e.b.exec sz false d.toNat (fun i => (f i).1))

end Sys2Proof.Machine
end

