-- ==== Sys2Proof/Machine/Home.lean ====
section
/-! DEFINITION. Physical addresses, the homes of locations and their caches, the DRAM rows behind them, failures at a home, and the
writes that the control die makes itself (R24, R63, R69 to R71, R85 to R88, R140 to R149, R154 to R163, R464). -/

namespace Sys2Proof.Machine

/-! ### Physical addresses and homes -/

/-- The first physical address past KIND 00 (R24). -/
def kind00End : Nat := 0x00C000000000

/-- The key of a physical address under a KIND; KIND 11 of the own package is KIND 00 here (R24). -/
def Sys.homeKey (y : Sys) (kind pa : Nat) : Nat :=
  if kind = 3 && pa / 2 ^ 42 = y.ctl.packageId then mainKey 0 (pa % 2 ^ 42) else mainKey kind pa

/-- The KIND and the physical address of a key of main memory. -/
def keyKind (key : Nat) : Nat := key / 2 ^ 48
def keyPA (key : Nat) : Nat := key % 2 ^ 48

/-- Die and die-relative frame of a KIND 00 address (R24, R140). -/
def paDie (pa : Nat) : Nat := pa / 2 ^ 37
def paFrame (pa : Nat) : Nat := pa % 2 ^ 37 / 2 ^ 16

def Die.region (d : Die) (r : Nat) : Region := Table.getD d.regions r d.regionAll

/-- The region of a KIND 00 address is online (R146, R158). -/
def Sys.online (y : Sys) (pa : Nat) : Bool := ((y.die (paDie pa)).region (paFrame pa / 1024)).state == 1

/-- Two ranges of keys overlap. -/
def overlaps (a n b m : Nat) : Bool := decide (a < b + m) && decide (b < a + n)

/-- No performed write to the range waits for its visibility (R89). -/
def Sys.quiet (y : Sys) (key n : Nat) : Bool := !y.unseen.any (fun u => overlaps u.key u.size key n)

/-- The unit of poison of a key: a 64-byte sector of main memory, a 32-bit word of scratch (R85, R154). -/
def poisonUnit (key : Nat) : Nat := if key < 2 ^ 50 then key / 64 * 64 else key / 4 * 4

def poisonSize (key : Nat) : Nat := if key < 2 ^ 50 then 64 else 4

/-- Reads come to the homes of some ranges (location and length): where a performed write is not visible yet the home holds the read,
ahead of every write that comes later (R89). -/
def Sys.holdRead (y : Sys) (who : ReadBy) (l : List (Nat × Nat)) : Sys :=
  { y with reading := l.foldl (fun a x =>
      if y.quiet x.1 x.2 || a.any (fun q => q.key == x.1 && q.size == x.2 && q.who == who) then a
      else a ++ [{ key := x.1, size := x.2, tick := y.time.now, who }]) y.reading }

/-- The reads of `who` have been served, or are given up. -/
def Sys.readDone (y : Sys) (who : ReadBy) : Sys := { y with reading := y.reading.filter (fun q => q.who != who) }

/-- The home's hold of a read ends 3 ticks after the read has come (R89). -/
def Sys.readsEnd (y : Sys) : Sys := { y with reading := y.reading.filter (fun q => decide (y.time.now < q.tick + 3)) }

/-- A byte of the range is poisoned. -/
def Sys.poisoned (y : Sys) (key n : Nat) : Bool := y.poison.any (fun p => overlaps p (poisonSize p) key n)

/-! ### Placement within a frame (R144 to R148) -/

/-- The hash of the frame of a KIND 00 key (R145). -/
def Sys.hashOf (y : Sys) (key : Nat) : Nat :=
  let f := paFrame (keyPA key)
  (Config.frameHash ((y.die (paDie (keyPA key))).region (f / 1024)).hver f).toNat

/-- The slot number c + 64 q of line `l` of frame `f` under a shape record (R147). -/
def shapeSlot (r : Word) (f l : Nat) : Nat :=
  let n := 2 ^ bits r 14 12
  (l % n + n * (l / n / 4) + bits r 5 0 * f) % 64 + 64 * (l / n % 4)

/-- The key of a byte reached through a leaf's mapping. Memory is listed by the line that hashed mapping gives each slot, so
that only a shape-mapped access moves: to the line whose slot its record names (log 18). -/
def Sys.placed (y : Sys) (map key : Nat) : Nat :=
  if map = 0 || 2 ^ 48 ≤ key then key
  else
    let slot := shapeSlot (y.ctl.shapes.toList.getD (map - 1) 0) (paFrame (keyPA key)) (key / 256 % 256)
    key / 65536 * 65536 + 256 * (slot ^^^ y.hashOf key) + key % 256

/-! ### Placement and row conflicts (R140, R144, R149) -/

/-- A line slot of a die (R144): its channel, bank group, bank, DRAM row, and 256-byte quarter of the row. -/
structure Slot where
  chan : Nat
  group : Nat
  bank : Nat
  row : Nat
  quarter : Nat
  deriving DecidableEq, Repr

/-- The slot of a sector of main memory. -/
def Sys.slot (y : Sys) (sector : Nat) : Slot :=
  let f := paFrame (keyPA sector)
  let p := (keyPA sector / 256 % 256) ^^^ y.hashOf sector
  { chan := p % 64, group := 4 * (f % 4) + p / 64, bank := f / 4 % 4, row := f / 16 / 4, quarter := f / 16 % 4 }

/-- The number of a slot's bank in its die. -/
def Slot.bankNo (p : Slot) : Nat := p.chan * 64 + p.group * 4 + p.bank

/-- One conflict of a die: CONF of the region, and a sample at every 4,096th (R149). -/
def Die.conflict (d : Die) (region ctx vpage : Nat) : Die :=
  let g := d.region region
  let n := d.conflicts + 1
  { d with conflicts := n, regions := Table.set d.regions region { g with conf := Nat.min (g.conf + 1) 0xFFFF },
           samples := if n % 4096 = 0 then d.samples ++ [(ctx, vpage)] else d.samples }

/-- A sector read at its stack: the row it needs is opened, which may close another (R149). -/
def Sys.stackRead (y : Sys) (q : Wanted) : Sys :=
  let d := paDie (keyPA q.sector)
  let p := y.slot q.sector
  let x := y.die d
  let opened := { x with openRows := Table.set x.openRows p.bankNo p.row }
  match Table.get? x.openRows p.bankNo with
  | some row =>
    if row = p.row then y
    else y.setDie d (opened.conflict (paFrame (keyPA q.sector) / 1024) q.ctx q.vpage)
  | none => y.setDie d opened

/-! ### Sectors of the home caches (R70) -/

/-- The sectors of a range of KIND 00 keys; no other location is cached there (R69). -/
def sectorsOf (key n : Nat) : List Nat :=
  if n = 0 || 2 ^ 48 ≤ key then [] else (List.range ((key + n - 1) / 64 - key / 64 + 1)).map (fun i => key / 64 * 64 + 64 * i)

/-- The sectors that a home cache lacks before it can serve an access: a write of a whole sector needs none. -/
def Sys.lacks (y : Sys) (key n : Nat) (write : Bool) : List Nat :=
  (sectorsOf key n).filter (fun t =>
    (Table.get? y.cached t).isNone && !(write && decide (key ≤ t) && decide (t + 64 ≤ key + n)))

/-- The sectors of a write are present and dirty. -/
def Sys.dirty (y : Sys) (key n : Nat) : Sys :=
  { y with cached := (sectorsOf key n).foldl (fun c t => Table.set c t true) y.cached }

/-- An access of an engine or of the control die fills the sectors it needs in the same step; `ctx` and `vpage` are its request tag, both 0 for a
write of the control die itself (DESIGN CHOICE, log 102). -/
def Sys.fillFor (y : Sys) (key n : Nat) (write : Bool) (ctx vpage : Nat) : Sys :=
  (y.lacks key n write).foldl (fun z t =>
    let z1 := z.stackRead { sector := t, ctx, vpage }
    { z1 with cached := Table.set z1.cached t false }) y

/-! ### Failures (R155, R158, R163) -/

/-- The path to another package is down or missing, or this package or the other has left the domain (R163, R467, R468). -/
def Sys.peerDown (y : Sys) (pa : Nat) : Bool :=
  y.links.left || y.links.gone.contains (pa / 2 ^ 42) || match Table.get? y.ctl.routes (pa / 2 ^ 42) with
  | some port => y.links.portDown.toList.getD port true
  | none => true

/-- Why an access cannot be performed at its home. -/
def Sys.accessFails (y : Sys) (key n : Nat) (reads : Bool) : Option Reason :=
  let path : Option Reason :=
    match keyKind key with
    | 0 => if y.online (keyPA key) then none else some .withdrawn
    | 1 => if y.links.cxlDown || y.links.expanderDown then some .link else none
    | 2 => if y.links.cxlDown then some .link else none
    | 3 => if y.peerDown (keyPA key) then some .link else none
    | _ => none
  match path with
  | some r => some r
  | none => if reads && y.poisoned key n then some .poison else none

/-- The poison that a write leaves: a unit it covers whole is cleared (R85, R155). -/
def Sys.cleaned (y : Sys) (key n : Nat) : Sys :=
  { y with poison := y.poison.filter (fun p => !(decide (key ≤ p) && decide (p + poisonSize p ≤ key + n))) }

/-- The units of a range are poisoned (R155). -/
def Sys.poisonRange (y : Sys) (key n : Nat) : Sys :=
  let us := ((List.range n).map (fun i => poisonUnit (key + i))).eraseDups
  { y with poison := (y.poison ++ us).eraseDups }

/-- A migration whose leaf is written goes stale (R52). -/
def Sys.staled (y : Sys) (key n : Nat) : Sys :=
  { y with migrations := y.migrations.map (fun m => if overlaps m.leafKey 8 key n then { m with stale := true } else m) }

/-- Everything but memory after a write has been performed with its origin's tick (R88): it is visible two ticks after
its stamp. -/
def Sys.performed (y : Sys) (o : Origin) (tick key n op : Nat) : Sys :=
  let y1 := ((y.cleaned key n).dirty key n).staled key n
  if tick + 2 ≤ y.time.now then y1
  else { y1 with unseen := y1.unseen ++ [{ origin := o, tick, key, size := n, op }] }

/-- A frame that a migration has frozen takes no write (R50). -/
def Sys.frozenFrame (y : Sys) (key : Nat) : Bool :=
  decide (key < 2 ^ 48) && y.migrations.any (fun m => m.src / 65536 == key / 65536)

/-! ### Recalls from the host (R87, R464) -/

def ReqKind.reads : ReqKind → Bool
  | .write _ => false
  | .held w => !w
  | _ => true

def ReqKind.writes : ReqKind → Bool
  | .read | .asked _ _ => false
  | .held w => w
  | _ => true

/-- A request that no home serves by itself: an access of an engine's unit of work, or a read that its asker takes up. -/
def Req.isHeld (r : Req) : Bool :=
  match r.kind with
  | .held _ | .asked _ _ => true
  | _ => false

/-- The package's clock is its domain's: it is the clock master, or has been stepped to the master's count (R468). -/
def Sys.inStep (y : Sys) : Bool := y.links.synced || y.links.master == y.ctl.packageId

/-- The location lies outside the package (R24, R157). -/
def offPackage (key : Nat) : Bool := decide (key < 2 ^ 50) && keyKind key != 0

/-- The 64-byte lines of an asker's reads outside the package (line, virtual address), which no unit of work holds: the requests go out
together and are answered when the asker tries again, each in its time or failed (R156, R163; log 99). A line whose path is down is not
asked for. -/
def Sys.asks (y : Sys) (a : Asker) (o : Origin) (ctx : Nat) (l : List (Nat × Nat)) : Except Sys (Sys × List (Nat × Reason)) :=
  let away := l.filter (fun x => offPackage x.1 && (y.accessFails x.1 64 false).isNone)
  let mine := y.reqs.filter (fun r => r.askedBy (· == a))
  let z := y.unasked (· == a)
  if away.isEmpty then .ok (z, [])
  else if away.all (fun x => mine.any (fun r => r.key == x.1)) then
    .ok (z, mine.filterMap (fun r => match r.kind with
      | .asked _ (some why) => some (r.key, why)
      | _ => none))
  else if away.any (fun x => keyKind x.1 == 3) && !y.inStep then .error z
  else
    let reqs : List Req := away.zipIdx.map (fun x =>
      { id := y.nextId + x.2, op := 0, origin := o, tick := y.time.now, key := x.1.1, size := 64, kind := .asked a none, lanes := [],
        va := x.1.2, ctx, bounced := false, arrived := false, left := y.time.now })
    .error { z with reqs := z.reqs ++ reqs, nextId := y.nextId + away.length }

/-- The host is being asked for a sector. -/
def Sys.snooped (y : Sys) (sector : Nat) : Bool := y.snooping.any (fun q => q.sector == sector)

/-- The sector must be recalled from the host before a device write: the host has not given it back. -/
def Sys.recalling (y : Sys) (key n : Nat) : Bool :=
  (sectorsOf key n).any (fun t => y.hostHeld.contains t || y.snooped t)

/-- A read that its home has accepted still waits there: no write to its location comes between (R89, log 101). `op` is the operation that
would write. -/
def Sys.readWaits (y : Sys) (key n op : Nat) : Bool :=
  y.reqs.any (fun r => r.arrived && r.kind.reads && !r.isHeld && r.op != op && overlaps r.key r.size key n) ||
    y.reading.any (fun q => q.who != .op op && overlaps q.key q.size key n)

/-- The host is asked for sectors back, each once. `own`: for a write of the control die. The bits stay until it answers (R464). -/
def Sys.snoop (y : Sys) (l : List Nat) (own : Bool) : Sys :=
  { y with snooping := y.snooping ++ (l.filter (fun t => !y.snooped t)).map (fun t => { sector := t, tick := y.time.now, own }) }

/-- A store touches n bytes from `key` on. -/
def Store.touches (t : Store) (key n : Nat) : Bool :=
  match t with
  | .bytes k bs => overlaps k bs.length key n
  | .clear k m => overlaps k m key n

/-- A change by which the control die writes memory takes place once the host has given back the sectors that it writes, and no read
waits at their homes (R87, R89, R464); what it would write to a sector whose snoop has timed out is not performed. -/
def recallFirst (s : State) (u : Upd) : Upd :=
  let y := s.sys
  let hits := fun (key n : Nat) => u.stores.any (fun t => t.touches key n)
  let held := y.hostHeld.filter (fun t => hits t 64 && !y.snooped t && !y.late.contains t)
  if !held.isEmpty then .of (y.snoop held true)
  else if y.snooping.any (fun q => hits q.sector 64) then .of y
  else if y.reqs.any (fun r => r.arrived && r.kind.reads && !r.isHeld && hits r.key r.size) then .of y
  else if y.reading.any (fun r => r.who != .control && hits r.key r.size) then .of y
  else if y.late.isEmpty then u
  else { sys := { u.sys with late := u.sys.late.filter (fun t => !hits t 64) },
         stores := u.stores.filter (fun t => !y.late.any (fun k => t.touches k 64)) }

/-! ### Writes of the control die -/

/-- A write of the control die for a command, which is complete only once the write is visible (R126), or for none (0): performed at its
home at once and stamped by the host port (R96). A location whose path or region does not serve takes no write (R158, R163). -/
def commandPut (op key : Nat) (bs : List Byte) (s : State) : Upd :=
  if (s.sys.accessFails key bs.length false).isSome then .of s.sys
  else { sys := (s.sys.fillFor key bs.length true 0 0).performed .host s.sys.time.now key bs.length op, stores := [.bytes key bs] }

def hostPut (key : Nat) (bs : List Byte) (s : State) : Upd := commandPut 0 key bs s

/-- A 64 KiB frame is zeroed at its home, for a command or for none (0). -/
def zeroFrame (op frame : Nat) (s : State) : Upd :=
  if (s.sys.accessFails (mainKey 0 frame) 65536 false).isSome then .of s.sys
  else { sys := s.sys.performed .host s.sys.time.now (mainKey 0 frame) 65536 op, stores := [.clear (mainKey 0 frame) 65536] }

end Sys2Proof.Machine
end

