-- ==== Sys2Proof/Machine/Translate.lean ====
section
/-! DEFINITION. Translation: table entries, walks, TLBs and the miss table, translation sets and their outcomes,
fault records, tickets, the firewall (R18 to R44, R53 to R55). -/

namespace Sys2Proof.Machine

/-! ### Table entries (R20 to R25) -/

def pteL (e : Word) : Bool := e.getLsbD 63
def pteX (e : Word) : Bool := e.getLsbD 48
def pteFrame (e : Word) : Nat := bits e 47 16 * 2 ^ 16
def pteShape (e : Word) : Nat := bits e 15 10
def pteMap (e : Word) : Nat := bits e 9 8
def pteKind (e : Word) : Nat := bits e 7 6
def pteSparse (e : Word) : Nat := bits e 5 4
def pteScope (e : Word) : Nat := bits e 3 2
def pteW (e : Word) : Bool := e.getLsbD 1
def pteV (e : Word) : Bool := e.getLsbD 0
def ptrNext (e : Word) : Nat := bits e 47 13 * 2 ^ 13

/-- The number of address bits below an entry of a level (R19). -/
def levelBits (l : Nat) : Nat := 16 + 10 * l

/-- The index into the table of a level (R19). -/
def levelIndex (l va : Nat) : Nat := va / 2 ^ levelBits l % 1024

/-- A present entry is malformed (R25). DESIGN CHOICE (log 96): R25 does not list a leaf with MAP = 00 and SHAPE not 0; it is not
malformed, and its SHAPE is not read. -/
def malformedEntry (y : Sys) (l : Nat) (e : Word) : Bool :=
  if pteL e then
    l == 3 || bits e 62 49 != 0 ||
    (pteSparse e == 0 && pteFrame e % 2 ^ levelBits l != 0) ||
    pteSparse e == 3 || pteMap e ≥ 2 ||
    (pteMap e == 1 && !(y.ctl.shapes.toList.getD (pteShape e) 0).getLsbD 15) ||
    (pteSparse e == 0 && pteKind e == 0 && pteFrame e ≥ kind00End) ||
    (pteKind e == 1 && pteScope e < 2) || (pteKind e ≥ 2 && pteScope e != 3)
  else l == 0 || bits e 62 48 != 0 || bits e 12 1 != 0 || ptrNext e ≥ kind00End

/-! ### The firewall (R53, R54) -/

/-- A requester class: the bit of a region's class mask. -/
inductive FwClass where
  | core | engine | hostFn | ingress
  deriving DecidableEq, Repr

def FwClass.bit : FwClass → Nat
  | .core => 0 | .engine => 1 | .hostFn => 2 | .ingress => 3

/-- The region lets a class do an access of n bytes (R53). -/
def FwRegion.lets (r : FwRegion) (c : FwClass) (key n : Nat) (write : Bool) : Bool :=
  r.kind == keyKind key && decide (r.base * 65536 ≤ keyPA key) && decide (keyPA key + n ≤ r.limit * 65536) &&
    (if write then r.write else r.read) && r.classes.getLsbD c.bit

/-- Some region permits the access. `open_` is the requester's mask of regions. DESIGN CHOICE (log 94): a limit is exclusive, and one
region covers the whole access. -/
def Sys.permits (y : Sys) (c : FwClass) (open_ : Word) (key n : Nat) (write : Bool) : Bool :=
  (List.range 64).any (fun i => open_.getLsbD i && (y.fwRegions.toList.getD i closedRegion).lets c key n write)

/-- The Regions field of a context (R40). -/
def Sys.openRegions (y : Sys) (ctx : Nat) : Word := (y.context ctx).desc[5]

/-- The context's regions permit an access that the control die makes for it: a table walk, or an access to a frame, a pool, a ticket, a
ring or a save area. DESIGN CHOICE (log 97): R54 names no class for these; they are checked as accesses of core contexts. -/
def Sys.opens (y : Sys) (ctx key n : Nat) (write : Bool) : Bool := y.permits .core (y.openRegions ctx) key n write

/-! ### Walks (R19 to R25, R31) -/

/-- A walk from the table at `table` of level `l`; the fuel is l + 1. Its accesses are checked as `Sys.opens` says, whoever asked for
it (log 97). -/
def walkFrom (s : State) (ctx va table : Nat) : Nat → Walk
  | 0 => .absent 0 0
  | l + 1 =>
    let key := mainKey 0 (table + 8 * levelIndex l va)
    if !s.sys.online (keyPA key) then .failed .withdrawn
    else if !s.sys.opens ctx key 8 false then .firewall (keyPA key)
    else if s.sys.poisoned key 8 then .failed .poison
    else
      let e := s.mem.word key
      if !pteV e then .absent l e
      else if malformedEntry s.sys l e then .malformed l e
      else if pteL e then .leaf l e
      else walkFrom s ctx va (ptrNext e) l

/-- A whole walk. -/
def walk (s : State) (ctx va : Nat) : Walk :=
  let root := (s.sys.context ctx).desc[0]
  if !root.getLsbD 0 then .absent 3 0
  else if ptrNext root ≥ kind00End then .malformed 3 root
  else walkFrom s ctx va (ptrNext root) 4

/-- The key of the entry at which the walk of a page ends at L0, when it reaches L0. -/
def leafKeyFrom (s : State) (va table : Nat) : Nat → Option Nat
  | 0 => none
  | l + 1 =>
    let key := mainKey 0 (table + 8 * levelIndex l va)
    let e := s.mem.word key
    if l = 0 then some key
    else if pteV e && !pteL e then leafKeyFrom s va (ptrNext e) l
    else none

def leafKey (s : State) (ctx va : Nat) : Option Nat :=
  leafKeyFrom s va (ptrNext (s.sys.context ctx).desc[0]) 4

/-- The locations of the entries that a walk reads, from the table at `table` of level l on; the fuel is l + 1. -/
def walkReadsFrom (s : State) (ctx va table : Nat) : Nat → List Nat
  | 0 => []
  | l + 1 =>
    let key := mainKey 0 (table + 8 * levelIndex l va)
    let e := s.mem.word key
    if !s.sys.online (keyPA key) || !s.sys.opens ctx key 8 false then []
    else if s.sys.poisoned key 8 || !pteV e || malformedEntry s.sys l e || pteL e then [key]
    else key :: walkReadsFrom s ctx va (ptrNext e) l

/-- The locations of the entries that a whole walk reads. -/
def walkReads (s : State) (ctx va : Nat) : List Nat :=
  let root := (s.sys.context ctx).desc[0]
  if !root.getLsbD 0 || ptrNext root ≥ kind00End then [] else walkReadsFrom s ctx va (ptrNext root) 4

/-- The entries a walk reads have no write waiting for its visibility. -/
def walkQuiet (s : State) (ctx va : Nat) : Bool := (walkReads s ctx va).all (fun k => s.sys.quiet k 8)

/-- The homes hold the reads of a walk by `who` (R89). -/
def walkHold (s : State) (who : ReadBy) (ctx va : Nat) : Sys := s.sys.holdRead who ((walkReads s ctx va).map (fun k => (k, 8)))

/-- The home caches after a walk, whose requests carry its context and page (R69, R149). -/
def walkFills (s : State) (ctx va : Nat) (y : Sys) : Sys :=
  (walkReads s ctx va).foldl (fun z key => z.fillFor key 8 false ctx (va / 65536)) y

/-- The physical address of a virtual address through a leaf (R19). -/
def leafPA (l : Nat) (e : Word) (va : Nat) : Nat :=
  pteFrame e / 2 ^ levelBits l * 2 ^ levelBits l + va % 2 ^ levelBits l

/-! ### Placement within a frame (R144 to R148) -/

/-- The code of a leaf's mapping: 0 hashed, 1 + SHAPE otherwise. -/
def pteTag (e : Word) : Nat := if pteMap e = 0 then 0 else 1 + pteShape e

/-! ### TLBs and the miss table (R29, R30) -/

/-- The tag of a context's TLB entries: the CTX field of its root (R20). -/
def Sys.ctxTag (y : Sys) (ctx : Nat) : Nat := bits (y.context ctx).desc[0] 12 1

/-- The entry holds the leaf of an address under a tag. -/
def TlbEntry.covers (t : TlbEntry) (tag va : Nat) : Bool :=
  t.ctx == tag && t.base == va / 2 ^ levelBits t.level

/-- A cached leaf for the page, in the core TLB or the die TLB. -/
def Sys.cachedLeaf (y : Sys) (core : Option Nat) (die ctx va : Nat) : Option TlbEntry :=
  let tag := y.ctxTag ctx
  match y.tlb.find? (fun t => (match core with | some c => t.place == .core c | none => false) && t.covers tag va) with
  | some t => some t
  | none => y.tlb.find? (fun t => t.place == .die die && t.covers tag va)

/-- How many entries compete with an entry for room: those of a core TLB, which is fully associative, or of one 8-way set of a
die TLB (R29, log 11). -/
def TlbEntry.rivals (t : TlbEntry) (l : List TlbEntry) : Nat × List TlbEntry :=
  match t.place with
  | .core _ => (256, l.filter (fun u => u.place == t.place))
  | .die _ => (8, l.filter (fun u => u.place == t.place && u.base % 1024 == t.base % 1024))

/-- Adds a leaf to a TLB; where there is no room, the oldest entry it competes with is dropped (R29, log 11). -/
def Sys.fillTlb (y : Sys) (t : TlbEntry) : Sys :=
  let r := t.rivals y.tlb
  if r.2.contains t then y
  else if r.2.length < r.1 then { y with tlb := y.tlb ++ [t] }
  else match r.2 with
    | o :: _ => { y with tlb := (y.tlb.filter (fun u => u != o)) ++ [t] }
    | [] => { y with tlb := y.tlb ++ [t] }

/-- The leaf of a page for the set of `a`: the one that a walk has brought to it or that it keeps, else a cached one, or one that a walk has
just brought to another set that is still being built (R29, R35, R307). -/
def Sys.leafAt (y : Sys) (a : Asker) (core : Option Nat) (die ctx vpage : Nat) : Option (Nat × Word) :=
  let of := fun (who : Asker → Bool) => y.found.findSome? (fun f =>
    if who f.asker && f.die == die && f.ctx == ctx && f.vpage == vpage then
      (match f.walk with | .leaf l e => some (l, e) | _ => none) else none)
  match of (· == a) with
  | some x => some x
  | none => match y.cachedLeaf core die ctx (vpage * 65536) with
    | some t => some (t.level, t.pte)
    | none => of (· != a)

/-- What the set of `a` knows of a page: its leaf, or how the walk ended that the set asked for. Another set's walk that met no
leaf tells it nothing (R21, R33). -/
def Sys.known (y : Sys) (a : Asker) (core : Option Nat) (die ctx vpage : Nat) : Option Walk :=
  match y.leafAt a core die ctx vpage with
  | some x => some (.leaf x.1 x.2)
  | none => (y.found.find? (fun f => f.asker == a && f.die == die && f.ctx == ctx && f.vpage == vpage)).map (·.walk)

/-- The waiting requests of a die's miss table, and its entries (R30). -/
def Sys.missRoom (y : Sys) (die : Nat) : Bool × Bool :=
  let mine := y.misses.filter (fun m => m.die == die)
  (decide ((mine.map (fun m => m.askers.length)).foldl (· + ·) 0 < 8192), decide (mine.length < 512))

/-- Enters a page in the die's miss table, or joins its entry; a full table leaves the requester waiting (R30). -/
def Sys.miss (y : Sys) (a : Asker) (die ctx vpage : Nat) : Sys :=
  let here := fun m : Miss => m.die == die && m.ctx == ctx && m.vpage == vpage
  let room := y.missRoom die
  if !room.1 || y.misses.any (fun m => here m && m.askers.contains a) then y
  else if y.misses.any here then
    { y with misses := y.misses.map (fun m => if here m then { m with askers := m.askers ++ [a] } else m) }
  else if room.2 then { y with misses := y.misses ++ [{ die, ctx, vpage, askers := [a] }] }
  else y

/-- A set is over: what its walks brought is dropped. -/
def Sys.forget (y : Sys) (a : Asker) : Sys := { y with found := y.found.filter (fun f => f.asker != a) }

/-- Copies the die TLB's leaf of a page to the core TLB. -/
def Sys.touchCore (y : Sys) (core die ctx vpage : Nat) : Sys :=
  match y.cachedLeaf (some core) die ctx (vpage * 65536) with
  | some t => if t.place = .core core then y else y.fillTlb { t with place := .core core }
  | none => y

/-! ### Translation sets (R35, R36) -/

/-- How a page is used. -/
inductive Access3 where
  | read | write | fetch | engineWrite
  deriving DecidableEq, Repr

def Access3.writes : Access3 → Bool
  | .write | .engineWrite => true
  | _ => false

def Access3.code : Access3 → Nat
  | .read => 0 | .write => 1 | .fetch => 2 | .engineWrite => 3

/-- One page that an access touches: the lane (or 32 for a uniform access, a fetch or an engine), the virtual address in the
page, the bytes touched, and how. -/
structure Touch where
  lane : Nat
  va : Nat
  len : Nat
  acc : Access3
  deriving DecidableEq, Repr

def Touch.page (t : Touch) : Nat := t.va / 65536

/-- What one page raises; a refusal with the location and the kind of the access refused. -/
inductive PageFate where
  | fine
  | refuse (r : Reason) (key : Nat) (write : Bool)
  | broken (r : Reason)
  | fault (level : Nat) (np : Bool) (sparse : Nat)
  deriving DecidableEq, Repr

/-- The fate of a touch under what is known of its page (R25, R26, R27, R54, R159). -/
def Sys.fate (y : Sys) (c : FwClass) (ctx : Nat) (t : Touch) (w : Walk) : PageFate :=
  match w with
  | .absent l _ => .fault l true 0
  | .malformed _ _ => .refuse .malformed 0 false
  | .firewall pa => .refuse .firewall (mainKey 0 pa) false
  | .failed r => .broken r
  | .leaf l e =>
    let key := y.homeKey (pteKind e) (leafPA l e t.va)
    if t.acc.writes && !pteW e then .refuse .write key true
    else if t.acc == .fetch && (!pteX e || pteKind e ≥ 2) then .refuse .fetch key false
    else if pteSparse e = 0 then
      if y.permits c (y.openRegions ctx) key t.len t.acc.writes then .fine else .refuse .firewall key t.acc.writes
    else if pteSparse e = 2 && t.acc == .read then .fine
    else .fault l false (pteSparse e)

/-- The outcome of a complete set. -/
inductive SetFate where
  | proceed
  | refuse (r : Reason) (lanes : LaneMask) (va : Nat) (keys : List (Nat × Bool))
  | broken (r : Reason) (lanes : LaneMask) (va : Nat)
  | fault (pages : List (Nat × Access3 × Nat × Bool × Nat)) (lanes : LaneMask) (va : Nat)
  deriving DecidableEq, Repr

def touchLanes (l : List (Touch × PageFate)) : LaneMask := 
  l.foldl (fun m p => m ||| (if p.1.lane < 32 then 1#32 <<< p.1.lane else allLanes)) 0

/-- The address of the lowest lane of some touches, or the lowest address for an engine. -/
def touchVA (engine : Bool) (l : List (Touch × PageFate)) : Nat :=
  match l with
  | [] => 0
  | p :: r =>
    (r.foldl (fun a q =>
      if (if engine then q.1.va < a.1.va else q.1.lane < a.1.lane) then q else a) p).1.va

/-- The reasons in the order of R36. -/
def reasonOrder : List Reason := [.malformed, .write, .fetch, .firewall]

/-- The outcome of a set of touches whose fates are known (R36). -/
def setFate (engine : Bool) (l : List (Touch × PageFate)) : SetFate :=
  let withReason := fun r => l.filter (fun p => match p.2 with | .refuse q _ _ => q == r | _ => false)
  match reasonOrder.find? (fun r => !(withReason r).isEmpty) with
  | some r =>
    let hit := withReason r
    .refuse r (touchLanes hit) (touchVA engine hit)
      (hit.filterMap (fun p => match p.2 with | .refuse .firewall k wr => some (k, wr) | _ => none))
  | none =>
    match l.filter (fun p => match p.2 with | .broken _ => true | _ => false) with
    | (t, .broken r) :: rest => .broken r (touchLanes ((t, .broken r) :: rest)) (touchVA engine ((t, .broken r) :: rest))
    | _ =>
      match l.filter (fun p => match p.2 with | .fault _ _ _ => true | _ => false) with
      | [] => .proceed
      | hit =>
        let pages := hit.filterMap (fun p => match p.2 with
          | .fault lv np sp => some (p.1.page, p.1.acc, lv, np, sp)
          | _ => none)
        let low := pages.foldl (fun m p => Nat.min m p.1) ((pages.map (·.1)).headD 0)
        let atLow := hit.filter (fun p => p.1.page == low)
        .fault pages (touchLanes atLow) (touchVA engine atLow)

/-- The pages of a set of which nothing is known yet. -/
def Sys.unknown (y : Sys) (a : Asker) (core : Option Nat) (die ctx : Nat) (l : List Touch) : List Nat :=
  (((l.map (·.page)).eraseDups).filter (fun p => (y.known a core die ctx p).isNone))

/-- The fates of a set whose pages are all known. -/
def Sys.fates (y : Sys) (a : Asker) (c : FwClass) (core : Option Nat) (die ctx : Nat) (l : List Touch) :
    List (Touch × PageFate) :=
  l.map (fun t => (t, match y.known a core die ctx t.page with
    | some w => y.fate c ctx t w
    | none => .fault 0 true 0))

/-- The leaf through which an address goes, once its set has been allowed to proceed. -/
def Sys.leafOf (y : Sys) (a : Asker) (core : Option Nat) (die ctx va : Nat) : Option (Nat × Word) :=
  y.leafAt a core die ctx (va / 65536)

/-- The key of a virtual address before placement, and its leaf's mapping; `none` for a reserve leaf, which has no memory
(R27). -/
def Sys.vaBase (y : Sys) (a : Asker) (core : Option Nat) (die ctx va : Nat) : Option (Nat × Nat) :=
  match y.leafOf a core die ctx va with
  | some (l, e) => if pteSparse e = 0 then some (y.homeKey (pteKind e) (leafPA l e va), pteTag e) else none
  | none => none

/-- The key of a virtual address through its leaf. -/
def Sys.vaKey (y : Sys) (a : Asker) (core : Option Nat) (die ctx va : Nat) : Option Nat :=
  (y.vaBase a core die ctx va).map (fun b => y.placed b.2 b.1)

/-! ### Freezes (R55) -/

/-- Freezes a context for an access that no region permits: a freeze-log entry and event TYPE 6. Of several refused accesses of one
set the entry records the first in lane or range order (DESIGN CHOICE, log 98). -/
def freezeContext (s : State) (o : Origin) (ctx : Nat) (hit : Nat × Bool) : Upd :=
  let y := s.sys
  let key := hit.1
  let write := hit.2
  let f : Freeze := { held := .context ctx, requester := o, ctx, pa := keyPA key, write, tick := y.clk, released := false }
  let y1 := (y.setContext ctx { y.context ctx with frozen := true })
  Upd.andThen s (.of { y1 with freezes := y1.freezes ++ [f] })
    (fun t => raiseEvent t 6 ctx (BitVec.ofNat 64 y.freezes.length) 0)

/-- What stands against accesses that the control die makes for a context: a write that is not visible yet, for which the home holds the
read, a refusal of the firewall,
with the access refused, or a failure at a home (R54, R89, R155, R158). -/
inductive CtlFate where
  | go (y : Sys)
  | wait (y : Sys)
  | frozen (hit : Nat × Bool)
  | broken (r : Reason)
  deriving DecidableEq, Repr

/-- The accesses are (location, length, whether it writes). Its reads go through the home caches, with the context and page 0 as their request
tag (R149, log 102). -/
def Sys.ctlFate (y : Sys) (ctx : Nat) (l : List (Nat × Nat × Bool)) : CtlFate :=
  match l.find? (fun x => !y.opens ctx x.1 x.2.1 x.2.2) with
  | some x => .frozen (x.1, x.2.2)
  | none =>
    let reads := (l.filter (fun x => !x.2.2)).map (fun x => (x.1, x.2.1))
    if reads.any (fun x => !y.quiet x.1 x.2) then .wait (y.holdRead .control reads)
    else match l.findSome? (fun x => y.accessFails x.1 x.2.1 (!x.2.2)) with
      | some r => .broken r
      | none => .go (reads.foldl (fun z x => z.fillFor x.1 x.2 false ctx 0) y)

/-! ### Tickets and fault records (R41, R42, R44) -/

/-- Who faults, as word 5 of the record names it. -/
structure Requester where
  kind : Nat
  slot : Nat
  part : Nat
  unit : Nat
  pc : Word
  deriving DecidableEq, Repr

/-- The physical address of a ticket. -/
def Sys.ticketPA (y : Sys) (ctx no : Nat) : Nat := ((y.context ctx).desc[4]).toNat + 128 * no

/-- The ticket armed for a page. -/
def Sys.armed? (y : Sys) (ctx vpage : Nat) : Option Ticket := (y.context ctx).tickets.find? (fun t => t.vpage == vpage)

/-- The lowest-numbered ticket of the area that is not armed (log 12). -/
def Sys.freeTicket? (y : Sys) (ctx : Nat) : Option Nat :=
  (List.range 4096).find? (fun n => !(y.context ctx).tickets.any (fun t => t.no == n))

/-- Arms a ticket for a page (R44): word 0 with P = 1 and count 1, words 8 to 15 the resume record. The step that arms it recalls its sectors
from the host first (`recallFirst`). -/
def armTicket (s : State) (ctx vpage no : Nat) : Upd :=
  let c := s.sys.context ctx
  let key := mainKey 0 (s.sys.ticketPA ctx no)
  let y := s.sys.setContext ctx { c with tickets := c.tickets ++ [{ no, vpage }] }
  Upd.andThen s (.of y) (fun s1 =>
    Upd.andThen s1 (hostPut key (leBytes 8 0x8000000000000001) s1) (fun s2 =>
      hostPut (key + 64) (wordBytes ((List.range 8).map (Config.resumeWord ctx no))) s2))

/-- The fault record of a page (R41). -/
def faultRecord (y : Sys) (ctx vpage level : Nat) (np : Bool) (sparse acc no : Nat) (r : Requester) : List Word :=
  [ BitVec.ofNat 64 (bits (y.context ctx).desc[2] 55 3 * 8), 0, 0,
    BitVec.ofNat 64 (vpage * 65536 + level * 4096 + (if np then 256 else 0) + sparse * 16 + acc),
    BitVec.ofNat 64 (y.ticketPA ctx no),
    BitVec.ofNat 64 (r.kind * 65536 + r.slot * 2048 + r.part * 256 + r.unit),
    r.pc, BitVec.ofNat 64 ctx ]

/-- The bin of an installed table with a key (R171, R176). -/
def Bins.find (b : Bins) (key : Nat) : Option Nat :=
  (List.range 64).find? (fun i => match b.bins[i]? with
    | some x => x.cfg[0].getLsbD 0 && bits x.cfg[0] 55 3 == key
    | none => false)

def Bin.ringSize (b : Bin) : Nat := 2 ^ bits b.cfg[1] 4 0

/-- A bin has room for one more record (R175, R428). -/
def Bin.room (b : Bin) : Bool :=
  (b.ring.isEmpty && b.held.isEmpty && b.hwq.length + b.reserved < 32) ||
    b.ring.length + b.held.length + b.reserved < b.ringSize

/-- A bin accepts a record: into the queue while the ring is empty and the queue not full, else held for the
ring's tail (R428). -/
def Bin.accept (b : Bin) (words : List Word) (addr : Option Word) (tick : Nat) : Bin :=
  let r : BinRec := { words, no := b.accepted % 2 ^ 32, tick, tdie := bits (words.headD 0) 62 60, addr }
  if b.ring.isEmpty && b.held.isEmpty && b.hwq.length < 32 then
    { b with hwq := b.hwq ++ [r], accepted := b.accepted + 1 }
  else { b with held := b.held ++ [r], accepted := b.accepted + 1 }

/-- The head is eligible for dispatch (R427): THRESH records, or its timer has run out. -/
def Bin.eligible (b : Bin) : Bool :=
  !b.hwq.isEmpty && (b.expired || decide (bits b.cfg[2] 30 25 ≤ b.hwq.length + b.ring.length + b.held.length))

/-- The cycle from which an eligible head has waited (R429). -/
def Bin.noted (b : Bin) (cycle : Nat) : Bin :=
  if b.eligible then { b with since := some (b.since.getD cycle) } else { b with since := none, raised := 0 }

def Sys.setBin (y : Sys) (ctx die bin : Nat) (f : Bin → Bin) : Sys :=
  match y.bins? ctx die with
  | some b =>
    match b.bins[bin]? with
    | some x => y.setBins { b with bins := b.bins.setIfInBounds bin ((f x).noted y.time.cycle) }
    | none => y
  | none => y

def Sys.bin? (y : Sys) (ctx die bin : Nat) : Option Bin := (y.bins? ctx die).bind (fun b => b.bins[bin]?)

/-- Posts a record, which stands at `addr` in memory or nowhere, to a bin: accepted, or waiting for room (R175). -/
def Sys.post (y : Sys) (ctx die bin : Nat) (record : List Word) (addr : Option Word) (op : Option Nat) : Sys :=
  match y.bin? ctx die bin with
  | some b =>
    if b.room && !y.posts.any (fun p => p.ctx == ctx && p.die == die && p.bin == bin) then
      (y.setBin ctx die bin (fun x => x.accept record addr y.time.now)).mark ctx
    else { y with posts := y.posts ++ [{ ctx, die, bin, record, addr, op }] }
  | none => y

/-- Where fault records of a context go from a die (R42). -/
inductive FaultDest where
  | bin (b : Nat)
  | ring
  | none
  deriving DecidableEq, Repr

def Sys.faultDest (y : Sys) (ctx die : Nat) : FaultDest :=
  let c := y.context ctx
  let key := bits c.desc[2] 55 3
  let inBin := if key = 0 then Option.none else (y.bins? ctx die).bind (fun b => b.find key)
  match inBin with
  | some b => .bin b
  | Option.none => if c.desc[3] = 0 then .none else .ring

/-- A record is due, for a faulting page whose ticket is not armed, and has nowhere to go (R42, R44). -/
def Sys.noDest (y : Sys) (ctx die : Nat) (pages : List (Nat × Access3 × Nat × Bool × Nat)) : Bool :=
  y.faultDest ctx die = .none && pages.any (fun p => (y.armed? ctx p.1).isNone)

/-- Posts the records of the faulting pages whose tickets are not armed, arming a ticket for each (R36, R44). DESIGN CHOICE (log 91):
where all 4,096 tickets of the area are armed, no record is posted for a further page, and its requester waits with no ticket. -/
def postFaults (s : State) (ctx die : Nat) (r : Requester) (pages : List (Nat × Access3 × Nat × Bool × Nat)) : Upd :=
  Upd.each s (fun p t =>
    match t.sys.armed? ctx p.1, t.sys.freeTicket? ctx with
    | none, some no =>
      if !t.sys.opens ctx (mainKey 0 (t.sys.ticketPA ctx no)) 128 true then
        freezeContext t (.proc die) ctx (mainKey 0 (t.sys.ticketPA ctx no), true)
      else Upd.andThen t (armTicket t ctx p.1 no) (fun t1 =>
        let record := faultRecord t1.sys ctx p.1 p.2.2.1 p.2.2.2.1 p.2.2.2.2 p.2.1.code no r
        match t1.sys.faultDest ctx die with
        | .bin b => .of (t1.sys.post ctx die b record none none)
        | .ring => .of { t1.sys with heldFaults := t1.sys.heldFaults ++ [{ ctx, die, record }] }
        | .none => .of t1.sys)
    | _, _ => .of t.sys) pages

/-- The lowest of some pages. -/
def lowestPage (pages : List (Nat × Access3 × Nat × Bool × Nat)) : Nat :=
  pages.foldl (fun m p => Nat.min m p.1) ((pages.map (·.1)).headD 0)

/-! ### The set of a warp's instruction -/

/-- Whose translation set the issuing word builds. -/
def Env.asker (e : Env) : Asker := .sub e.w.id e.o

/-- Replayable faults of a set (R36, R42): the sub-warp parks, or takes PAGE when the context has nowhere for the records.
`s` is the state in which the set is over, `pc` the PC that the records name. -/
def Env.faulted (e : Env) (raise : State → TrapInfo → Upd) (s : State) (ps : List (Nat × Access3 × Nat × Bool × Nat))
    (lanes : LaneMask) (va : Nat) (pc : Word) : Upd :=
  let core := e.k.core
  let die := dieOf core
  let dest := e.y.faultDest e.k.ctx die
  if e.y.noDest e.k.ctx die ps then raise s { trapOf .page (BitVec.ofNat 64 va) with tlanes := lanes }
  else
    let parked := { e.b with wait := .ticket (lowestPage ps) (dest == .ring), under := .none, since := e.y.time.now, set := [] }
    recallFirst e.s (postFaults { s with sys := s.sys.setWarp (e.w.setSub e.o parked) } e.k.ctx die
      { kind := 0, slot := e.w.slot, part := e.w.part, unit := core, pc } ps)

/-- The sub-warp while pages of its word are being translated: the wait that a miss of the word's code page hides comes back (R307). -/
def Sub.missing (b : Sub) (pages : List Nat) : Sub :=
  { b with wait := .translating pages, under := match b.wait with
      | .translating _ => b.under
      | r => r }

/-- The word has its set still, from before it began to wait behind it: nothing of it is judged anew (R289, R307). -/
def Env.keepsSet (e : Env) (touches : List Touch) : Bool :=
  !e.b.set.isEmpty && touches.all (fun t => t.acc != .fetch && e.b.set.any (fun l => l.vpage == t.page))

/-- The set's outcome for the sub-warp that builds it; of several refused addresses the freeze log takes the first touch's (DESIGN
CHOICE, log 98): `ok` when it proceeds, with the core TLB filled (R35, R36).
`raise` takes a trap of the sub-warp. -/
def Env.translateWith (e : Env) (raise : State → TrapInfo → Upd) (touches : List Touch) : Except Hold Sys :=
  let core := e.k.core
  let die := dieOf core
  let ctx := e.k.ctx
  let pages := (touches.map (·.page)).eraseDups
  if e.keepsSet touches then .ok e.y
  else match e.y.unknown e.asker (some core) die ctx touches with
  | [] =>
    let s1 : State := { e.s with sys := e.y.forget e.asker }
    match setFate (touches.all (fun t => t.lane == 32)) (e.y.fates e.asker .core (some core) die ctx touches) with
    | .proceed => .ok (pages.foldl (fun y p => y.touchCore core die ctx p) e.y)
    | .refuse r lanes va keys =>
      let trapped := raise s1 { trapOf .protection (BitVec.ofNat 64 va) with tlanes := lanes, reason := r }
      if r = .firewall then
        .error (.change (Upd.andThen s1 trapped (fun s2 =>
          freezeContext s2 (.part core e.w.part) ctx (keys.headD (0, false)))))
      else .error (.change trapped)
    | .broken r lanes va =>
      .error (.change (raise s1 { trapOf .memError (BitVec.ofNat 64 va) with tlanes := lanes, reason := r }))
    | .fault ps lanes va => .error (.change (e.faulted raise s1 ps lanes va e.b.pc))
  | missing =>
    let y1 := missing.foldl (fun y p => y.miss e.asker die ctx p) e.y
    .error (.change (.of (y1.setWarp (e.w.setSub e.o (e.b.missing pages)))))

/-- The set of an instruction, whose traps are precise. -/
def Env.translate (e : Env) (touches : List Touch) : Except Hold Sys :=
  e.translateWith (fun s t => takeTrap s e.w e.o e.b t) touches

end Sys2Proof.Machine
end

