-- ==== Sys2Proof/Machine/LongOp.lean ====
section
/-! DEFINITION. Long-latency operations and engine commands: issue, the registers they leave pending, completion and
errors (R189, R214, R215, R398, R443); witness operands (R102, R110). -/

namespace Sys2Proof.Machine

/-! ### Witness operands -/

/-- A witness that an operation consumes at issue must be well formed and not too far ahead (R102). -/
def Env.witnessOk (e : Env) (w : Word) : Except Hold Unit :=
  if witBad e.y.clk w then trapping .witness w else .ok ()

/-- The sub-warp stalls at issue until the witness is satisfied for its warp (R110). -/
def Env.witnessIn (e : Env) (w : Word) : Except Hold Unit :=
  if witBad e.y.clk w then trapping .witness w
  else match e.y.satisfied (coreReader e.k.core) w with
    | .yes => .ok ()
    | .wait => .error (.wait (.witness w))
    | .bad => trapping .witness w

/-- An optional S register read as a witness; null when there is none. -/
def Env.optS (e : Env) (r : OptS) : Word :=
  match r with
  | some r => e.w.s r
  | none => 0

/-- The input witness of an FM form (R200). -/
def Env.witF (e : Env) (w : WitF) : Except Hold Unit :=
  match w with
  | .inp r | .both r => e.witnessIn (e.w.s r)
  | _ => .ok ()

/-- The warp after the returned witness is written, where the form names a register for it (R200). -/
def Warp.witOut (w : Warp) (f : WitF) (v : Word) : Warp :=
  match f with
  | .out r | .both r => w.setS r v
  | _ => w

/-! ### Register codes of results -/

/-- Lane i of V register r. -/
def codeV (r i : Nat) : Nat := r * 32 + i
/-- S register r. -/
def codeS (r : Nat) : Nat := 8192 + r
def codeHstat : Nat := 8320
def codeAccord : Nat := 8321
def codeAccordTag : Nat := 8322

/-- One register write. -/
def Warp.putCode (w : Warp) (c : Nat × Word) : Warp :=
  if c.1 < 8192 then
    let l := (w.v (c.1 / 32)).setIfInBounds (c.1 % 32) (c.2.setWidth 32)
    { w with vregs := w.vregs.setIfInBounds (c.1 / 32) l }
  else if c.1 < 8320 then w.setSn (c.1 - 8192) c.2
  else if c.1 = codeHstat then { w with hstat := c.2 }
  else if c.1 = codeAccord then { w with accord := c.2 }
  else { w with accordTag := c.2 }

/-- The register errors that are left once an operation's results are written (R85). -/
def Op.mends (p : Op) (l : List BadReg) : List BadReg :=
  l.filterMap (fun b => match b with
    | .v r m => BadReg.less r m (maskOf (fun i => p.results.any (fun c => c.1 == codeV r i)))
    | .s r => if p.results.any (fun c => c.1 == codeS r) then none else some b
    | .f r => if p.pendV.contains r then none else some b
    | .x _ => some b)

/-- The destinations of an operation: their shapes reset (R237), and its results written, which replaces words in error (R85). DESIGN
CHOICE (log 119): the shapes are reset also where the operation ends with no lane written, as an XRED that ends with MEMBERSHIP does. -/
def Warp.deliver (w : Warp) (p : Op) : Warp :=
  { p.results.foldl Warp.putCode (p.pendV.foldl Warp.unshape w) with bad := p.mends w.bad }

/-! ### Issue -/

/-- The flag the clause names for SETA, or for SETB (R214). -/
def Env.flagOf (e : Env) (second : Bool) : Option Nat :=
  match e.b.place with
  | .inside c =>
    let f := if second then c.h.setb else c.h.seta
    if f.toNat < 12 then some f.toNat else none
  | _ => none

/-- An operation as it stands at issue. -/
def Env.op (e : Env) (second : Bool) : Op where
  id := e.y.nextId
  instr := e.i
  warp := some e.w.id
  sub := e.b.id
  lanes := e.b.exec
  pc := e.b.pc
  ctx := e.k.ctx
  core := e.k.core
  part := e.w.part
  slot := e.w.slot
  index := e.w.index
  block := e.k.id
  flag := e.flagOf second
  tick := e.y.time.now
  wit := 0
  args := []
  phase := bits e.w.phase 5 0
  set := []
  pendV := []
  pendS := []
  results := []
  status := 0
  out := 0
  err := none
  stage := .queued
  pos := 0
  batch := none
  home := 0
  lost := []
  moved := []

/-- The operation's flag has no room for one more: issue stalls (R189). -/
def Env.flagFull (e : Env) (p : Op) : Bool :=
  match p.flag with
  | some k => ((e.w.flags[k]?.map (·.count)).getD 0) ≥ 63
  | none => false

/-- The warp with one more operation on a flag. -/
def Warp.countUp (w : Warp) (f : Option Nat) : Warp :=
  match f with
  | some k =>
    match w.flags[k]? with
    | some x => { w with flags := w.flags.setIfInBounds k { x with count := x.count + 1 } }
    | none => w
  | none => w

def Sys.addOp (y : Sys) (p : Op) : Sys := { y with ops := y.ops ++ [p], nextId := y.nextId + 1 }

/-- The word issues its operation: one more on its flag, its destinations pending. -/
def Env.send (e : Env) (y : Sys) (w : Warp) (p : Op) : Except Hold Upd :=
  if e.flagFull p then .error (.wait (.flagFull (p.flag.getD 0)))
  else .ok (e.finish (y.addOp p) (w.countUp p.flag))

/-! ### Completion -/

/-- The identity an operation carries (R443, R452). -/
def Op.who (y : Sys) (p : Op) : Who :=
  match y.block? p.block with
  | some k => { ctx := p.ctx, tskid := k.tskid, flat := k.flat, index := p.index, slot := p.slot, part := p.part, core := p.core }
  | none => { ctx := p.ctx, tskid := 0, flat := 0, index := p.index, slot := p.slot, part := p.part, core := p.core }

/-- A cause with the originating PC of its operation; a copy's cause that CPWAIT reports keeps the copy's (R320). -/
def TrapInfo.from_ (t : TrapInfo) (p : Op) : TrapInfo := if t.opc = 0 then { t with opc := p.pc } else t

/-- An imprecise cause sent to the issuing sub-warp, or an orphan record when the warp has exited (R443). -/
def sendImprecise (s : State) (p : Op) (t : TrapInfo) : Upd :=
  let t' := t.from_ p
  match p.warp.bind s.sys.warp? with
  | some w =>
    let m : Imprecise := { no := s.sys.nextId, who := p.who s.sys, warp := w.id, sub := p.sub,
                           lanes := ((w.sub? (some p.sub)).map (·.lset)).getD p.home, info := t', block := p.block, halts := false }
    .of { s.sys with imprecise := s.sys.imprecise ++ [m], nextId := s.sys.nextId + 1 }
  | none => logLost s (p.who s.sys) p.pc t'

/-- The error of a completing operation: into its flag, to the fault log when E is already set, or imprecise when it
counts on no flag (R189, R214). -/
def reportError (s : State) (p : Op) (t : TrapInfo) : Upd :=
  let t' := t.from_ p
  match p.warp.bind s.sys.warp?, p.flag with
  | some w, some k =>
    match w.flags[k]? with
    | some x =>
      if x.err.isNone then .of (s.sys.setWarp { w with flags := w.flags.setIfInBounds k { x with err := some t' } })
      else logLost s (p.who s.sys) p.pc t'
    | none => .of s.sys
  | _, _ => sendImprecise s p t

/-- The warp with one operation less on a flag. -/
def Warp.countDown (w : Warp) (f : Option Nat) : Warp :=
  match f with
  | some k =>
    match w.flags[k]? with
    | some x => { w with flags := w.flags.setIfInBounds k { x with count := x.count - 1 } }
    | none => w
  | none => w

/-- A warp's operation completes: results written, flag and pending registers released, error reported (R214, R215).
What an exited warp would have received is discarded (R398). -/
def finishOp (s : State) (p : Op) : Upd :=
  let y := (s.sys.dropOp p.id).mark p.ctx
  let y1 := match p.warp.bind y.warp? with
    | some w => y.setWarp ((w.deliver p).countDown p.flag)
    | none => y
  let s1 : State := { s with sys := y1 }
  match p.err with
  | some t => if t.cause = .impreciseStore then sendImprecise s1 p t else reportError s1 p t
  | none => .of y1

end Sys2Proof.Machine
end

