-- ==== Sys2Proof/Machine/Local.lean ====
section
/-! DEFINITION. Local addresses: the windows, their checks and the memory they name (R12 to R17, R57, R66), and the
addresses that memory forms make (R285, R286, R310). -/

namespace Sys2Proof.Machine

/-! ### Windows (R12 to R15) -/

/-- A window that exists for a requester: its range, how many of its bytes exist, the key of its first byte, the scope
of a write (4: the null witness), and the cause of an offset past its bytes. -/
structure Window where
  lo : Nat
  hi : Nat
  lim : Nat
  key : Nat
  scope : Nat
  beyond : Cause
  deriving DecidableEq, Repr

/-- The bytes of die scratchpad a context has on a die (R65, R66). -/
def Sys.dieScratch (y : Sys) (die ctx : Nat) : Nat :=
  let v := (y.die die).dsrcfg
  if bits v 27 16 = ctx then 16 * 2 ^ 20 * bits v 3 0 else 0

/-- The window of rank m of the block's cluster (R13). -/
def Sys.memberWindow (y : Sys) (k : Block) (m : Nat) : Option Window :=
  if k.size ≤ m then none
  else (y.blocks.find? (fun b => b.first == k.first && b.rank == m)).map (fun b =>
    { lo := 0x1000000 + m * 0x400000, hi := 0x1400000 + m * 0x400000, lim := k.scrSize,
      key := scratchKey b.core b.scrBase, scope := 0, beyond := .scratchBounds })

/-- The windows of a block, ascending; the spill window for one of its warps only (R15). -/
def Sys.windows (y : Sys) (k : Block) (w : Option Warp) : List Window :=
  let own : Window := { lo := 0, hi := 0x400000, lim := k.scrSize, key := scratchKey k.core k.scrBase, scope := 0,
                        beyond := .scratchBounds }
  let die : Window := { lo := 0x10000000, hi := 0x18000000, lim := y.dieScratch (dieOf k.core) k.ctx,
                        key := dieKey (dieOf k.core) 0, scope := 1, beyond := .scratchBounds }
  [own] ++ (List.range 4).filterMap (y.memberWindow k) ++ [die] ++
    (match w with
      | some v => [{ lo := 0x20000000, hi := 0x20010000, lim := v.spillSize, key := scratchKey k.core v.spillBase,
                     scope := 4, beyond := .spillBounds }]
      | none => [])

/-- The first byte of a range that lies in no window. -/
def outside (l : List Window) (p fin : Nat) : Nat → Option Nat
  | 0 => none
  | fuel + 1 =>
    if fin ≤ p then none
    else match l.find? (fun w => decide (w.lo ≤ p) && decide (p < w.hi)) with
      | some w => outside l w.hi fin fuel
      | none => some p

/-- The first byte of a range past the bytes of the windows whose cause is `c`. -/
def beyond (l : List Window) (c : Cause) (a fin : Nat) : Option Nat :=
  l.findSome? (fun w =>
    let p := Nat.max a (w.lo + w.lim)
    if w.beyond = c && p < Nat.min fin w.hi then some p else none)

/-- The cause of a range of local addresses, and its first failing byte, in the order of R16. -/
def rangeFail (l : List Window) (a n : Nat) : Option (Cause × Nat) :=
  match outside l a (a + n) 8 with
  | some p => some (.window, p)
  | none => match beyond l .scratchBounds a (a + n) with
    | some p => some (.scratchBounds, p)
    | none => (beyond l .spillBounds a (a + n)).map (fun p => (.spillBounds, p))

/-- The memory that a valid range names: keys, lengths and scopes, ascending. -/
def rangeRuns (l : List Window) (a n : Nat) : List (Nat × Nat × Nat) :=
  l.filterMap (fun w =>
    let p := Nat.max a w.lo
    let q := Nat.min (a + n) w.hi
    if p < q then some (w.key + (p - w.lo), q - p, w.scope) else none)

/-! ### Elements -/

/-- One element of a memory form: its lane (32 for a uniform form), its index (32 r + lane; 1024 for a uniform form),
and its exact address. -/
structure Elem where
  lane : Nat
  idx : Nat
  ea : Int
  deriving DecidableEq, Repr

def laneBit (i : Nat) : LaneMask := if i < 32 then 1#32 <<< i else allLanes

/-- The mask of element indices. -/
def idxMask (l : List Nat) : LaneMask := l.foldl (fun m i => m ||| (if i < 1024 then laneBit (i % 32) else allLanes)) 0

/-- The per-lane elements of a form (R285). -/
def Env.laneElems (e : Env) (base : OptS) (index : Option (BitVec 8)) (sc : BitVec 2) (off : Int) : List Elem :=
  (lanesOf e.b.exec).map (fun i =>
    let x : Int := match index with
      | some r => ((e.w.vl r.toNat i).toNat : Int) * 2 ^ sc.toNat
      | none => 0
    { lane := i, idx := i, ea := ((e.optS base).toNat : Int) + x + off })

/-- The one element of a uniform form (R285). -/
def Env.uniElem (e : Env) (base : OptS) (off : Int) : List Elem :=
  [{ lane := 32, idx := 1024, ea := ((e.optS base).toNat : Int) + off }]

/-- The elements of LDK and STK (R293). -/
def Env.blockElems (e : Env) (o : MemK) : List Elem :=
  (List.range (o.k.toNat + 1)).flatMap (fun r => (lanesOf e.b.exec).map (fun i =>
    { lane := i, idx := 32 * r + i,
      ea := ((e.optS o.base).toNat : Int) + o.off.toInt + (((32 * r + i) * o.sz.bytes : Nat) : Int) }))

/-- The elements that raise something, as a trap: the lanes, and the address of the lowest. -/
def raising (c : Cause) (r : Reason) (l : List Elem) : TrapInfo :=
  let low := l.foldl (fun a x => if x.lane < a.lane then x else a) (l.headD { lane := 0, idx := 0, ea := 0 })
  { trapOf c (wrap 64 low.ea) with tlanes := l.foldl (fun m x => m ||| laneBit x.lane) 0, reason := r }

/-- The cause of an element of a local form (R16, R286). -/
def elemFail (l : List Window) (size : Nat) (x : Elem) : Option Cause :=
  if x.ea < 0 || x.ea ≥ 2 ^ 32 then some .window
  else match rangeFail l x.ea.toNat size with
    | some (c, _) => some c
    | none => if x.ea % (size : Int) != 0 then some .align else none

/-- The highest-precedence cause that any element raises (R16). -/
def localTrap (l : List Window) (size : Nat) (es : List Elem) : Option TrapInfo :=
  [Cause.window, .scratchBounds, .spillBounds, .align].findSome? (fun c =>
    match es.filter (fun x => elemFail l size x == some c) with
    | [] => none
    | hit => some (raising c .none hit))

/-- An exact sum that is no virtual address (R18). -/
def noncanon (a : Int) : Bool := a < 0 || a ≥ 2 ^ 56

/-- The address checks of a main-memory form (R289, R310). -/
def mainTrap (size : Nat) (es : List Elem) : Option TrapInfo :=
  match es.filter (fun x => noncanon x.ea) with
  | [] => match es.filter (fun x => x.ea % (size : Int) != 0) with
    | [] => none
    | hit => some (raising .align .none hit)
  | hit => some (raising .protection .noncanon hit)

/-- An element with the memory it names; no key on a page that reads as zero (R27). -/
structure Located where
  idx : Nat
  ea : Nat
  key : Option Nat
  scope : Nat
  deriving DecidableEq, Repr

/-- The elements of a local form, checked. -/
def Env.locate (e : Env) (size : Nat) (es : List Elem) : Except Hold (List Located) :=
  let l := e.y.windows e.k (some e.w)
  match localTrap l size es with
  | some t => .error (.trap t)
  | none => .ok (es.map (fun x =>
      let run := (rangeRuns l x.ea.toNat size).headD (0, 0, 4)
      { idx := x.idx, ea := x.ea.toNat, key := some run.1, scope := run.2.2 }))

/-- The elements of a main-memory form, checked and translated (R310 steps 4 and 5). -/
def Env.locateMain (e : Env) (size : Nat) (acc : Access3) (es : List Elem) : Except Hold (Sys × List Located) :=
  match mainTrap size es with
  | some t => .error (.trap t)
  | none =>
    match e.translate (es.map (fun x => { lane := x.lane, va := x.ea.toNat, len := size, acc })) with
    | .error h => .error h
    | .ok y =>
      let core := some e.k.core
      let die := dieOf e.k.core
      .ok (y, es.map (fun x =>
        let leaf := ((y.leafOf e.asker core die e.k.ctx x.ea.toNat).map (·.2)).getD 0
        { idx := x.idx, ea := x.ea.toNat, key := y.vaKey e.asker core die e.k.ctx x.ea.toNat, scope := pteScope leaf }))

end Sys2Proof.Machine
end

