-- ==== Sys2Proof/Machine/Traffic.lean ====
section
/-! DEFINITION. Memory traffic: requests, what happens to them at their homes, the sectors of the memory-side caches, and
the accesses of engines (R63, R69 to R71, R85 to R97, R118, R119, R141 to R157). -/

namespace Sys2Proof
open Sys2Proof.Machine

/-! ### Atomics (R118, R119, R299) -/

/-- The new value of an atomic of n bits (R299). -/
def Aop.new (a : Aop) (n : Nat) (old v cmp : Word) : Word :=
  let sl := fun x : Word => toI true n x
  match a with
  | .add => low n (old + v)
  | .smin => if sl v < sl old then low n v else low n old
  | .smax => if sl old < sl v then low n v else low n old
  | .umin => if (low n v).toNat < (low n old).toNat then low n v else low n old
  | .umax => if (low n old).toNat < (low n v).toNat then low n v else low n old
  | .and => low n (old &&& v)
  | .or => low n (old ||| v)
  | .xor => low n (old ^^^ v)
  | .swap => low n v
  | .cas => if low n old = low n cmp then low n v else low n old

/-- The lanes of one request in ascending order: the old values, and the last new value (R119, R301). -/
def Aop.run (a : Aop) (n : Nat) (m : Word) : List AtomLane → List (Nat × Word) × Word
  | [] => ([], m)
  | x :: r =>
    let rest := Aop.run a n (a.new n m x.val x.cmp) r
    ((x.lane, m) :: rest.1, rest.2)

/-- The registers that element `idx` of a loading form writes with a value (R287, R293, R300). -/
def Instr.place (i : Instr) (idx : Nat) (v : Word) : List (Nat × Word) :=
  let one := fun (d : BitVec 8) (sz : Sz) =>
    if sz = .w64 then [(codeV d.toNat idx, v &&& 0xFFFFFFFF), (codeV (d.toNat + 1) idx, v >>> 32)]
    else [(codeV d.toNat idx, v)]
  match i with
  | .lds o | .gath o => one o.d o.sz
  | .ldsu o | .gaths o => [(codeS o.d.toNat, v)]
  | .ldk o =>
    let r := idx / 32
    if o.sz = .w64 then
      [(codeV (o.d.toNat + 2 * r) (idx % 32), v &&& 0xFFFFFFFF), (codeV (o.d.toNat + 2 * r + 1) (idx % 32), v >>> 32)]
    else [(codeV (o.d.toNat + r) (idx % 32), v)]
  | .ats o | .atm o => one o.d (if o.wide then .w64 else .w32)
  | .atsu o => [(codeS o.d.toNat, v)]
  | _ => []

end Sys2Proof

namespace Sys2Proof.Machine

/-! ### Issue of a memory form -/

/-- Elements of one location become one request; the element of highest index supplies a store's data (R62, R142). An atomic makes a
request for each distinct address (R119, R301). -/
def groupLocated (byAddress : Bool) (l : List Located) : List (Located × List Nat) :=
  let tag := fun x : Located => (x.key.getD 0, if byAddress then x.ea else 0)
  let named := l.filter (fun x => x.key.isSome)
  ((named.map tag).eraseDups).filterMap (fun t =>
    match named.filter (fun x => tag x == t) with
    | [] => none
    | x :: r => some (x, (x :: r).map (·.idx)))

/-- The requests of a form, numbered from `n`. -/
def requestsFrom (p : Op) (o : Origin) (size : Nat) (main : Bool) (kind : List Nat → ReqKind) :
    Nat → List (Located × List Nat) → List Req
  | _, [] => []
  | n, (x, is) :: r =>
    { id := n, op := p.id, origin := o, tick := p.tick, key := x.key.getD 0, size, kind := kind is, lanes := is,
      va := if main then x.ea else 0, ctx := p.ctx, bounced := false, arrived := false, left := p.tick } ::
        requestsFrom p o size main kind (n + 1) r

/-- The witness of the writes of a form (R103, R105). -/
def writeWit (o : Origin) (tick : Nat) (l : List Located) : Word :=
  l.foldl (fun v x => merge v (if x.scope = 4 then 0 else o.wit x.scope tick)) 0

/-- What a memory form asks of the shared issue: its witness field, element size, whether it counts on SETB, the
registers it leaves pending, whether it writes memory, and each request's part. -/
structure MemForm where
  w : WitF
  size : Nat
  second : Bool
  pendV : List Nat
  pendS : List Nat
  writes : Bool
  kind : List Nat → ReqKind

/-- The form is an atomic. -/
def MemForm.atomic (f : MemForm) : Bool :=
  match f.kind [] with
  | .atomic _ _ _ => true
  | _ => false

/-- The issue of a memory form whose elements are known (R289 steps 5 and 6, R290, R310). Nothing is issued to another package before this one's
clock has been stepped to the master's (R468). -/
def Env.issueMem (e : Env) (f : MemForm) (main : Bool) (y : Sys) (l : List Located) : Except Hold Upd :=
  let o : Origin := .part e.k.core e.w.part
  let p0 := e.op f.second
  if e.flagFull p0 then .error (.wait (.flagFull (p0.flag.getD 0)))
  else if main && !y.inStep && l.any (fun x => x.key.any (fun k => keyKind k == 3 && !y.peerDown (keyPA k))) then .error (.wait .clock)
  else if l.isEmpty then
    .ok (e.finish y (f.pendV.foldl Warp.unshape (e.w.witOut f.w 0)))
  else
    match e.witF f.w with
    | .error h => .error h
    | .ok () =>
      let zeros := (l.filter (fun x => x.key.isNone)).flatMap (fun x => e.i.place x.idx 0)
      let p := { p0 with pendV := f.pendV, pendS := f.pendS, results := zeros, stage := .running }
      let rs := requestsFrom p o f.size main f.kind (p.id + 1) (groupLocated f.atomic l)
      let y1 := { y with ops := y.ops ++ [p], reqs := y.reqs ++ rs, nextId := y.nextId + 1 + rs.length }
      let w1 := if f.writes then e.w.witOut f.w (writeWit o p.tick l) else e.w
      .ok (e.finish y1 (w1.countUp p.flag))

/-- The input witness of a form, checked and not yet awaited (R289 step 3). -/
def Env.checkWit (e : Env) (w : WitF) : Except Hold Unit :=
  match w with
  | .inp r | .both r => e.witnessOk (e.w.s r)
  | _ => .ok ()

/-- A scratch form (R289). -/
def Env.localForm (e : Env) (f : MemForm) (es : List Elem) : Except Hold Upd :=
  match e.checkWit f.w with
  | .error h => .error h
  | .ok () =>
    match e.locate f.size es with
    | .error h => .error h
    | .ok l => e.issueMem f false e.y l

/-- The leaves of the pages of some addresses. -/
def Env.leavesOf (e : Env) (y : Sys) (vas : List Nat) : List PageLeaf :=
  ((vas.map (· / 65536)).eraseDups).filterMap (fun p =>
    (y.leafOf e.asker (some e.k.core) (dieOf e.k.core) e.k.ctx (p * 65536)).map (fun x => { vpage := p, level := x.1, pte := x.2 }))

/-- The sub-warp waits behind the set that its word has built (R289, R307, R310). -/
def Env.waitBehind (e : Env) (y : Sys) (r : Wait) (vas : List Nat) : Warp :=
  e.w.setSub e.o { e.b with wait := r, under := .none, since := if e.b.wait = r then e.b.since else y.time.now, set := e.leavesOf y vas }

/-- A word that waits after its set is built keeps it. -/
def Env.behindSet (e : Env) (y : Sys) (vas : List Nat) (r : Except Hold Upd) : Except Hold Upd :=
  match r with
  | .error (.wait x) => .error (.change (.of (y.setWarp (e.waitBehind y x vas))))
  | x => x

/-- A main-memory form (R289, R310). -/
def Env.mainForm (e : Env) (f : MemForm) (acc : Access3) (es : List Elem) : Except Hold Upd :=
  match e.checkWit f.w with
  | .error h => .error h
  | .ok () =>
    if es.isEmpty then e.issueMem f true e.y []
    else
      match e.locateMain f.size acc es with
      | .error h => .error h
      | .ok (y, l) => e.behindSet y (l.map (·.ea)) (e.issueMem f true y l)

/-! ### Service at the homes -/

/-- An operation records a failed element: the lanes, and the address of the lowest (R155, R446). -/
def Op.failed (p : Op) (c : Cause) (lanes : LaneMask) (va : Nat) (r : Reason) : Op :=
  match p.err with
  | none => { p with err := some { trapOf c (BitVec.ofNat 64 va) with tlanes := lanes, reason := r } }
  | some t =>
    let lower := (lanesOf lanes).headD 32 < (lanesOf t.tlanes).headD 32
    { p with err := some (if lower then { t with tlanes := t.tlanes ||| lanes, tval := BitVec.ofNat 64 va, reason := r }
                          else { t with tlanes := t.tlanes ||| lanes }) }

def Sys.modOp (y : Sys) (id : Nat) (f : Op → Op) : Sys :=
  { y with ops := y.ops.map (fun p => if p.id == id then f p else p) }

/-- An earlier request of the same origin to the location has not been served yet (R90); the requests of one operation are in no order. -/
def Sys.behind (y : Sys) (r : Req) : Bool :=
  y.reqs.any (fun q => decide (q.id < r.id) && q.origin == r.origin && q.op != r.op && !q.isHeld &&
    overlaps q.key q.size r.key r.size)

/-- A request that its home accepts (R89, R90, R464): none of its origin's stands before it, and the host holds no sector that it
writes. -/
def Sys.accepts (y : Sys) (r : Req) : Bool :=
  !r.bounced && !y.behind r && (!r.kind.writes || (!y.recalling r.key r.size && !y.readWaits r.key r.size r.op))

/-- A request that can be served: where it reads, every write that was performed before it came is visible (R89). -/
def Sys.ready (y : Sys) (r : Req) : Bool := y.accepts r && (!r.kind.reads || y.quiet r.key r.size)

/-- Why a request cannot be performed at its home; one that was accepted before its region began to be released still is (R160). -/
def Sys.reqFails (y : Sys) (r : Req) : Option Reason :=
  match y.accessFails r.key r.size r.kind.reads with
  | some .withdrawn =>
    if r.arrived && ((y.die (paDie (keyPA r.key))).region (paFrame (keyPA r.key) / 1024)).state == 2 then
      (if r.kind.reads && y.poisoned r.key r.size then some .poison else none)
    else some .withdrawn
  | x => x

/-- The home holds some requests: they have come, and are to be served (R89, R143, R160). -/
def Sys.came (y : Sys) (rs : List Req) : Sys :=
  { y with reqs := y.reqs.map (fun r => if rs.any (fun q => q.id == r.id) then { r with arrived := true } else r) }

/-- Takes a request out, with its failure in its operation (R155); the read of a fetch or a stream keeps its failure for its asker, where
that is still there. -/
def Sys.failReq (y : Sys) (r : Req) (why : Reason) : Sys :=
  let c : Cause := if r.kind.reads then .memError else .impreciseStore
  match r.kind with
  | .asked (.sub w o) _ =>
    if ((y.warp? w).bind (fun x => x.sub? o)).isSome then
      { y with reqs := y.reqs.map (fun q => if q.id == r.id then { q with kind := .asked (.sub w o) (some why), arrived := true } else q) }
    else { y with reqs := y.reqs.filter (fun q => q.id != r.id) }
  | .asked a _ =>
    { y with reqs := y.reqs.map (fun q => if q.id == r.id then { q with kind := .asked a (some why), arrived := true } else q) }
  | .held w => { y with reqs := y.reqs.filter (fun q => q.id != r.id) }.modOp r.op
      (fun p => { p with lost := p.lost ++ [(r.key, r.size, w, why)] })
  | _ => { y with reqs := y.reqs.filter (fun q => q.id != r.id) }.modOp r.op (fun p => p.failed c (idxMask r.lanes) r.va why)

/-- A flit got through to another package: its port's failures start anew (R467). -/
def Sys.flitPassed (y : Sys) (key : Nat) : Sys :=
  match keyKind key, Table.get? y.ctl.routes (keyPA key / 2 ^ 42) with
  | 3, some port => { y with links := { y.links with retries := y.links.retries.setIfInBounds port 0 } }
  | _, _ => y

/-- One request is served at its home (R88, R89, R118). -/
def serveReq (r : Req) (s : State) : Upd :=
  match s.sys.reqFails r with
  | some why => .of (s.sys.failReq r why)
  | none =>
    let y := { s.sys.flitPassed r.key with reqs := s.sys.reqs.filter (fun q => q.id != r.id) }
    let old : Word := BitVec.ofNat 64 (s.mem.value r.key r.size)
    match r.kind with
    | .read => .of (y.modOp r.op (fun p => { p with results := p.results ++ r.lanes.flatMap (fun i => p.instr.place i old) }))
    | .write data => { sys := y.performed r.origin r.tick r.key r.size r.op, stores := [.bytes r.key data] }
    | .atomic a wide lanes =>
      let res := a.run (if wide then 64 else 32) old lanes
      let y1 := y.modOp r.op (fun p => { p with results := p.results ++ res.1.flatMap (fun x => p.instr.place x.1 x.2) })
      { sys := y1.performed r.origin r.tick r.key r.size r.op, stores := [.bytes r.key (leBytes r.size res.2.toNat)] }
    | .held _ | .asked _ _ => .of s.sys

/-- Some requests together cover every byte of a range. -/
def coverAll (rs : List Req) (key n : Nat) : Bool :=
  (List.range n).all (fun i => rs.any (fun r => decide (r.key ≤ key + i) && decide (key + i < r.key + r.size)))

/-- The writes among some requests that their homes perform. -/
def Sys.plainWrites (y : Sys) (rs : List Req) : List Req :=
  rs.filter (fun r => r.kind.writes && !r.kind.reads && (y.reqFails r).isNone)

/-- The poison that one access of several requests clears: the units that its writes cover together (R85, R155, R303). -/
def Sys.cleanedBy (y : Sys) (rs : List Req) : Sys :=
  let ws := y.plainWrites rs
  { y with poison := y.poison.filter (fun p => !coverAll ws p (poisonSize p)) }

/-- One access: its requests are served together (R142, R156). -/
def serveAccess (rs : List Req) (s : State) : Upd :=
  Upd.andThen s (.of (s.sys.cleanedBy rs)) (fun t => Upd.each t serveReq rs)

/-- A request that travels in no packet: scratch, and KIND 01 and 10 at the host port (R141, R156). -/
def Req.single (r : Req) : Bool := decide (2 ^ 50 ≤ r.key) || keyKind r.key == 1 || keyKind r.key == 2

/-- The requests that are one access with a request that travels in no packet: those of its operation to its word of scratch, or, at the
host port, to its 64-byte line (R58, R156). -/
def Sys.access (y : Sys) (r : Req) : List Req :=
  let unit := if 2 ^ 50 ≤ r.key then 4 else 64
  y.reqs.filter (fun q => q.op == r.op && q.single && !q.isHeld && q.key / unit == r.key / unit)

/-- The service of a request of the kinds that `f` accepts, with the others of its access; an access that its home accepts before it can
be served waits there. -/
def serveSingle (req : Nat) (f : ReqKind → Bool) (s : State) : Upd :=
  match s.sys.reqs.find? (fun r => r.id == req) with
  | none => idle s
  | some r =>
    let rs := s.sys.access r
    if !f r.kind || !r.single || r.isHeld then idle s
    else if rs.all s.sys.ready then serveAccess rs s
    else if rs.all s.sys.accepts then .of (s.sys.came rs)
    else idle s

/-- WRITE_PERFORM (R88): a write is placed in its location's coherence order. -/
def execWritePerform (req : Nat) (s : State) : Host.Outcome State Fault Refusal :=
  machineStep s (serveSingle req (fun k => match k with | .write _ => true | _ => false) s)

/-- READ_SERVE (R89). -/
def execReadServe (req : Nat) (s : State) : Host.Outcome State Fault Refusal :=
  machineStep s (serveSingle req (fun k => match k with | .read => true | _ => false) s)

/-- ATOMIC_SERVE (R118, R156). -/
def execAtomicServe (req : Nat) (s : State) : Host.Outcome State Fault Refusal :=
  machineStep s (serveSingle req (fun k => match k with | .atomic _ _ _ => true | _ => false) s)

/-! ### Packets and sectors (R141 to R143) -/

/-- The requests of one packet: an operation's elements on one page of KIND 00 or 11. -/
def Sys.packet (y : Sys) (op page : Nat) : List Req :=
  y.reqs.filter (fun r => r.op == op && r.key / 65536 == page && !r.single && !r.isHeld)

/-- The sectors that a packet needs and its home lacks; one that the packet's writes cover whole needs no fill (R70). -/
def Sys.packetLacks (y : Sys) (rs : List Req) : List Wanted :=
  let ws := y.plainWrites rs
  rs.flatMap (fun r =>
    if (y.reqFails r).isSome then []
    else ((y.lacks r.key r.size false).filter (fun t => !coverAll ws t 64)).map (fun t =>
      { sector := t, ctx := r.ctx, vpage := r.va / 65536, packet := (r.op, r.key / 65536) }))

/-- The Novdel ingress that a packet came through. -/
def ingressOf (rs : List Req) : Option Nat :=
  rs.findSome? (fun r => match r.origin with
    | .novdel p => some p
    | _ => none)

/-- A request of a peer that no region permits (R54). -/
def Sys.refusedIngress (y : Sys) (p : Nat) (rs : List Req) : Option Req :=
  rs.find? (fun r => !y.permits .ingress (Table.getD y.ctl.portMasks p (BitVec.allOnes 64)) r.key r.size r.kind.writes)

/-- The ingress is frozen, and the packet is not performed (R55). -/
def freezeIngress (p : Nat) (rs : List Req) (r : Req) (s : State) : Upd :=
  let y := s.sys
  let f : Freeze := { held := .ingress p, requester := .novdel p, ctx := r.ctx, pa := keyPA r.key, write := r.kind.writes, tick := y.clk,
                      released := false }
  Upd.andThen s (.of { y with
    reqs := y.reqs.filter (fun q => !rs.any (fun x => x.id == q.id))
    links := { y.links with frozenPorts := y.links.frozenPorts ++ [p] }
    freezes := y.freezes ++ [f] }) (fun t => raiseEvent t 6 r.ctx (BitVec.ofNat 64 y.freezes.length) 0)

/-- PACKET_SERVE (R142): a packet is served as one unit, once its sectors are present; the writes and atomics for a
frozen frame are bounced, unless the home accepted them before the freeze (R50). -/
def execPacketServe (op page : Nat) (s : State) : Host.Outcome State Fault Refusal :=
  machineStep s (
    let rs := s.sys.packet op page
    if rs.isEmpty || !rs.all s.sys.accepts then idle s
    else if ((ingressOf rs).map s.sys.links.frozenPorts.contains).getD false then idle s
    else match (ingressOf rs).bind (fun p => (s.sys.refusedIngress p rs).map (fun r => (p, r))) with
    | some (p, r) => freezeIngress p rs r s
    | none =>
    if rs.any (fun r => r.kind.writes && !r.arrived && s.sys.frozenFrame r.key) then
      .of { s.sys with reqs := s.sys.reqs.map (fun r =>
        if rs.any (fun q => q.id == r.id) then { r with bounced := true } else r) }
    else if !rs.all s.sys.ready then .of (s.sys.came rs)
    else
      match s.sys.packetLacks rs with
      | [] => serveAccess rs s
      | l =>
        let y := s.sys.came rs
        .of { y with wanted := l.foldl (fun w q =>
          if w.any (fun v => v.sector == q.sector) || y.returned.contains q.sector then w else w ++ [q]) y.wanted })

/-- The stack of a sector (R140). -/
def Sys.stackOf (y : Sys) (q : Wanted) : Nat := 2 * paDie (keyPA q.sector) + (y.slot q.sector).chan / 32

/-- Inserts by rank. -/
def insertBy {α : Type} (f : α → Nat) (x : α) : List α → List α
  | [] => [x]
  | y :: r => if f x ≤ f y then x :: y :: r else y :: insertBy f x r

/-- The order in which a base die serves sectors: by channel, bank and row (R143). -/
def Sys.sorted (y : Sys) (l : List Wanted) : List Wanted :=
  l.foldr (insertBy (fun q => let p := y.slot q.sector; p.bankNo * 32768 + p.row)) []

/-- SECTOR_PACKET (R143): up to 32 sectors of a stack that one packet needs are read and returned, the packets in the order in which they have
asked. -/
def execSectorPacket (die stack : Nat) (s : State) : Host.Outcome State Fault Refusal :=
  machineStep s (
    let here := s.sys.wanted.filter (fun q => paDie (keyPA q.sector) == die && s.sys.stackOf q == stack)
    let l := (here.filter (fun q => some q.packet == here.head?.map (·.packet))).take 32
    if l.isEmpty then idle s
    else
      let y := (s.sys.sorted l).foldl Sys.stackRead s.sys
      .of { y with wanted := y.wanted.filter (fun q => !l.any (fun v => v.sector == q.sector)),
                   returned := y.returned ++ l.map (·.sector) })

/-- SECTOR_FILL (R70). -/
def execSectorFill (die sector : Nat) (s : State) : Host.Outcome State Fault Refusal :=
  machineStep s (
    if s.sys.returned.contains sector && paDie (keyPA sector) == die then
      let y := s.sys
      .of { y with returned := y.returned.filter (fun t => t != sector),
                   cached := if (Table.get? y.cached sector).isSome then y.cached else Table.set y.cached sector false }
    else idle s)

/-- SECTOR_WRITE_BACK (R70): a line leaves the cache, its dirty sectors going to the stack with their poison. `line` is
the key of its first sector. DESIGN CHOICE (log 102): a write-back carries no request tag in the manual; its row conflict counts with
context 0 and page 0. -/
def execSectorWriteBack (die line : Nat) (s : State) : Host.Outcome State Fault Refusal :=
  machineStep s (
    let hit := s.sys.cached.filter (fun c => c.1 / 256 == line / 256)
    if paDie (keyPA line) != die || 2 ^ 48 ≤ line then idle s
    else
      let y := (hit.filter (fun c => c.2)).foldl
        (fun z c => z.stackRead { sector := c.1, ctx := 0, vpage := 0 }) s.sys
      .of { y with cached := y.cached.filter (fun c => c.1 / 256 != line / 256) })

/-! ### Back-invalidation, timeouts, bounces -/

/-- BACK_INVALIDATION (R464): the home snoops the host for the sectors a device write needs. -/
def execBackInvalidation (req : Nat) (s : State) : Host.Outcome State Fault Refusal :=
  machineStep s (
    match s.sys.reqs.find? (fun r => r.id == req) with
    | none => idle s
    | some r =>
      let hit := (sectorsOf r.key r.size).filter (fun t => s.sys.hostHeld.contains t && !s.sys.snooped t)
      if !r.kind.writes || hit.isEmpty then idle s else .of (s.sys.snoop hit false))

/-- The writes that wait for a sector. -/
def Sys.waitingFor (y : Sys) (sector : Nat) : List Req :=
  y.reqs.filter (fun r => r.kind.writes && (sectorsOf r.key r.size).contains sector)

/-- The host has not answered a snoop within TOHOST (R464). -/
def Sys.snoopOverdue (y : Sys) (q : Snoop) : Bool := decide (q.tick + 250 * bits y.ctl.ctocfg 31 16 ≤ y.time.now)

/-- A snoop ends without an answer: the writes that wait for its sector fail with TIMEOUT. The host holds the sector still. -/
def Sys.snoopOver (y : Sys) (q : Snoop) : Sys :=
  let y1 := { y with snooping := y.snooping.filter (fun t => t.sector != q.sector) }
  let z := (y1.waitingFor q.sector).foldl (fun z r => z.failReq r .timeout) y1
  if q.own then { z with late := z.late ++ [q.sector] } else z

/-- Every overdue snoop ends. -/
def Sys.snoopsOver (y : Sys) : Sys := (y.snooping.filter y.snoopOverdue).foldl Sys.snoopOver y

/-- The regions that a host function may reach. -/
def Sys.hostMask (y : Sys) (fn : Nat) : Word := Table.getD y.ctl.hostMasks fn (BitVec.allOnes 64)

/-- A host access that no region permits freezes its function. DESIGN CHOICE (log 98): the freeze log and the event name the function where they
name a context, which the manual does not give for a host function. -/
def freezeHost (fn key : Nat) (write : Bool) (s : State) : Upd :=
  let f : Freeze := { held := .function fn, requester := .host, ctx := fn, pa := keyPA key, write, tick := s.sys.clk, released := false }
  let y := { s.sys with ctl := { s.sys.ctl with hostFrozen := s.sys.ctl.hostFrozen ++ [fn] } }
  Upd.andThen s (.of { y with freezes := y.freezes ++ [f] })
    (fun t => raiseEvent t 6 fn (BitVec.ofNat 64 s.sys.freezes.length) 0)

/-- SNOOP_RESPONSE (R464): modified data is accepted first, as a host write stamped on arrival (R130), once no read that came before it waits
at the home (R89); the host then holds the sector no more. The write is the host function's that read the sector: a frozen one's is not
performed, nor one that no region permits, which freezes it (R54, R55; log 97). No answer within TOHOST fails the writes that wait. -/
def execSnoopResponse (sector : Nat) (answer : SnoopAnswer) (s : State) : Host.Outcome State Fault Refusal :=
  machineStep s (
    match s.sys.snooping.find? (fun q => q.sector == sector) with
    | none => idle s
    | some q =>
      let y := { s.sys with snooping := s.sys.snooping.filter (fun t => t.sector != sector),
                            hostHeld := s.sys.hostHeld.filter (fun t => t != sector), holder := Table.erase s.sys.holder sector }
      let fn := Table.getD s.sys.holder sector 0
      match answer with
      | .clean => .of y
      | .modified data =>
        let bs := data.take 64
        if s.sys.readWaits sector bs.length 0 then idle s
        else if y.ctl.hostFrozen.contains fn then .of y
        else if !y.permits .hostFn (y.hostMask fn) sector bs.length true then freezeHost fn sector true { s with sys := y }
        else if (y.accessFails sector bs.length false).isSome then .of y
        else { sys := (y.fillFor sector bs.length true 0 0).performed .host y.time.now sector bs.length 0, stores := [.bytes sector bs] }
      | .timeout => if s.sys.snoopOverdue q then .of (s.sys.snoopOver q) else idle s)

/-- The timeout of a request that has left the package, in ticks (R4, R162). -/
def Sys.timeout (y : Sys) (kind : Nat) : Option Nat :=
  match kind with
  | 1 => some (250 * bits y.ctl.ctocfg 15 0)
  | 2 => some (250 * bits y.ctl.ctocfg 31 16)
  | 3 => some (250 * bits y.ctl.ctocfg 47 32)
  | _ => none

/-- The requests that leave the package as one with a request: an engine's by itself, a packet, or the elements of a line (R156, R157). -/
def Sys.leaving (y : Sys) (r : Req) : List Req :=
  if r.isHeld then [r] else if r.single then y.access r else y.packet r.op (r.key / 65536)

/-- COMPLETION_TIMEOUT (R163). An engine's access that has been answered is not under way any more. -/
def execCompletionTimeout (req : Nat) (s : State) : Host.Outcome State Fault Refusal :=
  machineStep s (
    match s.sys.reqs.find? (fun r => r.id == req) with
    | none => idle s
    | some r =>
      match s.sys.timeout (keyKind r.key) with
      | some t =>
        if r.left + t ≤ s.sys.time.now && !(r.isHeld && r.arrived) then
          .of ((s.sys.leaving r).foldl (fun z q => z.failReq q .timeout) s.sys)
        else idle s
      | none => idle s)

/-- What a page's requests of one origin meet when they are translated anew: a new frame, a refusal, or nothing yet. -/
inductive Again where
  | at_ (key : Nat → Nat)
  | stays
  | fails
  | frozen (pa : Nat)

/-- The page of a request is being migrated: its invalidation is not complete (R50, R51). -/
def Sys.moving (y : Sys) (r : Req) : Bool := y.migrations.any (fun m => m.ctx == r.ctx && m.vpage == r.va / 65536)

/-- The new translation of a bounced request (R51). DESIGN CHOICE (log 100): the manual does not say what a bounced request does whose
page has no normal leaf any more; it stays with its issuer until there is one. Where the leaf permits no write, or the walk fails, the
request fails. -/
def State.again (s : State) (r : Req) : Again :=
  match walk s r.ctx r.va with
  | .leaf l e =>
    let key := fun va : Nat => s.sys.placed (pteTag e) (s.sys.homeKey (pteKind e) (leafPA l e va))
    if pteSparse e != 0 || s.sys.frozenFrame (key r.va) || s.sys.moving r then .stays
    else if !pteW e then .fails
    else if !s.sys.opens r.ctx (key r.va) r.size true then .frozen (key r.va)
    else .at_ key
  | .absent _ _ => .stays
  | .firewall pa => .frozen (mainKey 0 pa)
  | .malformed _ _ | .failed _ => .fails

/-- BOUNCE_REISSUE (R51): the issuer translates the page anew and reissues, with their original ticks, all of its requests to it that are
under way, so that their order stays (R90, R91); a request whose page is still being migrated waits for the end of the invalidation. -/
def execBounceReissue (req : Nat) (s : State) : Host.Outcome State Fault Refusal :=
  machineStep s (
    match s.sys.reqs.find? (fun r => r.id == req) with
    | none => idle s
    | some r =>
      if !r.bounced then idle s
      else if !walkQuiet s r.ctx r.va then .of (walkHold s .walk r.ctx r.va)
      else match s.again r with
      | .stays => idle s
      | .fails => .of (s.sys.failReq r .none)
      | .frozen k => Upd.andThen s (.of (s.sys.failReq r .none)) (fun t => freezeContext t r.origin r.ctx (k, true))
      | .at_ key =>
        let mine := fun q : Req => q.origin == r.origin && q.ctx == r.ctx && q.va / 65536 == r.va / 65536 && !q.single &&
          !q.isHeld && !q.arrived
        let y := walkFills s r.ctx r.va s.sys
        .of { y with reqs := y.reqs.map (fun q => if mine q then { q with key := key q.va, bounced := false } else q) })

/-! ### Completion -/

/-- Nothing of an operation's traffic is outstanding: no request, and no write that is not visible yet (R214, R295). -/
def Sys.drained (y : Sys) (id : Nat) : Bool :=
  !y.reqs.any (fun r => r.op == id && !r.isHeld) && !y.unseen.any (fun u => u.op == id)

/-! ### Ranges of engines -/

/-- A contiguous piece of a range: its address, its length, and the key of its first byte, none where a page reads as
zero (R27); the scope of a write (4: null). -/
structure Run where
  va : Nat
  len : Nat
  key : Option Nat
  scope : Nat
  deriving DecidableEq, Repr

/-- The runs of a local range. -/
def localRuns (l : List Window) (a n : Nat) : List Run :=
  (rangeRuns l a n).map (fun r => { va := 0, len := r.2.1, key := some r.1, scope := r.2.2 })

/-- The pages of a range of virtual addresses. -/
def rangePages (a n : Nat) : List Nat :=
  if n = 0 then [] else (List.range ((a + n - 1) / 65536 - a / 65536 + 1)).map (fun i => a / 65536 + i)

/-- The piece of a range from `lo` to `hi`, within a page of leaf `e` of level `l`. -/
def leafRun (y : Sys) (l : Nat) (e : Word) (lo hi : Nat) : Run :=
  { va := lo, len := hi - lo, scope := pteScope e,
    key := if pteSparse e = 0 then some (y.placed (pteTag e) (y.homeKey (pteKind e) (leafPA l e lo))) else none }

/-- The largest piece of a range within a page that is one access: a 64-byte request of CXL (R156), a line where a shape record places the
lines, else the page. -/
def leafUnit (e : Word) : Nat := if pteKind e == 1 || pteKind e == 2 then 64 else if pteTag e = 0 then 65536 else 256

/-- The runs of a range, page by page, and by the pieces of `leafUnit` within each; `leaf` gives each page's level and leaf. -/
def mainRuns (y : Sys) (leaf : Nat → Option (Nat × Word)) (a n : Nat) : List Run :=
  (rangePages a n).flatMap (fun p =>
    let lo := Nat.max a (p * 65536)
    let hi := Nat.min (a + n) ((p + 1) * 65536)
    match leaf p with
    | some (l, e) =>
      let n := leafUnit e
      (List.range ((hi - 1) / n - lo / n + 1)).map (fun i =>
        leafRun y l e (Nat.max lo ((lo / n + i) * n)) (Nat.min hi ((lo / n + i + 1) * n)))
    | none => [{ va := lo, len := hi - lo, key := none, scope := 0 }])

/-- An engine may read the runs now: every performed write to them is visible (R89). -/
def Sys.runsQuiet (y : Sys) (rs : List Run) : Bool :=
  rs.all (fun r => match r.key with
    | some k => y.quiet k r.len
    | none => true)

/-- The virtual address of the first byte of a run that a failure concerns: the first poisoned one, else the first; 0 in
scratch. -/
def Sys.failVA (y : Sys) (r : Run) (k : Nat) (why : Reason) : Nat :=
  if why = .poison && k < 2 ^ 48 then
    let hits := (y.poison.filter (fun p => overlaps p (poisonSize p) k r.len)).map (fun p => p - k)
    r.va + hits.foldl Nat.min (hits.headD 0)
  else r.va

/-- The first failure that a read of the runs meets, with its address (R155). -/
def Sys.runsFail (y : Sys) (rs : List Run) : Option (Reason × Nat) :=
  rs.findSome? (fun r => match r.key with
    | some k => (y.accessFails k r.len true).map (fun why => (why, y.failVA r k why))
    | none => none)

/-- The first access of an operation to the runs that has failed on its way, with its address (R163, R464). -/
def Op.lostAt (p : Op) (w : Bool) (rs : List Run) : Option (Reason × Nat) :=
  rs.findSome? (fun r => match r.key with
    | some k => (p.lost.find? (fun l => l.2.2.1 == w && overlaps l.1 l.2.1 k r.len)).map (fun l => (l.2.2.2, r.va))
    | none => none)

/-- Why an operation cannot read the runs. -/
def Sys.readFails (y : Sys) (p : Op) (rs : List Run) : Option (Reason × Nat) := (y.runsFail rs).orElse (fun _ => p.lostAt false rs)

/-- An engine's writes to the runs must wait: a frame is frozen, or a read waits at the home (R50, R89). -/
def Sys.runsHeld (y : Sys) (op : Nat) (rs : List Run) : Bool :=
  rs.any (fun r => match r.key with
    | some k => y.frozenFrame k || y.readWaits k r.len op
    | none => false)

/-- The access of an operation that stands for a run, where one is under way. -/
def Sys.heldFor (y : Sys) (op key n : Nat) (w : Bool) : Option Req :=
  y.reqs.find? (fun q => q.op == op && q.kind == .held w && q.key == key && q.size == n)

/-- The ranges of runs that have memory. -/
def runRanges (rs : List Run) : List (Nat × Nat) := rs.filterMap (fun r => r.key.map (fun k => (k, r.len)))

/-- An engine's access to a run, and whether it may be made: outside the package it is made once a request has gone there and has been
answered, which one on a failed path, or one timed out, never is (R163); to a sector that the host holds, once that is given back (R464).
DESIGN CHOICE (log 99): the requests of a unit of work, one for each 64 bytes of CXL memory and one for each page of another package's, are
answered when the unit is taken up again. -/
def Sys.passRun (y : Sys) (p : Op) (o : Origin) (w : Bool) (r : Run) : Sys × Bool :=
  match r.key with
  | none => (y, true)
  | some k =>
    let away := offPackage k
    let fails := (y.accessFails k r.len false).isSome || (p.lostAt w [r]).isSome
    if fails || !(away || (w && y.recalling k r.len)) then (y, true)
    else if keyKind k == 3 && !y.inStep && away then (y, false)
    else match y.heldFor p.id k r.len w with
      | some q =>
        if away then
          let z := y.flitPassed k
          ({ z with reqs := z.reqs.map (fun x => if x.id == q.id then { x with arrived := true } else x) }, true)
        else (y, false)
      | none =>
        let q : Req :=
          { id := y.nextId, op := p.id, origin := o, tick := y.time.now, key := k, size := r.len, kind := .held w, lanes := [],
            va := r.va, ctx := p.ctx, bounced := false, arrived := false, left := y.time.now }
        ({ y with nextId := y.nextId + 1, reqs := y.reqs ++ [q] }, false)

/-- An operation's requests for some runs are over. -/
def Sys.dropRuns (y : Sys) (op : Nat) (w : Bool) (rs : List Run) : Sys :=
  { y with reqs := y.reqs.filter (fun q => !(q.op == op && q.kind == ReqKind.held w && rs.any (fun r => r.key == some q.key && r.len == q.size))) }

/-- The holds of an operation's reads of some runs are over. -/
def Sys.runsServed (y : Sys) (op : Nat) (rs : List Run) : Sys :=
  { y with reading := y.reading.filter (fun q => !(q.who == .op op && rs.any (fun r => r.key == some q.key && r.len == q.size))) }

/-- The accesses of one kind to some runs. -/
def Sys.passRuns (y : Sys) (p : Op) (o : Origin) (w : Bool) (rs : List Run) : Sys × Bool :=
  rs.foldl (fun a r => let b := a.1.passRun p o w r; (b.1, a.2 && b.2)) (y, true)

/-- An operation's unit of work, which reads and writes some runs: it may be done, or it waits. Its reads are answered before its writes
go out; a home that cannot serve a read yet holds it (R89). -/
def Sys.pass (y : Sys) (p : Op) (o : Origin) (reads writes : List Run) : Except Sys Sys :=
  if !y.runsQuiet reads then .error (y.holdRead (.op p.id) (runRanges reads))
  else if y.runsHeld p.id writes then .error y
  else
    let a := y.passRuns p o false reads
    if !a.2 then .error a.1
    else
      let b := a.1.passRuns p o true writes
      if !b.2 then .error b.1
      else .ok ((b.1.dropRuns p.id false reads).runsServed p.id reads)

/-- The bytes of the runs. -/
def runBytes (m : Memory) (rs : List Run) : List Byte :=
  rs.flatMap (fun r => match r.key with
    | some k => m.bytes k r.len
    | none => List.replicate r.len 0)

/-- The runs' sectors are in the home caches after an engine has read them. -/
def Sys.runsRead (y : Sys) (ctx : Nat) (rs : List Run) : Sys :=
  rs.foldl (fun z r => match r.key with
    | some k => z.fillFor k r.len false ctx (r.va / 65536)
    | none => z) y

/-- The tick of an operation's write to a location: the one at which the request that carries it has gone out, or now (R93). -/
def Sys.writeTick (y : Sys) (op key n : Nat) : Nat :=
  ((y.reqs.find? (fun q => q.op == op && q.kind == .held true && decide (q.key ≤ key) && decide (key + n ≤ q.key + q.size))).map
    (·.tick)).getD y.time.now

/-- The witness of an engine's writes to the runs (R103). -/
def Sys.runsWit (y : Sys) (o : Origin) (op : Nat) (rs : List Run) : Word :=
  rs.foldl (fun v r => merge v (if r.scope = 4 then 0 else o.wit r.scope (y.writeTick op (r.key.getD 0) r.len))) 0

/-- An engine writes bytes to the runs, each write with its tick (R93); the request of a write is then over. -/
def runsWrite (o : Origin) (op ctx : Nat) : List Run → List Byte → State → Upd
  | [], _, s => .of s.sys
  | r :: rest, bs, s =>
    let here : Upd := match r.key with
      | some k =>
        let t := s.sys.writeTick op k r.len
        { sys := ((s.sys.dropRuns op true [r]).fillFor k r.len true ctx (r.va / 65536)).performed o t k r.len op,
          stores := [.bytes k (bs.take r.len)] }
      | none => .of s.sys
    Upd.andThen s here (runsWrite o op ctx rest (bs.drop r.len))

/-- The first failure that a write to the runs meets (R155, R158). -/
def Sys.runsRefuse (y : Sys) (rs : List Run) : Option (Reason × Nat) :=
  rs.findSome? (fun r => match r.key with
    | some k => (y.accessFails k r.len false).map (fun why => (why, r.va))
    | none => none)

/-- Why an operation cannot write the runs. -/
def Sys.writeFails (y : Sys) (p : Op) (rs : List Run) : Option (Reason × Nat) := (y.runsRefuse rs).orElse (fun _ => p.lostAt true rs)

end Sys2Proof.Machine
end

