-- ==== Sys2Proof/Machine/Big.lean ====
section
/-! DEFINITION. Big numbers, MAJ 0x20 (R233 to R242, R337 to R351). -/

namespace Sys2Proof.Machine

/-! ### Values and shapes -/

/-- The limbs of a magnitude, least significant first. -/
def limb (v i : Nat) : Limb := BitVec.ofNat 32 (v >>> (32 * i))

/-- The number of limbs of a magnitude (R235). -/
def limbCount (v : Nat) : Nat := if v = 0 then 0 else v.log2 / 32 + 1

/-- The number whose limbs are given. -/
def limbsValue : List Limb → Nat
  | [] => 0
  | l :: r => l.toNat + 2 ^ 32 * limbsValue r

/-- The value of a V register as a big number (R235, R238). -/
def Warp.bigV (w : Warp) (r : Nat) : Int :=
  let shape := w.shapes[r]?.getD 0
  let lanes := (w.v r).toList
  if shape.getLsbD 7 then
    let all := lanes ++ [w.tops[r]?.getD 0]
    let m := limbsValue (all.take (shape.toNat % 64))
    if shape.getLsbD 6 then -(m : Int) else m
  else (limbsValue lanes : Int)

/-- The value of a big-number source; `before` is how many entries of its queue earlier operands pop (R78). -/
def Env.big (e : Env) (a : BigA) (before : Nat) : Int :=
  match a with
  | .v r => e.w.bigV r.toNat
  | .queue q => (limbsValue (popLanes (e.w.queue q) before).toList : Int)

/-- The register of a source and its LEN, when it is shaped. -/
def Env.bigLen (e : Env) (a : BigA) : Option (Nat × Nat) :=
  match a with
  | .v r =>
    let shape := e.w.shapes[r.toNat]?.getD 0
    if shape.getLsbD 7 then some (r.toNat, shape.toNat % 64) else none
  | .queue _ => none

/-- The check of the sources (R239): LEN 34 to 63, then LEN 33 where the form does not take it. -/
def Env.checkBig (e : Env) (as : List BigA) (take33 : Bool) : Except Hold Unit :=
  let lens := as.filterMap e.bigLen
  match lens.find? (fun p => decide (p.2 > 33)) with
  | some p => trapping .length (BitVec.ofNat 64 p.1)
  | none => match (if take33 then none else lens.find? (fun p => p.2 == 33)) with
    | some p => trapping .longOperand (BitVec.ofNat 64 p.1)
    | none => .ok ()

/-- The shape byte of a canonical number (R236). -/
def shapeOf (v : Int) : BitVec 8 :=
  BitVec.ofNat 8 (0x80 + (if v < 0 then 0x40 else 0) + limbCount v.natAbs)

/-- write_big (R339): the whole register, its shape byte and its top limb. -/
def Warp.putBig (w : Warp) (d : BitVec 8) (v : Int) : Except Hold Warp :=
  let m := v.natAbs
  if m ≥ 2 ^ 1056 then trapping .length (d.zeroExtend 64)
  else .ok { w with
    vregs := w.vregs.setIfInBounds d.toNat (Vector.ofFn (fun i : Fin 32 => limb m i))
    shapes := w.shapes.setIfInBounds d.toNat (shapeOf v)
    tops := w.tops.setIfInBounds d.toNat (limb m 32) }

/-- Whether operand B of BADD, BSUB and BCMP is a big number, and its value (R338). -/
def Env.bigB (e : Env) (a : BigA) (b : BigB) : Int :=
  match b with
  | .v r => e.big (.v r) 0
  | .queue q => e.big (.queue q) (match a with | .queue p => if p = q then 1 else 0 | .v _ => 0)
  | .s r => (e.w.s r).toInt
  | .imm i => i.toInt

end Sys2Proof.Machine

namespace Sys2Proof
open Sys2Proof.Machine

def BigB.asSource : BigB → List BigA
  | .v r => [.v r]
  | .queue q => [.queue q]
  | _ => []

end Sys2Proof

namespace Sys2Proof.Machine

/-- A form with a big-number source A and a big-number result. -/
def Env.bigMap (e : Env) (d : BitVec 8) (a : BigA) (take33 : Bool) (f : Int → Except Hold Int) : Except Hold Warp :=
  match e.checkBig [a] take33 with
  | .error h => .error h
  | .ok () => match f (e.big a 0) with
    | .error h => .error h
    | .ok v => e.w.putBig d v

/-! ### The forms (R341 to R348) -/

/-- BADD (R341). -/
def execBadd (d : BitVec 8) (a : BigA) (b : BigB) (s : State) : Host.Outcome State Fault Refusal :=
  issueReg (.badd d a b) s (fun e =>
    match e.checkBig ([a] ++ b.asSource) false with
    | .error h => .error h
    | .ok () => e.w.putBig d (e.big a 0 + e.bigB a b))

/-- BSUB (R341). -/
def execBsub (d : BitVec 8) (a : BigA) (b : BigB) (s : State) : Host.Outcome State Fault Refusal :=
  issueReg (.bsub d a b) s (fun e =>
    match e.checkBig ([a] ++ b.asSource) false with
    | .error h => .error h
    | .ok () => e.w.putBig d (e.big a 0 - e.bigB a b))

/-- BNEG (R341). -/
def execBneg (d : BitVec 8) (a : BigA) (s : State) : Host.Outcome State Fault Refusal :=
  issueReg (.bneg d a) s (fun e => e.bigMap d a false (fun v => .ok (-v)))

/-- −1, 0 or 1 as a < b, a = b or a > b. -/
def compareInt (a b : Int) : Word := if a < b then -1 else if a = b then 0 else 1

/-- BCMP (R341). -/
def execBcmp (d : SReg) (a : BigA) (b : BigB) (abs : Bool) (s : State) : Host.Outcome State Fault Refusal :=
  issueReg (.bcmp d a b abs) s (fun e =>
    match e.checkBig ([a] ++ b.asSource) false with
    | .error h => .error h
    | .ok () =>
      let x := e.big a 0
      let y := e.bigB a b
      .ok (e.w.setS d (if abs then compareInt x.natAbs y.natAbs else compareInt x y)))

/-- BSHL (R343). -/
def execBshl (d : BitVec 8) (a : BigA) (k : UImm) (s : State) : Host.Outcome State Fault Refusal :=
  issueReg (.bshl d a k) s (fun e => e.bigMap d a false (fun v =>
    let n := (e.uni k).toNat
    if v = 0 then .ok 0
    else if n ≥ 1056 then trapping .length (d.zeroExtend 64)
    else .ok (v * 2 ^ n)))

/-- BSHR (R343): a shift past every limb acts as one of 1,056. -/
def execBshr (d : BitVec 8) (a : BigA) (k : UImm) (floor : Bool) (s : State) : Host.Outcome State Fault Refusal :=
  issueReg (.bshr d a k floor) s (fun e => e.bigMap d a false (fun v =>
    let m : Int := 2 ^ Nat.min (e.uni k).toNat 1056
    .ok (if floor then v.fdiv m else v.tdiv m)))

/-- The 32-bit scalar of BMULS and BDIVS (R338). -/
def scalar32 (sg : Bool) (x : Word) : Int := toI sg 32 x

/-- BMULS (R344). -/
def execBmuls (d : BitVec 8) (a : BigA) (b : UImm) (sg : Bool) (s : State) : Host.Outcome State Fault Refusal :=
  issueReg (.bmuls d a b sg) s (fun e => e.bigMap d a false (fun v => .ok (v * scalar32 sg (e.uni b))))

/-- BDIVS (R345). -/
def execBdivs (d : BitVec 8) (a : BigA) (b c : SReg) (sg : Bool) (s : State) : Host.Outcome State Fault Refusal :=
  issueReg (.bdivs d a b c sg) s (fun e =>
    match e.checkBig [a] false with
    | .error h => .error h
    | .ok () =>
      let v := e.big a 0
      let m := scalar32 sg (e.w.s b)
      if m = 0 then trapping .divzero 0
      else match e.w.putBig d (v.tdiv m) with
        | .error h => .error h
        | .ok w => .ok (w.setS c (wrap 64 (v.tmod m))))

/-- BNORM (R341). -/
def execBnorm (d : BitVec 8) (a : BigA) (s : State) : Host.Outcome State Fault Refusal :=
  issueReg (.bnorm d a) s (fun e => e.bigMap d a true (fun v => .ok v))

/-- BLEN (R346). -/
def execBlen (d : SReg) (a : BigA) (s : State) : Host.Outcome State Fault Refusal :=
  issueReg (.blen d a) s (fun e =>
    match e.checkBig [a] true with
    | .error h => .error h
    | .ok () =>
      let entry : Nat × Nat := match a with
        | .v r => ((e.w.shapes[r.toNat]?.getD 0).toNat, (e.w.tops[r.toNat]?.getD 0).toNat)
        | .queue _ => (0, 0)
      .ok (e.w.setS d (BitVec.ofNat 64 (entry.1 + 2 ^ 8 * limbCount (e.big a 0).natAbs + 2 ^ 32 * entry.2))))

/-- The number of trailing zero bits of a magnitude below 2^1056, 0 for 0. -/
def trailingZeros (m : Nat) : Nat := ((List.range 1056).find? (fun i => m.testBit i)).getD 0

/-- BBITS (R347). -/
def execBbits (d : SReg) (a : BigA) (tz : Bool) (s : State) : Host.Outcome State Fault Refusal :=
  issueReg (.bbits d a tz) s (fun e =>
    match e.checkBig [a] false with
    | .error h => .error h
    | .ok () =>
      let m := (e.big a 0).natAbs
      let n := if tz then trailingZeros m else if m = 0 then 0 else m.log2 + 1
      .ok (e.w.setS d (BitVec.ofNat 64 n)))

/-- The register number that LENGTH and FORMAT of BCVT record (R348); a queue has none. -/
def bigReg (a : BigA) : Word :=
  match a with
  | .v r => r.zeroExtend 64
  | .queue q => q.zeroExtend 64

/-- BCVT.totc (R348). -/
def execBcvtTotc (d : BitVec 8) (a : BigA) (s : State) : Host.Outcome State Fault Refusal :=
  issueReg (.bcvtTotc d a) s (fun e =>
    match e.checkBig [a] false with
    | .error h => .error h
    | .ok () =>
      let v := e.big a 0
      if v < -(2 ^ 1023) || v ≥ 2 ^ 1023 then trapping .length (bigReg a)
      else
        let m := (v % 2 ^ 1024).toNat
        .ok (e.w.writeV d.toNat allLanes (Vector.ofFn (fun i : Fin 32 => limb m i))))

/-- BCVT.fromtc (R348). -/
def execBcvtFromtc (d : BitVec 8) (a : BigA) (s : State) : Host.Outcome State Fault Refusal :=
  issueReg (.bcvtFromtc d a) s (fun e => e.bigMap d a false (fun v =>
    if v < 0 then trapping .format (bigReg a)
    else .ok (if v ≥ 2 ^ 1023 then v - 2 ^ 1024 else v)))

/-- BCVT.f64 (R348). -/
def execBcvtF64 (d : SReg) (a : BigA) (s : State) : Host.Outcome State Fault Refusal :=
  issueReg (.bcvtF64 d a) s (fun e =>
    match e.checkBig [a] false with
    | .error h => .error h
    | .ok () =>
      let v := e.big a 0
      let r := f64Fmt.round (RSel.mode .dyn e.w.fpctl) false (decide (v < 0)) v.natAbs 0
      e.raiseFlags (fun _ => r.2) (e.w.setS d r.1))

/-! ### Limb arrays in scratch (R240 to R242, R349 to R351) -/

/-- The header of a limb array (R240): length, sign byte, reserved bytes, capacity. -/
structure LimbHeader where
  len : Nat
  sign : Nat
  clear : Bool
  cap : Nat
  deriving DecidableEq, Repr

/-- A header from its 16 bytes. -/
def limbHeader (bs : List Byte) : LimbHeader where
  len := leValue (bs.take 4)
  sign := leValue ((bs.drop 4).take 1)
  clear := leValue ((bs.drop 5).take 3) == 0 && leValue ((bs.drop 12).take 4) == 0
  cap := leValue ((bs.drop 8).take 4)

/-- A header is malformed (R241). -/
def LimbHeader.bad (h : LimbHeader) : Bool := h.sign > 1 || !h.clear || h.len > h.cap

/-- The limbs of bytes, four to a limb. -/
def limbsOf (n : Nat) (bs : List Byte) : Nat := leValue (bs.take (4 * n))

/-- The check of an array's address and its first `n` bytes (R349): WINDOW, the bounds, ALIGN. -/
def Env.arrayCheck (e : Env) (a : Word) (n : Nat) : Except Hold (List Run) :=
  let ws := e.y.windows e.k (some e.w)
  if a.toNat ≥ 2 ^ 32 then trapping .window a
  else match rangeFail ws a.toNat n with
    | some (c, _) => trapping c a
    | none => if a.toNat % 16 != 0 then trapping .align a else .ok (localRuns ws a.toNat n)

/-- An earlier request of an origin to some ranges has not arrived, or a write there is not visible (R89 to R91). -/
def Sys.rangesWait (y : Sys) (o : Origin) (l : List (Nat × Nat)) : Bool :=
  l.any (fun r => !y.quiet r.1 r.2 || y.reqs.any (fun q => q.origin == o && overlaps q.key q.size r.1 r.2))

/-- A read of the runs by the partition must wait for its turn. -/
def Env.runsWait (e : Env) (rs : List Run) : Bool := e.y.rangesWait (.part e.k.core e.w.part) (runRanges rs)

/-- A word waits for the turn of its reads at the home; those that have come are held there, ahead of later writes (R89). -/
def Env.readsHeld (e : Env) (rs : List Run) : Upd :=
  let o : Origin := .part e.k.core e.w.part
  let came := (runRanges rs).filter (fun r => !e.y.reqs.any (fun q => q.origin == o && overlaps q.key q.size r.1 r.2))
  let since := if e.b.wait = .scratch (runRanges rs) then e.b.since else e.y.time.now
  .of ((e.y.holdRead (.warp e.w.id) came).setWarp (e.w.setSub e.o
    { e.b with wait := .scratch (runRanges rs), under := .none, since, set := [] }))

/-- A read of scratch bytes at issue: it waits for its turn at the home, and poison is MEM_ERROR, with the lanes that read it (R85, R350). -/
def Env.readRuns (e : Env) (rs : List Run) (lanes : LaneMask) : Except Hold (List Byte) :=
  if e.runsWait rs then .error (.change (e.readsHeld rs))
  else if (e.y.runsFail rs).isSome then .error (.trap { trapOf .memError 0 with tlanes := lanes, reason := .poison })
  else .ok (runBytes e.s.mem rs)

/-- The lanes that read the poisoned ones of `n` limbs from `a` on (R85): limb i < 32 is read by lane i, and limb 32 by all (log 110). -/
def Env.limbLanes (e : Env) (a n : Nat) : LaneMask :=
  let ws := e.y.windows e.k (some e.w)
  let bad := fun i => decide (i < n) && (e.y.runsFail (localRuns ws (a + 4 * i) 4)).isSome
  if bad 32 then allLanes else maskOf bad

/-- One write of BSPILL, as requests of its operation. -/
def spillReqs (p : Op) (o : Origin) (rs : List Run) (bs : List Byte) : List Req :=
  match rs with
  | [] => []
  | r :: rest =>
    { id := 0, op := p.id, origin := o, tick := p.tick, key := r.key.getD 0, size := r.len,
      kind := .write (bs.take r.len), lanes := [], va := 0, ctx := p.ctx, bounced := false, arrived := false, left := p.tick } ::
      spillReqs p o rest (bs.drop r.len)

/-- Requests numbered upward. -/
def numberReqs : Nat → List Req → List Req
  | _, [] => []
  | n, r :: rest => { r with id := n } :: numberReqs (n + 1) rest

/-- BSPILL (R349): the capacity word alone is read; the writes are scratch accesses of the warp, one operation that no flag counts
(log 107). -/
def execBspill (a : BitVec 8) (b : SReg) (w : OptS) (s : State) : Host.Outcome State Fault Refusal :=
  issue (.bspill a b w) s (fun e => do
    e.checkBig [.v a] true
    let at_ := e.w.s b
    let v := e.big (.v a) 0
    let n := limbCount v.natAbs
    let _ ← e.arrayCheck at_ 16
    let runs ← e.arrayCheck at_ (16 + 4 * n)
    let ws := e.y.windows e.k (some e.w)
    let cap ← e.readRuns (localRuns ws (at_.toNat + 8) 4) allLanes
    if n > leValue cap then trapping .length (BitVec.ofNat 64 n)
    else
      let o : Origin := .part e.k.core e.w.part
      let p : Op := { e.op false with flag := none, stage := .running }
      let piece := fun off (bs : List Byte) => spillReqs p o (localRuns ws (at_.toNat + off) bs.length) bs
      let rs := piece 0 (leBytes 4 n ++ leBytes 4 (if v < 0 then 1 else 0)) ++ piece 12 (leBytes 4 0) ++
        piece 16 (leBytes (4 * n) v.natAbs)
      let y := { e.y with ops := e.y.ops ++ [p], reqs := e.y.reqs ++ numberReqs (p.id + 1) rs, nextId := e.y.nextId + 1 + rs.length }
      let wit := e.y.runsWit o p.id runs
      return e.finish y (match w with | some r => e.w.setS r wit | none => e.w))

/-- BFILL (R350). -/
def execBfill (d : BitVec 8) (a : SReg) (w : OptS) (s : State) : Host.Outcome State Fault Refusal :=
  issueReg (.bfill d a w) s (fun e => do
    let at_ := e.w.s a
    e.witnessOk (e.optS w)
    let head ← e.arrayCheck at_ 16
    e.witnessIn (e.optS w)
    let hbs ← e.readRuns head allLanes
    let h := limbHeader hbs
    if h.bad then trapping .format at_
    else if h.len > 33 then trapping .length (BitVec.ofNat 64 h.len)
    else
      let runs ← e.arrayCheck at_ (16 + 4 * h.len)
      let bs ← e.readRuns runs (e.limbLanes (at_.toNat + 16) h.len)
      let m := limbsOf h.len (bs.drop 16)
      e.w.putBig d (if h.sign = 1 then -(m : Int) else m))

end Sys2Proof.Machine
end

