-- ==== Sys2Proof/Machine/Engine.lean ====
section
/-! DEFINITION. What the engines share: the translation set of a command, parking, the reads and writes of its ranges, and
how it ends (R39, R42, R55, R126). -/

namespace Sys2Proof.Machine

/-! ### Free values (log 6) -/

/-- The n-th free value from now on. -/
def Sys.freeAt (y : Sys) (n : Nat) : Word := Config.freeValue (y.free + n)

/-- n free bytes. -/
def Sys.freeBytes (y : Sys) (n : Nat) : List Byte := (List.range n).map (fun i => (y.freeAt (i + 1)).setWidth 8)

/-- `n` free values are used up. -/
def Sys.useFree (y : Sys) (n : Nat) : Sys := { y with free := y.free + n }

/-! ### The Sillage table (R433, R434) -/

/-- The place of a counter in an entry: BUSY p at p, then IDLEW, IDLEN, ARRAY, ACCORD, COPY, and BYTES. -/
def silIdlew : Nat := 6
def silIdlen : Nat := 7
def silBytes : Nat := 12

/-- A counter of an entry grows, and stops at its largest value. -/
def Sys.sillageAdd (y : Sys) (core phase field n : Nat) : Sys :=
  let key := core * 64 + phase
  let e := Table.getD y.ctl.sillage key (Vector.replicate 14 0)
  let top := if field = silBytes then 2 ^ 64 - 1 else 2 ^ 32 - 1
  let e1 := e.setIfInBounds field (Nat.min top (e.toList.getD field 0 + n))
  { y with ctl := { y.ctl with sillage := Table.set y.ctl.sillage key e1 } }

/-! ### Commands waiting for their engine -/

/-- A command that has not started, or that its ticket has resumed (R39). -/
def Op.waiting (p : Op) : Bool :=
  match p.stage with
  | .queued | .resumed => true
  | _ => false

/-- The firewall has frozen the engine (R55). The host port is none: the freeze of a host function holds no page command of a context. -/
def Sys.frozenBy (y : Sys) (o : Origin) : Bool := o != .host && y.freezes.any (fun f => f.requester == o && !f.released)

/-- A command that has not started may do so: neither its context nor its engine is frozen, and its die is not halted
(R55, R453). -/
def Sys.mayBegin (y : Sys) (p : Op) (o : Origin) : Bool :=
  !(y.context p.ctx).frozen && !y.frozenBy o && !y.ctl.held && !(y.die (dieOf p.core)).halted

/-- The command may be taken up; one that has started (`pos`) goes on. -/
def Sys.mayServe (y : Sys) (p : Op) (o : Origin) : Bool :=
  p.waiting && (y.mayBegin p o || (p.pos != 0 && !y.frozenBy o && !y.ctl.held))

/-- Who faults on behalf of a command (R41): `kind` and `unit` of its engine. DESIGN CHOICE (log 103): the manual does not say whether
the warp slot and the partition are those of the issuing warp; they are 0. -/
def Op.requester (p : Op) (kind unit : Nat) : Requester := { kind, slot := 0, part := 0, unit, pc := p.pc }

/-! ### Translation sets of commands (R36, R39, R42) -/

/-- The touches of a range by an engine. -/
def engineTouches (acc : Access3) (a n : Nat) : List Touch :=
  (rangePages a n).map (fun p =>
    let lo := Nat.max a (p * 65536)
    { lane := 32, va := lo, len := Nat.min (a + n) ((p + 1) * 65536) - lo, acc })

/-- The outcome of a command's set: it goes on; it waits, or is parked, as the change says; or a cause ends it. -/
inductive EngineSet where
  | go (y : Sys)
  | hold (u : Upd)
  | stop (u : Upd) (t : TrapInfo)

/-- A command processor's own signal (R179), which is no engine command. -/
def Op.isSignal (p : Op) : Bool :=
  match p.instr with
  | .dsig _ _ _ _ _ => p.warp.isNone
  | _ => false

/-- The record of the task whose engine command this is (R172). -/
def Sys.taskRecord (y : Sys) (p : Op) : Option (List Word) :=
  if p.warp.isSome || p.isSignal then none
  else (y.block? p.block).bind (fun k => match k.job with
    | .task _ _ _ r => some r
    | .grid _ _ => none)

/-- The word-2 address of an engine task, unless it is 0 (R170). -/
def Sys.wordTwo (y : Sys) (p : Op) : Option Nat :=
  match y.taskRecord p with
  | some r => let v := (r.getD 2 0).toNat; if v = 0 then none else some v
  | none => none

/-- The command keeps the leaf of its task's word-2 page for the write at its end. -/
def Sys.keepWordTwo (y : Sys) (p : Op) (die : Nat) : Sys :=
  match y.wordTwo p with
  | none => y
  | some v => match y.leafOf (.op p.id) none die p.ctx v with
    | none => y
    | some x => y.modOp p.id (fun q =>
        { q with set := q.set.filter (fun l => l.vpage != v / 65536) ++ [{ vpage := v / 65536, level := x.1, pte := x.2 }] })

/-- What a command has under way outside the package or at a sector of the host's is given up: it starts anew. -/
def Sys.dropHeld (y : Sys) (op : Nat) : Sys := { y with reqs := y.reqs.filter (fun r => !(r.op == op && r.isHeld)) }

/-- The translation set of a command, built by the engine `o` of a die; a task's word-2 page belongs to it (R172). -/
def engineSet (s : State) (p : Op) (r : Requester) (o : Origin) (die : Nat) (touches : List Touch) : EngineSet :=
  let ts := touches ++ (match s.sys.wordTwo p with
    | some v => engineTouches .engineWrite v 8
    | none => [])
  if (s.sys.wordTwo p).any (fun v => decide (2 ^ 56 ≤ v)) then
    .stop (.of s.sys) { trapOf .protection (BitVec.ofNat 64 ((s.sys.wordTwo p).getD 0)) with reason := .noncanon }
  else match s.sys.unknown (.op p.id) none die p.ctx ts with
  | [] =>
    let y := s.sys.forget (.op p.id)
    let s1 : State := { s with sys := y }
    match setFate true (s.sys.fates (.op p.id) .engine none die p.ctx ts) with
    | .proceed => .go (s.sys.keepWordTwo p die)
    | .refuse why _ va keys =>
      let t := { trapOf .protection (BitVec.ofNat 64 va) with reason := why }
      if why = .firewall then
        .stop (freezeContext s1 o p.ctx (keys.headD (0, false))) t
      else .stop (.of y) t
    | .broken why _ va => .stop (.of y) { trapOf .memError (BitVec.ofNat 64 va) with reason := why }
    | .fault ps _ va =>
      if y.noDest p.ctx die ps then .stop (.of y) (trapOf .page (BitVec.ofNat 64 va))
      else
        let s2 : State := { s1 with sys := (y.dropHeld p.id).modOp p.id (fun q =>
          { q with stage := .parked (lowestPage ps), set := [], lost := [] }) }
        .hold (recallFirst s (postFaults s2 p.ctx die r ps))
  | missing => .hold (.of (missing.foldl (fun y v => y.miss (.op p.id) die p.ctx v) s.sys))

/-- The runs of a range of a command's set. -/
def Sys.engineRuns (y : Sys) (op die ctx a n : Nat) : List Run :=
  mainRuns y (fun v => y.leafOf (.op op) none die ctx (v * 65536)) a n

/-- A range that passes the end of the virtual space, or starts past it, is not canonical (R18). -/
def farRange (a n : Nat) : Bool := a + n > 2 ^ 56 || a ≥ 2 ^ 56

/-- The lowest address of some ranges that is not canonical, as PROTECTION (R36, R386). -/
def farTrap (l : List (Nat × Nat)) : Option TrapInfo :=
  match (l.filter (fun r => farRange r.1 r.2)).map (fun r => Nat.max r.1 (2 ^ 56)) with
  | [] => none
  | a :: r => some { trapOf .protection (BitVec.ofNat 64 (r.foldl Nat.min a)) with reason := .noncanon }

/-- How a bin records that a page refused its ring write, as against one parked on the page's ticket (R428). -/
def refusedAt (vpage : Nat) : Nat := vpage + 2 ^ 40

/-! ### Ends -/

/-- A command ends with a status; its cause, when it has one, goes to its flag at completion. -/
def Op.ends (p : Op) (status : Nat) (err : Option TrapInfo) : Op := { p with status, err, stage := .done }

/-- The change of a command that ends; what it had under way outside the package is given up. -/
def endCommand (u : Upd) (op status : Nat) (err : Option TrapInfo) : Upd :=
  { u with sys := (u.sys.dropHeld op).modOp op (fun p => p.ends status err) }

/-- A read failure of an engine, as MEM_ERROR (R155). -/
def memTrap (f : Reason × Nat) : TrapInfo := { trapOf .memError (BitVec.ofNat 64 f.2) with reason := f.1 }

/-- Bytes written to runs, with their witness merged into the command's (R126). -/
def engineWrite (o : Origin) (op : Nat) (rs : List Run) (bs : List Byte) (s : State) : Upd :=
  match s.sys.op? op with
  | none => .of s.sys
  | some p =>
    let y := s.sys.modOp op (fun q => { q with out := merge q.out (s.sys.runsWit o op rs) })
    runsWrite o op p.ctx rs bs { s with sys := y }

/-- Part of a destination that a command had begun to write when a read failed holds values the manual leaves open: how
many bytes, and which (R355; log 6). -/
def partialWrite (o : Origin) (op : Nat) (rs : List Run) (s : State) : Upd :=
  let n := (rs.map (·.len)).foldl (· + ·) 0
  let k := (s.sys.freeAt 0).toNat % (n + 1)
  let bs := s.sys.freeBytes k
  let cut := rs.foldl (fun (acc : List Run × Nat) r =>
    (if acc.2 = 0 then acc.1 else acc.1 ++ [{ r with len := Nat.min r.len acc.2 }], acc.2 - r.len)) ([], k)
  engineWrite o op cut.1 bs { s with sys := s.sys.useFree (n + 1) }

/-- What a command's witness allows: it goes on, it waits, or it is bad. -/
def Sys.commandWit (y : Sys) (r : Reader) (p : Op) : Judge := y.satisfied r p.wit

end Sys2Proof.Machine
end

