-- ==== Sys2Proof/Machine/Long.lean ====
section
/-! DEFINITION. The long-number engine, MAJ 0x22 (R354 to R359, R507). -/

namespace Sys2Proof.Machine

/-! ### Issue (R354) -/

/-- A command of MAJ 0x22 or 0x29: its operands read at issue, its two result registers pending. DEDUCED (log 109): a bad witness traps
WITNESS at issue for MAJ 0x22 as for 0x29; R102 has every operation that consumes a witness trap, and R355 gives no status for it. -/
def Env.sendCommand (e : Env) (d a b c : SReg) (fs : Bool) : Except Hold Upd :=
  match e.witnessOk (e.w.s d) with
  | .error h => .error h
  | .ok () =>
    e.send e.y e.w { e.op fs with wit := e.w.s d, args := [e.w.s a, e.w.s b, e.w.s c],
                                  pendS := [d.toNat, d.toNat + 1] }

/-- LMUL (R356). -/
def execLmul (d a b c : SReg) (fs : Bool) (s : State) : Host.Outcome State Fault Refusal :=
  issue (.lmul d a b c fs) s (fun e => e.sendCommand d a b c fs)

/-- LADD (R356). -/
def execLadd (d a b c : SReg) (sub fs : Bool) (s : State) : Host.Outcome State Fault Refusal :=
  issue (.ladd d a b c sub fs) s (fun e => e.sendCommand d a b c fs)

/-- NTTF (R356). -/
def execNttf (d a b c : SReg) (fs : Bool) (s : State) : Host.Outcome State Fault Refusal :=
  issue (.nttf d a b c fs) s (fun e => e.sendCommand d a b c fs)

/-- NTTI (R356). -/
def execNtti (d a b c : SReg) (fs : Bool) (s : State) : Host.Outcome State Fault Refusal :=
  issue (.ntti d a b c fs) s (fun e => e.sendCommand d a b c fs)

/-! ### Status codes (R355) -/

def longLength : Nat := 1
def longFormat : Nat := 2
def longParam : Nat := 3
def longRange : Nat := 4
def longOverlap : Nat := 5

/-- The status of a cause. -/
def longStatus (c : Cause) : Nat :=
  match c with
  | .memError => 6
  | .page => 7
  | _ => 8

/-! ### Number-theoretic transforms (R358) -/

/-- b^e mod p, by the bits of e. -/
def powMod (p b e : Nat) : Nat → Nat
  | 0 => 1 % p
  | n + 1 =>
    let h := powMod p (b * b % p) (e / 2) n
    if e % 2 = 1 then b * h % p else h

/-- b^e mod p for e below 2^64. -/
def powm (p b e : Nat) : Nat := powMod p (b % p) e 64

/-- The primes of R358; all have the primitive root 3. -/
def nttPrime (i : Nat) : Nat := [469762049, 998244353, 167772161].getD i 1

/-- Σ x_j · w^(jk) mod p. -/
def nttSum (p w k : Nat) (xs : List Nat) : Nat :=
  let wk := powm p w k
  (xs.foldl (fun (a : Nat × Nat) x => ((a.1 + x * a.2) % p, a.2 * wk % p)) (0, 1 % p)).1

/-- The forward transform. -/
def nttForward (p logn : Nat) (xs : List Nat) : List Nat :=
  let w := powm p 3 ((p - 1) / 2 ^ logn)
  (List.range (2 ^ logn)).map (fun k => nttSum p w k xs)

/-- The inverse transform. -/
def nttInverse (p logn : Nat) (xs : List Nat) : List Nat :=
  let w := powm p (powm p 3 ((p - 1) / 2 ^ logn)) (p - 2)
  let ninv := powm p (2 ^ logn) (p - 2)
  (List.range (2 ^ logn)).map (fun k => ninv * nttSum p w k xs % p)

/-- The 32-bit values of bytes. -/
def words32 (n : Nat) (bs : List Byte) : List Nat := (List.range n).map (fun i => leValue ((bs.drop (4 * i)).take 4))

/-! ### Service (R354, R357, R507) -/

/-- The engine, its reader and its requester of R41. -/
def Op.longOrigin (p : Op) : Origin := .long (clusterOf p.core)

/-- The command belongs to the long-number engine. -/
def Op.isLong (p : Op) : Bool :=
  match p.instr with
  | .lmul _ _ _ _ _ | .ladd _ _ _ _ _ _ | .nttf _ _ _ _ _ | .ntti _ _ _ _ _ => true
  | _ => false

/-- An earlier command of the cluster's engine is not over; a parked one does not hold the others (log 17). -/
def Sys.longBehind (y : Sys) (p : Op) : Bool :=
  y.ops.any (fun q => decide (q.id < p.id) && q.isLong && clusterOf q.core == clusterOf p.core &&
    (match q.stage with | .parked _ => false | _ => true))

/-- The command's set, in its engine's name. -/
def longSet (s : State) (p : Op) (ts : List Touch) : EngineSet :=
  engineSet s p (p.requester 2 (clusterOf p.core)) p.longOrigin (dieOf p.core) ts

/-- The two numbers and the exact result of LMUL or LADD. -/
def longResult (i : Instr) (x y : Int) : Int :=
  match i with
  | .lmul _ _ _ _ _ => x * y
  | .ladd _ _ _ _ true _ => x - y
  | _ => x + y

/-- The bound on the result's length (R507). -/
def longBound (i : Instr) (lx ly : Nat) : Nat :=
  match i with
  | .lmul _ _ _ _ _ => lx + ly
  | _ => Nat.max lx ly + 1

/-- A forbidden overlap of the destination with a source (R356, R507). -/
def longOverlaps (i : Instr) (d dn x xn : Nat) : Bool :=
  overlaps d dn x xn && (match i with
    | .lmul _ _ _ _ _ => true
    | _ => d != x)

/-- The signed value of a limb array. -/
def arrayValue (h : LimbHeader) (bs : List Byte) : Int :=
  let m := limbsOf h.len bs
  if h.sign = 1 then -(m : Int) else m

/-- The last stage of LMUL and LADD: sources read, the result formed and written (R242, R357). -/
def longNumbers (p : Op) (d x y : Nat) (hd hx hy : LimbHeader) (s : State) : Upd :=
  let die := dieOf p.core
  let o := p.longOrigin
  let m := Nat.min hd.cap (longBound p.instr hx.len hy.len)
  let rx := s.sys.engineRuns p.id die p.ctx (x + 16) (4 * hx.len)
  let ry := s.sys.engineRuns p.id die p.ctx (y + 16) (4 * hy.len)
  let dst := s.sys.engineRuns p.id die p.ctx d (16 + 4 * m)
  match s.sys.pass p o (rx ++ ry) dst with
  | .error z => .of z
  | .ok z =>
    let s : State := { s with sys := z }
    let fail := fun f => endCommand (partialWrite o p.id (s.sys.engineRuns p.id die p.ctx (d + 16) (4 * m)) s) p.id 6
      (some (memTrap f))
    match s.sys.readFails p (rx ++ ry), s.sys.writeFails p dst with
    | some f, _ => fail f
    | none, some f => fail f
    | none, none =>
      let v := longResult p.instr (arrayValue hx (runBytes s.mem rx)) (arrayValue hy (runBytes s.mem ry))
      let n := limbCount v.natAbs
      if hd.cap < n then endCommand (idle s) p.id longLength none
      else
        let y1 := s.sys.runsRead p.ctx (rx ++ ry)
        let run := fun off len => y1.engineRuns p.id die p.ctx (d + off) len
        let u1 := engineWrite o p.id (run 0 8) (leBytes 4 n ++ leBytes 4 (if v < 0 then 1 else 0)) { s with sys := y1 }
        let u2 := Upd.andThen { s with sys := y1 } u1 (engineWrite o p.id (run 12 4) (leBytes 4 0))
        let u3 := Upd.andThen { s with sys := y1 } u2 (engineWrite o p.id (run 16 (4 * n)) (leBytes (4 * n) v.natAbs))
        endCommand u3 p.id 0 none

/-- LMUL and LADD: the headers, their checks, the remaining ranges (R507). -/
def longArith (p : Op) (s : State) : Upd :=
  let arg := fun j => (p.args.getD j 0).toNat
  let d := arg 0
  let x := arg 1
  let y := arg 2
  let die := dieOf p.core
  let quit := fun st => endCommand (idle s) p.id st none
  match farTrap [(d, 16), (x, 16), (y, 16)] with
  | some t => endCommand (idle s) p.id 8 (some t)
  | none =>
    if d % 16 != 0 || x % 16 != 0 || y % 16 != 0 then quit longFormat
    else match longSet s p ([d, x, y].flatMap (fun a => engineTouches .read a 16)) with
      | .hold u => u
      | .stop u t => endCommand u p.id (longStatus t.cause) (some t)
      | .go y1 =>
        let run := fun a => y1.engineRuns p.id die p.ctx a 16
        let all := run d ++ run x ++ run y
        match y1.pass p p.longOrigin all [] with
        | .error z => .of z
        | .ok y1 => match y1.readFails p all with
          | some f => endCommand (.of y1) p.id 6 (some (memTrap f))
          | none =>
            let head := fun a => limbHeader (runBytes s.mem (run a))
            let hd := head d
            let hx := head x
            let hy := head y
            let m := Nat.min hd.cap (longBound p.instr hx.len hy.len)
            if hd.bad || hx.bad || hy.bad then quit longFormat
            else if hx.len > 2 ^ 21 || hy.len > 2 ^ 21 then quit longLength
            else
              let beyond := fun a (h : LimbHeader) => longOverlaps p.instr d (16 + 4 * m) a (16 + 4 * h.len)
              if beyond x hx || beyond y hy then quit longOverlap
              else match farTrap [(d, 16 + 4 * m), (x, 16 + 4 * hx.len), (y, 16 + 4 * hy.len)] with
                | some t => endCommand (idle s) p.id 8 (some t)
                | none =>
                  let s1 : State := { s with sys := y1.runsRead p.ctx all }
                  match longSet s1 p (engineTouches .engineWrite d (16 + 4 * m) ++
                      engineTouches .read (x + 16) (4 * hx.len) ++ engineTouches .read (y + 16) (4 * hy.len)) with
                  | .hold u => u
                  | .stop u t => endCommand u p.id (longStatus t.cause) (some t)
                  | .go y2 => longNumbers p d x y hd hx hy { s1 with sys := y2 }

/-- The last stage of a transform. -/
def longTransform (p : Op) (inv : Bool) (out inp prime logn : Nat) (s : State) : Upd :=
  let die := dieOf p.core
  let o := p.longOrigin
  let n := 2 ^ logn
  let src := s.sys.engineRuns p.id die p.ctx inp (4 * n)
  let dst := s.sys.engineRuns p.id die p.ctx out (4 * n)
  match s.sys.pass p o src dst with
  | .error z => .of z
  | .ok z =>
    let s : State := { s with sys := z }
    match s.sys.readFails p src, s.sys.writeFails p dst with
    | some f, _ => endCommand (partialWrite o p.id dst s) p.id 6 (some (memTrap f))
    | none, some f => endCommand (partialWrite o p.id dst s) p.id 6 (some (memTrap f))
    | none, none =>
      let xs := words32 n (runBytes s.mem src)
      if xs.any (fun v => decide (prime ≤ v)) then endCommand (idle s) p.id longRange none
      else
        let ys := if inv then nttInverse prime logn xs else nttForward prime logn xs
        let y1 := s.sys.runsRead p.ctx src
        endCommand (engineWrite o p.id dst (ys.flatMap (leBytes 4)) { s with sys := y1 }) p.id 0 none

/-- NTTF and NTTI (R358). -/
def longNtt (p : Op) (inv : Bool) (s : State) : Upd :=
  let out := (p.args.getD 0 0).toNat
  let inp := (p.args.getD 1 0).toNat
  let par := p.args.getD 2 0
  let logn := bits par 4 0
  let quit := fun st => endCommand (idle s) p.id st none
  if bits par 63 10 != 0 || bits par 7 5 != 0 || logn = 0 || logn ≥ 24 || bits par 9 8 = 3 ||
      out % 64 != 0 || inp % 64 != 0 then quit longParam
  else
    let len := 4 * 2 ^ logn
    match farTrap [(out, len), (inp, len)] with
    | some t => endCommand (idle s) p.id 8 (some t)
    | none =>
      if overlaps out len inp len && out != inp then quit longOverlap
      else match longSet s p (engineTouches .engineWrite out len ++ engineTouches .read inp len) with
        | .hold u => u
        | .stop u t => endCommand u p.id (longStatus t.cause) (some t)
        | .go y1 => longTransform p inv out inp (nttPrime (bits par 9 8)) logn { s with sys := y1 }

/-- LONG_COMMAND_START (R354): the engine takes the next command in arrival order once its witness is satisfied. -/
def execLongCommandStart (op : Nat) (s : State) : Host.Outcome State Fault Refusal :=
  machineStep s (
    match s.sys.op? op with
    | none => idle s
    | some p =>
      if !p.isLong || !s.sys.mayServe p p.longOrigin || s.sys.longBehind p then idle s
      else match s.sys.commandWit (clusterReader (clusterOf p.core)) p with
        | .wait => idle s
        | .bad => endCommand (idle s) op 8 (some (trapOf .witness p.wit))
        | .yes =>
          match p.instr with
          | .nttf _ _ _ _ _ => longNtt p false s
          | .ntti _ _ _ _ _ => longNtt p true s
          | _ => longArith p s)

end Sys2Proof.Machine
end

