-- ==== Sys2Proof/Machine/Fetch.lean ====
section
/-! DEFINITION. Instruction fetch through the core's instruction cache (R38, R210 to R213, R219, R220), which
sub-warps may issue, and the checks of a transfer's target (R395). -/

namespace Sys2Proof.Machine

/-- A code word through the instruction cache: the cached word, else the word in memory (R219). -/
def State.codeWord (s : State) (core key : Nat) : Word :=
  match s.sys.icache.find? (fun e => e.1 == core && e.2.1 == key) with
  | some e => e.2.2
  | none => s.mem.word key

/-- The cache of the core holds the word. -/
def Sys.hasCode (y : Sys) (core key : Nat) : Bool := y.icache.any (fun e => e.1 == core && e.2.1 == key)

/-- The cache holds the word after the fetch; a word it lacked has been read at its home for the context and the virtual page (R149). -/
def Sys.cacheWord (y : Sys) (core key : Nat) (w : Word) (ctx vpage : Nat) : Sys :=
  if y.hasCode core key then y
  else
    let y1 := y.fillFor key 8 false ctx vpage
    { y1 with icache := y1.icache ++ [(core, key, w)] }

/-- The cache lacks a code word, and its home cannot give it at once (R89, R155, R156, R159). -/
def Sys.codeAway (y : Sys) (core key : Nat) : Bool :=
  !y.hasCode core key && ((y.accessFails key 8 true).isSome || offPackage key || !y.quiet key 8)

/-- A core's cache drops every word it holds (R219). -/
def Sys.dropCode (y : Sys) (core : Nat) : Sys := { y with icache := y.icache.filter (fun e => e.1 != core) }

/-- The word is a clause header (R192). -/
def isHeaderWord (w : Word) : Bool := bits w 63 56 == 0x7F

/-- The header of a word, when the word is a well-formed one. -/
def headerOf (w : Word) : Option Header :=
  match decode w with
  | .ok (.clauseStart h) => some h
  | _ => none

/-- An imprecise cause can be delivered to the sub-warp now (R443). -/
def Sys.hasImprecise (y : Sys) (w : Warp) (b : Sub) : Bool :=
  y.imprecise.any (fun m => m.warp == w.id &&
    (m.sub == b.id || (!w.subs.any (fun v => v.id == m.sub) && (m.lanes &&& b.lset) != 0)))

/-- The unit of a pre-emption names the block (R454). -/
def unitNames (u : PreemptUnit) (k : Block) : Bool :=
  match u with
  | .block id => id == k.id
  | .context c => c == k.ctx
  | .cluster grid cluster => match k.job with
    | .grid launch flat => launch == grid && flat / Nat.max k.size 1 == cluster
    | .task _ _ _ _ => false

/-- A pre-emption request names the block (R454). -/
def Sys.preempting (y : Sys) (k : Block) : Option Preempt := y.preempts.find? (fun p => unitNames p.unit k)

/-- The sub-warp may go on from a clause boundary (R441, R443, R448, R453, R55, R454): nothing is due there first. -/
def Sys.mayStart (y : Sys) (w : Warp) (k : Block) (o : Option Nat) (b : Sub) : Bool :=
  !(y.context k.ctx).frozen && !(y.die (dieOf k.core)).halted && !y.ctl.held &&
  (match o with
    | none => (y.preempting k).isNone
    | some _ => w.halt.isNone && !y.hasImprecise w b &&
        (match w.handler with | some d => d.has b.id | none => true))

/-- The wait is one that ends by issuing again: the word tests its condition anew. -/
def Wait.retries : Wait → Bool
  | .none | .flags _ | .flagFull _ | .clock | .witness _ | .translating _ | .binRoom _ _ | .counter _ _ | .copyRoom _ _ | .scratch _
  | .tiles _ | .queue _ _ | .streams _ | .abandoned => true
  | _ => false

/-- A stream of the access context is parked (R334). -/
def Access.parked (a : Access) : Bool :=
  a.jobs.toList.any (fun l => l.any (fun j => match j with
    | .stream t => t.parked.isSome
    | .mark _ => false))

/-- The sub-warp can be given the issue port: its block has started, it is not parked, waiting, halted or frozen
(R430). -/
def Sys.canIssue (y : Sys) (w : Warp) (k : Block) (o : Option Nat) (b : Sub) : Bool :=
  k.started && !b.stopped && !y.ctl.held && b.wait.retries && !w.subs.any (fun v => v.wait == .debugger) &&
  (match o, w.access with | none, some a => !a.ended && !a.parked | none, none => false | _, _ => true) &&
  (match b.place with
    | .boundary => y.mayStart w k o b
    | _ => true)

/-- What a fetch gives: an instruction and the state it leaves, or another change. -/
inductive Fetched where
  | run (i : Instr) (y : Sys)
  | change (u : Upd)

end Sys2Proof.Machine

namespace Sys2Proof

/-- The last word of the clause lies in the header's page (R212). -/
def Header.inPage (h : Header) (addr : Word) : Bool :=
  addr.toNat % 65536 + 8 * h.len.toNat < 65536

/-- An access-slice header: WAIT 0, SETA and SETB none (R218). -/
def Header.accessOk (h : Header) : Bool := h.wait == 0 && h.seta == 15 && h.setb == 15

end Sys2Proof

namespace Sys2Proof.Machine

/-- The originating PC of the cause that a warp is handling (R445, R452). -/
def Warp.handledPC (w : Warp) (d : Handler) : Word :=
  if bits w.tinfo 52 0 = 0 then d.epc else BitVec.ofNat 64 (bits w.tinfo 52 0 * 8)

/-- A cause of the fetch of a clause. In handler mode it makes the trap unhandled (R447, R449): at the entry clause
the record carries the original cause and PC. -/
def fetchTrap (s : State) (w : Warp) (o : Option Nat) (b : Sub) (t : TrapInfo) : Upd :=
  match o, w.handler with
  | some _, some d =>
    if d.has b.id then
      if d.entered then unhandled s w t b.pc 0
      else unhandled s w { t with cause := d.cause, tval := w.tval, tlanes := w.tlanes } (w.handledPC d)
        (if t.cause = .illegal then 0xFE else t.reason.code)
    else takeTrap s w o b t
  | _, _ => takeTrap s w o b t

/-- The decoded word, or ILLEGAL with the word (R220). -/
def decoded (s : State) (y : Sys) (w : Warp) (o : Option Nat) (b : Sub) (word : Word) : Fetched :=
  match decode word with
  | .ok i => .run i y
  | .error _ => .change (takeTrap { s with sys := y } w o b (trapOf .illegal word))

/-- What becomes of a code word that is read at `va`. The cache gives it, or its home, which holds the read while a write to the word is not
visible (R89); a word outside the package comes by a request of its line (R156, R163). Where the home cannot give it, or the request
fails, the fetch raises MEM_ERROR with that address (R159; DEDUCED, log 111). -/
def fetchWord (s : State) (y : Sys) (w : Warp) (o : Option Nat) (b : Sub) (k : Block) (va : Word) (key : Nat)
    (f : Word → Sys → Fetched) : Fetched :=
  let word := s.codeWord k.core key
  let fails := fun (z : Sys) (r : Reason) => Fetched.change (fetchTrap { s with sys := z } w o b { trapOf .memError va with reason := r })
  if y.hasCode k.core key then f word y
  else match y.accessFails key 8 false with
  | some r => fails y r
  | none =>
    if !y.quiet key 8 then .change (.of (y.holdRead (.warp w.id) [(key, 8)]))
    else match y.asks (.sub w.id o) (.part k.core w.part) k.ctx [(key / 64 * 64, va.toNat)] with
      | .error z => .change (.of z)
      | .ok (z, lost) =>
        match (lost.head?.map (·.2)).orElse (fun _ => z.accessFails key 8 true) with
        | some r => fails z r
        | none => f word (z.cacheWord k.core key word k.ctx (va.toNat / 65536))

/-- Where a target that is no clause header traps: at the word that transferred to it, with the target (R211, R395, log 13); a header word
that is no header traps where it stands (R220). -/
def Sub.strayed (b : Sub) (word : Word) : Sub × TrapInfo :=
  match b.came with
  | some (pc, h) => ({ b with pc, place := if pc = h then .boundary else .resume h, came := none }, trapOf .illegal b.pc)
  | none => ({ b with pc := b.header, place := .boundary }, trapOf .illegal word)

/-- The word at a sub-warp's pc (R210): a header at a boundary, the next word inside a clause, or the word to resume
at, whose clause is fetched again from its recorded header (R413). DESIGN CHOICE (log 121): a resume address that is no word of its clause as
it is fetched again, past its end or not a multiple of 8 from its header, traps ILLEGAL with EPC there and TVAL the header word. -/
def fetch (s : State) (w : Warp) (o : Option Nat) (b : Sub) (k : Block) : Fetched :=
  let core := k.core
  match b.place with
  | .inside c =>
    fetchWord s s.sys w o b k b.pc (s.sys.placed c.map (c.key + (b.pc - c.addr).toNat)) (fun word y => decoded s y w o b word)
  | _ =>
    let at_ := b.header
    if at_.toNat / 2 ^ 56 != 0 then
      .change (fetchTrap s w o b { trapOf .protection at_ with reason := .noncanon })
    else
      let e : Env := { s, w, b, o, k, i := .nop }
      match e.translateWith (fun s1 t => fetchTrap s1 w o b t) [{ lane := 32, va := at_.toNat, len := 8, acc := .fetch }] with
      | .error (.change u) => .change u
      | .error (.trap t) => .change (fetchTrap s w o b t)
      | .error (.wait _) => .change (idle s)
      | .ok y =>
        match y.vaBase e.asker (some core) (dieOf core) k.ctx at_.toNat with
        | none => .change (idle s)
        | some (base, map) =>
          fetchWord s y w o b k at_ (y.placed map base) (fun word y1 =>
            match headerOf word with
            | none =>
              let x := b.strayed word
              .change (fetchTrap { s with sys := y1 } (w.setSub o x.1) o x.1 x.2)
            | some h =>
              match b.place with
              | .resume _ =>
                let c : Clause := { addr := at_, h, key := base, map }
                if b.pc = c.next then
                  .change (.of (y1.setWarp (w.setSub o { b with place := .boundary })))
                else if (b.pc - at_).toNat % 8 != 0 || (b.pc - at_).toNat > 8 * h.len.toNat then
                  .change (fetchTrap { s with sys := y1 } w o b (trapOf .illegal word))
                else if !h.inPage at_ || (o.isNone && !h.accessOk) then
                  .change (fetchTrap { s with sys := y1 } w o { b with pc := at_, place := .boundary } (trapOf .illegal word))
                else
                  let b1 := { b with place := .inside c }
                  let w1 := w.setSub o b1
                  fetchWord s (y1.setWarp w1) w1 o b1 k b.pc (y.placed map (base + (b.pc - at_).toNat))
                    (fun word2 y2 => decoded s y2 w1 o b1 word2)
              | _ => .run (.clauseStart h) y1)

/-- What a waiting word has kept of its set, as its walks brought it, on the die it now runs on (R289, R307). -/
def Sys.recallSet (y : Sys) (a : Asker) (k : Block) (l : List PageLeaf) : Sys :=
  let keep := l.map (fun p : PageLeaf =>
    ({ asker := a, die := dieOf k.core, ctx := k.ctx, vpage := p.vpage, walk := .leaf p.level p.pte } : Found))
  { y with found := y.found ++ keep.filter (fun f => !y.found.contains f) }

/-- A word that starts anew, behind no wait, holds nothing of an earlier set (R35); one that waited behind its set has it still. -/
def State.freshSet (s : State) (c : Nat × Option Nat) : State :=
  match s.sys.warp? c.1 with
  | none => s
  | some w =>
    match w.sub? c.2, s.sys.block? w.block with
    | some b, some k =>
      if b.wait = .none then { s with sys := s.sys.forget (.sub c.1 c.2) }
      else if b.set.isEmpty then s
      else { s with sys := s.sys.recallSet (.sub c.1 c.2) k b.set }
    | _, _ => s

/-- What the next step of the issuing warps runs: the fetched word of the first selected sub-warp, or a change. -/
def fetchSelected (s0 : State) (c : Nat × Option Nat) : Fetched :=
  let s := s0.freshSet c
  match s.sys.warp? c.1 with
  | none => .change (idle s)
  | some w =>
    match w.sub? c.2, s.sys.block? w.block with
    | some b, some k => if s.sys.canIssue w k c.2 b then fetch s w c.2 b k else .change (idle s)
    | _, _ => .change (idle s)

/-! ### Targets of transfers (R395) -/

/-- The checks of a taken transfer's target: NONCANON, ALIGN for an indirect target, and a header at the target, where its word can be
read at once. Where the target's page or its code word raises a cause, or faults replayably, the transfer is made, and the fetch of the
clause raises it there (R38); the fetch then also finds a target that is no header (log 13). `t` is the exact target. -/
def Env.target (e : Env) (t : Int) (indirect : Bool) : Except Hold Word :=
  let tw := wrap 64 t
  if t < 0 || t ≥ 2 ^ 56 then .error (.trap { trapOf .protection tw with reason := .noncanon })
  else if indirect && t % 8 != 0 then .error (.trap (trapOf .align tw))
  else
    let core := e.k.core
    let die := dieOf core
    match e.y.known e.asker (some core) die e.k.ctx (tw.toNat / 65536) with
    | none =>
      .error (.change (.of ((e.y.miss e.asker die e.k.ctx (tw.toNat / 65536)).setWarp
        (e.w.setSub e.o (e.b.missing [tw.toNat / 65536])))))
    | some walk =>
      match walk, e.y.fate .core e.k.ctx { lane := 32, va := tw.toNat, len := 8, acc := .fetch } walk,
            e.y.vaKey e.asker (some core) die e.k.ctx tw.toNat with
      | .leaf _ _, .fine, some key =>
        if e.y.codeAway core key || isHeaderWord (e.s.codeWord core key) then .ok tw else .error (.trap (trapOf .illegal tw))
      | _, _, _ => .ok tw

end Sys2Proof.Machine
end

