-- ==== Sys2Proof/Machine/Clause.lean ====
section
/-! DEFINITION. The start of a clause (R189, R212, R213, R218, R414). -/

namespace Sys2Proof.Machine

/-- The flags that WAIT names, ascending. -/
def waitFlags (m : BitVec 12) : List Nat := (List.range 12).filter (fun k => m.getLsbD k)

def Warp.flag (w : Warp) (k : Nat) : Flag := w.flags[k]?.getD { count := 0, err := none }

def Warp.setFlag (w : Warp) (k : Nat) (f : Flag) : Warp := { w with flags := w.flags.setIfInBounds k f }

/-- The lowest-numbered named flag with E set, and its record (R189). -/
def Warp.flagError (w : Warp) (m : BitVec 12) : Option (Nat × TrapInfo) :=
  (waitFlags m).findSome? (fun k => (w.flag k).err.map (fun t => (k, t)))

/-- A pending pre-emption request and a hint save the warp at this boundary (R414, R454): one sub-warp, not in handler
mode, and PP = 1. -/
def Env.savesHere (e : Env) (h : Header) : Bool :=
  e.o.isSome && e.w.hint.isSome && h.pp && e.w.subs.length == 1 && e.w.handler.isNone &&
    (e.y.preempting e.k).isSome

/-- The warp after the clause has started; `at_` is its key before placement, and its mapping. -/
def Env.started (e : Env) (h : Header) (at_ : Nat × Nat) : Warp :=
  let c : Clause := { addr := e.b.pc, h, key := at_.1, map := at_.2 }
  let b : Sub := { e.b with pc := e.b.pc + 8, place := .inside c, wait := .none, under := .none, came := none, set := [] }
  let w := e.w.setSub e.o b
  if e.o.isNone then w
  else { w with hint := none,
                handler := w.handler.map (fun d => if d.has e.b.id then { d with entered := true } else d) }

/-- CLAUSE_START (R213). -/
def execClauseStart (h : Header) (s : State) : Host.Outcome State Fault Refusal :=
  issue (.clauseStart h) s (fun e =>
    let illegal := trapOf .illegal (Instr.word (.clauseStart h))
    if !h.inPage e.b.pc then .error (.change (fetchTrap e.s e.w e.o e.b illegal))
    else if e.o.isNone && !h.accessOk then .error (.trap illegal)
    else if e.savesHere h then
      .error (.change (.of (e.y.setWarp (e.w.setSub e.o { e.b with wait := .none, under := .none, stopped := true }))))
    else if e.b.wait != .abandoned && (waitFlags h.wait).any (fun k => (e.w.flag k).count != 0) then .error (.wait (.flags h.wait))
    else match e.w.flagError h.wait with
      | some (k, t) =>
        let w := e.w.setFlag k { e.w.flag k with err := none }
        .error (.change (takePrecise { e.s with sys := e.y.setWarp w } w e.b t))
      | none =>
        match e.y.vaBase e.asker (some e.k.core) (dieOf e.k.core) e.k.ctx e.b.pc.toNat with
        | none => .error (.wait (.translating [e.b.pc.toNat / 65536]))
        | some key => .ok (.of ((e.y.setWarp (e.started h key)).mark e.k.ctx)))

end Sys2Proof.Machine
end

