-- ==== Sys2Proof/Machine/Sync.lean ====
section
/-! DEFINITION. Barriers, external signals and reductions, MAJ 0x31, and the steps of the barrier units, the external
counters and the collective engine (R190, R399 to R406, R469). -/

namespace Sys2Proof.Machine

/-! ### Levels and participants (R400) -/

/-- The cooperative flag of a launch (R421). -/
def Grid.coop (g : Grid) : Bool := g.lpb[9].getLsbD 8

/-- The cluster size, the warps per block and the number of blocks of a launch (R420, R421). -/
def Grid.clusterSize (g : Grid) : Nat := bits g.lpb[3] 7 6 + 1
def Grid.warps (g : Grid) : Nat := bits g.lpb[3] 5 0
def Grid.blocks (g : Grid) : Nat := bits g.lpb[2] 31 0 * bits g.lpb[2] 47 32 * bits g.lpb[2] 63 48

/-- The grid a block belongs to. -/
def Sys.gridOf (y : Sys) (k : Block) : Option Grid :=
  match k.job with
  | .grid launch _ => y.grid? launch
  | .task _ _ _ _ => none

/-- The members of cohort C in a block; 0 when it is not defined (R168). -/
def Sys.cohort (y : Sys) (k : Block) (c : Nat) : Nat :=
  match y.gridOf k with
  | some g => let x := g.cohorts[c]?.getD 0; if x.getLsbD 63 then bits x 47 0 else 0
  | none => 0

/-- The level is usable by the warp (R400). -/
def Env.usable (e : Env) (lvl : BarLevel) (n : Nat) : Bool :=
  match lvl with
  | .blk => true
  | .coh => (e.y.cohort e.k n).testBit e.w.index
  | .clu => !e.k.isTask
  | .die => ((e.y.gridOf e.k).map Grid.coop).getD false
  | .grid => ((e.y.gridOf e.k).map (fun g => g.coop || g.blocks == g.clusterSize)).getD false

/-- The instance set a warp's barrier belongs to. -/
def Env.barKey (e : Env) (lvl : BarLevel) (n : Nat) : BarKey :=
  match lvl with
  | .blk | .coh => { lvl, owner := e.k.id, die := 0, n }
  | .clu => { lvl, owner := e.k.first, die := 0, n }
  | .die => { lvl, owner := e.k.launch, die := dieOf e.k.core, n }
  | .grid => { lvl, owner := e.k.launch, die := 0, n }

/-- Warps of a block whose index satisfies `f`, as participants. -/
def members (flat n : Nat) (f : Nat → Bool) : List (Nat × Nat) :=
  ((List.range n).filter f).map (fun i => (flat, i))

/-- The blocks that are resident, and those that are pre-empted. -/
def Sys.allBlocks (y : Sys) : List Block := y.blocks ++ (y.saved.filter (·.out)).map (·.block)

/-- The participants of an instance (R400): flat block index and warp index. -/
def Sys.participants (y : Sys) (key : BarKey) : List (Nat × Nat) :=
  let all := fun (g : Grid) (flats : List Nat) => flats.flatMap (fun f => members f g.warps (fun _ => true))
  let block := y.allBlocks.find? (fun k => k.id == key.owner)
  match key.lvl with
  | .blk => match block with
    | some k => members k.flat k.nwarps (fun _ => true)
    | none => []
  | .coh => match block with
    | some k => members k.flat k.nwarps (fun i => (y.cohort k key.n).testBit i)
    | none => []
  | .clu => match y.allBlocks.find? (fun k => k.first == key.owner) with
    | some k => match y.gridOf k with
      | some g => all g ((List.range g.clusterSize).map (fun r => k.flat / g.clusterSize * g.clusterSize + r))
      | none => []
    | none => []
  | .die => match y.grid? key.owner with
    | some g => all g ((g.assigned.filter (fun a => a.2 == key.die)).map (·.1))
    | none => []
  | .grid => match y.grid? key.owner with
    | some g => all g (List.range g.blocks)
    | none => []

/-- The launch an instance belongs to, when it belongs to a grid. -/
def Sys.keyLaunch (y : Sys) (key : BarKey) : Option Nat :=
  match key.lvl with
  | .die | .grid => some key.owner
  | _ => ((y.allBlocks.find? (fun k => k.first == key.owner || k.id == key.owner)).map (·.launch))

/-- The block of a grid with a flat index, resident or pre-empted. -/
def Sys.blockAt (y : Sys) (launch flat : Nat) : Option (Block × List Warp) :=
  let is := fun k : Block => k.launch == launch && k.flat == flat && !k.isTask
  match y.blocks.find? is with
  | some k => some (k, y.warps.filter (fun w => w.block == k.id) ++
      (y.saved.filter (fun b => b.block.id == k.id)).flatMap (fun b => b.warps.map (·.warp)))
  | none => (y.saved.find? (fun b => is b.block)).map (fun b => (b.block, b.warps.map (·.warp)))

/-- A participant has exited (R400). -/
def Sys.participantExited (y : Sys) (launch : Nat) (p : Nat × Nat) : Bool :=
  ((y.grid? launch).map (fun g => g.ended.contains p.1)).getD false ||
  (match y.blockAt launch p.1 with
    | some (k, ws) => k.started && !ws.any (fun w => w.index == p.2)
    | none => false)

/-! ### Arriving and collecting (R401 to R403) -/

def Warp.barSlot (w : Warp) (key : BarKey) : Option BarSlot := w.bars.find? (fun b => b.key == key)

def Warp.setBarSlot (w : Warp) (b : BarSlot) : Warp :=
  if w.bars.any (fun c => c.key == b.key) then
    { w with bars := w.bars.map (fun c => if c.key == b.key then b else c) }
  else { w with bars := w.bars ++ [b] }

/-- Records one arrival at an instance. -/
def Sys.arrive (y : Sys) (key : BarKey) (inst : Nat) (a : Arrival) : Sys :=
  if y.barriers.any (fun b => b.key == key && b.inst == inst) then
    { y with barriers := y.barriers.map (fun b =>
        if b.key == key && b.inst == inst then { b with arrivals := b.arrivals ++ [a] } else b) }
  else { y with barriers := y.barriers ++ [{ key, inst, arrivals := [a] }] }

/-- The checks of R401 behind the first, which comes with R185. -/
def Env.barChecks (e : Env) (o : BarOp) : Except Hold Unit :=
  let m : LaneMask := match o.m with
    | some r => (e.w.s r).setWidth 32
    | none => allLanes
  if e.b.exec != m then
    .error (.trap { trapOf .convergence (e.b.exec ++ m) with tlanes := e.b.exec ^^^ m })
  else
    match e.witnessOk (e.optS o.w) with
    | .error h => .error h
    | .ok () => if e.usable o.lvl o.n.toNat then .ok () else trapping .membership (o.n.zeroExtend 64)

/-- MEMBERSHIP of an instance that ended by unequal masks, reported once (R402). -/
def Env.reportUnequal (e : Env) (slot : BarSlot) : Except Hold Upd :=
  let w := e.w.setBarSlot { slot with result := .spent }
  .error (.change (takePrecise { e.s with sys := e.y.setWarp w } w e.b (trapOf .membership (BitVec.ofNat 64 slot.key.n))))

/-- The warp and the barrier units after an arrival. -/
def Env.arrived (e : Env) (o : BarOp) (key : BarKey) (inst : Nat) : Sys × Warp :=
  let a : Arrival := { block := e.k.flat, warp := e.w.index, wit := e.optS o.w, mask := e.b.exec }
  (e.y.arrive key inst a, e.w.setBarSlot { key, arrived := inst + 1, result := .open_ })

/-- What an arrival does: a word behind an open instance stalls; else `k` goes on with the instance number. -/
def Env.arriveThen (e : Env) (o : BarOp) (k : BarKey → Nat → Except Hold Upd) : Except Hold Upd :=
  match e.barChecks o with
  | .error h => .error h
  | .ok () =>
    let key := e.barKey o.lvl o.n.toNat
    match e.w.barSlot key with
    | none => k key 0
    | some slot =>
      match slot.result with
      | .open_ => .error (.wait (.barrier key (slot.arrived - 1) none false true))
      | .unequal => e.reportUnequal slot
      | _ => k key slot.arrived

/-- BAR: BARARR followed by BARWT (R403). -/
def execBar (o : BarOp) (s : State) : Host.Outcome State Fault Refusal :=
  issue (.bar o) s (fun e => e.arriveThen o (fun key inst =>
    let r := e.arrived o key inst
    let b := { e.b with wait := .barrier key inst o.d o.settle false, since := e.y.time.now }
    .ok (.of ((r.1.setWarp (r.2.setSub e.o b)).mark e.k.ctx))))

/-- BARARR arrives and does not wait (R403). -/
def execBararr (o : BarOp) (s : State) : Host.Outcome State Fault Refusal :=
  issue (.bararr o) s (fun e => e.arriveThen o (fun key inst =>
    let r := e.arrived o key inst
    .ok (e.finish r.1 r.2)))

/-- BARWT (R403). -/
def execBarwt (d : OptS) (n : BitVec 8) (lvl : BarLevel) (settle : Bool) (s : State) :
    Host.Outcome State Fault Refusal :=
  issue (.barwt d n lvl settle) s (fun e =>
    let missing : Except Hold Upd := trapping .membership (n.zeroExtend 64)
    match e.w.barSlot (e.barKey lvl n.toNat) with
    | none => missing
    | some slot =>
      match slot.result with
      | .open_ => .error (.wait (.barrier slot.key (slot.arrived - 1) d settle false))
      | .spent => missing
      | .unequal => e.reportUnequal slot
      | .done v =>
        let w := match d with
          | some r => e.w.setS r v
          | none => e.w
        if !settle then .ok (e.done w)
        else match e.y.settled (coreReader e.k.core) v with
          | .yes => .ok (e.done w)
          | .wait => .error (.wait (.settle v d))
          | .bad => trapping .witness v)

/-! ### The barrier units -/

/-- The sub-warp that waits at an instance, and how. -/
def Warp.waitsAt (w : Warp) (key : BarKey) (inst : Nat) : Option (Sub × OptS × Bool × Bool) :=
  w.subs.findSome? (fun b => match b.wait with
    | .barrier k n d st again => if k == key && n == inst then some (b, d, st, again) else none
    | _ => none)

/-- A waiting participant is released with the result; a settling one waits on (R402). -/
def Warp.release (w : Warp) (b : Sub) (d : OptS) (settle again : Bool) (v : Word) (now : Nat) : Warp :=
  if again then w.setSub (some b.id) { b with wait := .none }
  else if settle then w.setSub (some b.id) { b with wait := .settle v d, since := now }
  else
    let w1 := match d with
      | some r => w.setS r v
      | none => w
    w1.setSub (some b.id) b.past

/-- One participant learns how its instance ended. -/
def endInstance (s : State) (key : BarKey) (inst : Nat) (r : BarResult) (w : Warp) : Upd :=
  match w.barSlot key with
  | none => .of s.sys
  | some slot =>
    if slot.arrived != inst + 1 then .of s.sys
    else
      let w1 := w.setBarSlot { slot with result := r }
      match w1.waitsAt key inst, r with
      | some (b, d, st, again), .done v => .of (s.sys.setWarp (w1.release b d st again v s.sys.time.now))
      | some (b, _, _, _), .unequal =>
        let w2 := w1.setBarSlot { slot with result := .spent }
        takePrecise { s with sys := s.sys.setWarp w2 } w2 { b with wait := .none }
          (trapOf .membership (BitVec.ofNat 64 key.n))
      | _, _ => .of (s.sys.setWarp w1)

/-- A pre-empted participant keeps the result in its slot (R403, R454). -/
def SavedWarp.endInstance (x : SavedWarp) (key : BarKey) (inst : Nat) (r : BarResult) : SavedWarp :=
  match x.warp.barSlot key with
  | some slot => if slot.arrived = inst + 1 then { x with warp := x.warp.setBarSlot { slot with result := r } } else x
  | none => x

/-- BARRIER_COMPLETE (R402): every participant has arrived or exited. -/
def execBarrierComplete (key : BarKey) (inst : Nat) (s : State) : Host.Outcome State Fault Refusal :=
  machineStep s (
    match s.sys.barriers.find? (fun b => b.key == key && b.inst == inst) with
    | none => idle s
    | some bar =>
      let launch := (s.sys.keyLaunch key).getD 0
      let here := fun p : Nat × Nat =>
        bar.arrivals.any (fun a => a.block == p.1 && a.warp == p.2) || s.sys.participantExited launch p
      if !(s.sys.participants key).all here then idle s
      else
        let first := (bar.arrivals.map (·.mask)).headD 0
        let r : BarResult :=
          if bar.arrivals.all (fun a => a.mask == first) then .done (bar.arrivals.foldl (fun v a => merge v a.wit) 0)
          else .unequal
        let y := { s.sys with
          barriers := s.sys.barriers.filter (fun b => !(b.key == key && b.inst == inst))
          saved := s.sys.saved.map (fun b => { b with warps := b.warps.map (fun x => x.endInstance key inst r) }) }
        Upd.each { s with sys := y } (fun id t => match t.sys.warp? id with
          | some w => endInstance t key inst r w
          | none => .of t.sys) (s.sys.warps.map (·.id)))

/-- BARRIER_SETTLE_RELEASE (R122, R402). -/
def execBarrierSettleRelease (w sub : Nat) (s : State) : Host.Outcome State Fault Refusal :=
  machineStep s (
    match s.sys.warp? w with
    | none => idle s
    | some x =>
      match x.sub? (some sub), s.sys.block? x.block with
      | some b, some k =>
        match b.wait with
        | .settle v d =>
          if s.sys.settled (coreReader k.core) v = .yes then
            .of (s.sys.setWarp (x.release b d false false v s.sys.time.now))
          else idle s
        | _ => idle s
      | _, _ => idle s)

/-! ### External counters (R404, R405) -/

def Context.counter (c : Context) (n : Nat) : Word := Table.getD c.counters n 0

def Context.setCounter (c : Context) (n : Nat) (v : Word) : Context := { c with counters := Table.set c.counters n v }

/-- WAITX (R405). -/
def execWaitx (c : BitVec 8) (a : SReg) (d : OptS) (s : State) : Host.Outcome State Fault Refusal :=
  issue (.waitx c a d) s (fun e =>
    let v := (e.y.context e.k.ctx).counter c.toNat
    if (e.w.s a).toNat ≤ v.toNat then
      .ok (e.done (match d with | some r => e.w.setS r v | none => e.w))
    else .error (.wait (.counter c (e.w.s a))))

/-- SIGX does not wait (R405). -/
def execSigx (c : BitVec 8) (a b : SReg) (settle : Bool) (s : State) : Host.Outcome State Fault Refusal :=
  issue (.sigx c a b settle) s (fun e =>
    let v := e.w.s b
    if !e.y.sigTarget v then trapping .illegal v
    else
      let p := { e.op false with flag := none, args := [e.w.s a, v],
                                 wit := if settle then mkWit 3 0 e.y.time.now else 0 }
      .ok (e.finish (e.y.addOp p) e.w))

/-- An earlier signal of the same warp to the same target is still to take effect. -/
def Sys.sigBehind (y : Sys) (p : Op) : Bool :=
  y.ops.any (fun q => q.id < p.id && q.warp == p.warp && q.args[1]? == p.args[1]? &&
    (match q.instr with | .sigx _ _ _ _ => true | _ => false))

/-- SIGX_TAKE_EFFECT (R405): a counter of another package lies outside this machine. -/
def execSigxTakeEffect (op : Nat) (s : State) : Host.Outcome State Fault Refusal :=
  machineStep s (
    match s.sys.op? op with
    | none => idle s
    | some p =>
      match p.instr with
      | .sigx c _ _ _ =>
        if s.sys.sigBehind p || s.sys.settled (coreReader p.core) p.wit != .yes then idle s
        else
          let add := p.args.headD 0
          let toward := p.args.getD 1 0
          let y := s.sys.dropOp op
          if toward.getLsbD 63 then
            raiseEventAt { s with sys := y } 5 p.ctx (c.zeroExtend 64) add (p.tick % 2 ^ 52)
          else if toward.toNat = y.ctl.packageId then
            let x := y.context p.ctx
            .of (y.setContext p.ctx (x.setCounter c.toNat (x.counter c.toNat + add)))
          else .of y
      | _ => idle s)

/-! ### XRED (R406, R469) -/

/-- XRED: a long-latency operation on SETA. -/
def execXred (d a : BitVec 8) (g : BitVec 4) (op : XOp) (s : State) : Host.Outcome State Fault Refusal :=
  issue (.xred d a g op) s (fun e =>
    let p := { e.op false with pendV := [d.toNat, d.toNat + 1] }
    let grp := (Table.getD e.y.ctl.grpcfg g.toNat (0, 0))
    let bad := grp.2 = 0 || !grp.1.getLsbD e.y.ctl.packageId
    if bad then
      e.send e.y e.w { p with stage := .done, err := some (trapOf .membership (g.zeroExtend 64)) }
    else
      let con : XContrib := { op := p.id, who := e.w.id, xop := op, lanes := Vector.ofFn (fun i : Fin 32 => e.w.lane .w64 a.toNat i) }
      let old := (e.y.xreds.find? (fun x => x.1 == e.k.ctx && x.2.1 == g.toNat))
      let xreds := match old with
        | some _ => e.y.xreds.map (fun x => if x.1 == e.k.ctx && x.2.1 == g.toNat then (x.1, x.2.1, x.2.2 ++ [con]) else x)
        | none => e.y.xreds ++ [(e.k.ctx, g.toNat, [con])]
      e.send { e.y with xreds } e.w p)

/-- One lane of a reduction (R406): ADD modulo 2^64, minimum and maximum signed. -/
def xredOp (op : XOp) (a b : Word) : Word :=
  match op with
  | .add => a + b
  | .smin => if a.toInt ≤ b.toInt then a else b
  | .smax => if a.toInt ≤ b.toInt then b else a
  | .and => a &&& b
  | .or => a ||| b
  | .xor => a ^^^ b

def xredLanes (op : XOp) (a b : Lanes64) : Lanes64 := Vector.ofFn (fun i : Fin 32 => xredOp op a[i] b[i])

/-- The earliest contribution of each contributor. -/
def firstContribs (l : List XContrib) : List XContrib :=
  l.foldl (fun acc c => if acc.any (fun x => x.who == c.who) then acc else acc ++ [c]) []

/-- The number of packages of a mask. -/
def maskCount (m : Word) : Nat := (List.range 64).countP (fun i => m.getLsbD i)

/-- Every other package of a mask can be reached (R469). -/
def Sys.maskReached (y : Sys) (m : Word) : Bool :=
  (List.range 64).all (fun i => !m.getLsbD i || i == y.ctl.packageId || !y.peerDown (i * 2 ^ 42))

/-- COLLECTIVE_REDUCE (R469): an instance whose local contributors have all arrived, with one combined contribution
from every other package of the group, with the operation that its contributors name (none: they name different ones). While a package of
the mask cannot be reached, the instance does not complete. -/
def execCollectiveReduce (ctx g : Nat) (peers : List (Option XOp × Lanes64)) (s : State) : Host.Outcome State Fault Refusal :=
  machineStep s (
    match s.sys.xreds.find? (fun x => x.1 == ctx && x.2.1 == g) with
    | none => idle s
    | some x =>
      let grp := Table.getD s.sys.ctl.grpcfg g (0, 0)
      let cs := (firstContribs x.2.2).take grp.2
      match cs with
      | [] => idle s
      | c :: rest =>
        if cs.length < grp.2 || peers.length + 1 != maskCount grp.1 || !s.sys.maskReached grp.1 then idle s
        else
          let left := x.2.2.filter (fun z => !cs.contains z)
          let xreds := s.sys.xreds.map (fun z => if z.1 == ctx && z.2.1 == g then (ctx, g, left) else z)
          let sum := (rest.map (·.lanes) ++ peers.map (·.2)).foldl (xredLanes c.xop) c.lanes
          let same := rest.all (fun z => z.xop == c.xop) && peers.all (fun z => z.1 == some c.xop)
          let ops := s.sys.ops.map (fun p =>
            if cs.any (fun z => z.op == p.id) then
              if same then
                let d := p.pendV.headD 0
                { p with stage := .done, results := (List.range 32).flatMap (fun i =>
                    let v := (sum[i]?).getD 0
                    [(codeV d i, v), (codeV (d + 1) i, v >>> 32)]) }
              else { p with stage := .done, err := some (trapOf .membership (BitVec.ofNat 64 g)) }
            else p)
          .of { s.sys with xreds, ops })

end Sys2Proof.Machine
end

