-- ==== Sys2Proof/Machine/Tiles.lean ====
section
/-! DEFINITION. The accumulator store and the tile instructions, MAJ 0x21 and 0x28 (R72 to R76, R249, R252 to R256,
R352, R353, R361 to R373). -/

namespace Sys2Proof.Machine

/-! ### The store -/

/-- The accumulators of a range of block-relative indices (R72). -/
def Block.accs (k : Block) (lo n : Nat) : List (BitVec 128) :=
  let part := k.acc.filter (fun e => decide (lo ≤ e.1) && decide (e.1 < lo + n))
  (List.range n).map (fun i => Table.getD part (lo + i) 0)

/-- Replaces the accumulators of a range; zero is not listed. -/
def Block.putAccs (k : Block) (lo : Nat) (l : List (BitVec 128)) : Block :=
  let n := l.length
  let mid := ((List.range n).zip l).filterMap (fun p => if p.2 = 0 then none else some (lo + p.1, p.2))
  { k with acc := k.acc.filter (fun e => decide (e.1 < lo)) ++ mid ++ k.acc.filter (fun e => decide (lo + n ≤ e.1)),
           badAcc := k.badAcc.filter (fun i => !(decide (lo ≤ i) && decide (i < lo + n))) }

/-- The first index of row i of tile t, whose columns may run into later tiles (R74). -/
def accIndex (t row col : Nat) : Nat := 1024 * (t + col / 32) + 32 * row + col % 32

/-- What an ACCRUN owns of its block's accumulators (R76): from its base to the end of the allocation, or, once setup has
read the descriptor, its file alone. `args` holds the file's first index and size behind the four operands then. -/
def Op.owns (p : Op) (k : Block) : Option (Nat × Nat) :=
  match p.instr with
  | .accrun _ _ _ _ _ =>
    if p.block != k.id then none
    else match p.args with
      | [_, _, _, lo, n] => if n = 0 then none else some (lo.toNat, n.toNat)
      | _ =>
        let base := bits (p.args.getD 1 0) 49 32
        if base < 1024 * k.zCount then some (base, 1024 * k.zCount - base) else none
  | _ => none

/-- A tile of the block is inside an owned range. -/
def Sys.tileOwned (y : Sys) (k : Block) (t : Nat) : Bool :=
  y.ops.any (fun p => match p.owns k with
    | some (lo, n) => overlaps lo n (1024 * t) 1024
    | none => false)

/-- The indices of a range. -/
def indexRange (lo n : Nat) : List Nat := (List.range n).map (fun i => lo + i)

/-- The first column of a limb product (R352). -/
def Env.column (e : Env) (c : SReg) : Nat := bits (e.w.s c) 20 8

/-- The tiles that the word names, in the order of their checks. -/
def Env.named (e : Env) : List Nat :=
  match e.i with
  | .bconv t _ _ c _ =>
    let c0 := e.column c
    (List.range ((c0 + 62) / 32 - c0 / 32 + 1)).map (fun j => t.toNat + c0 / 32 + j)
  | .cres _ t _ last => [t.toNat] ++ (if last.isNone then [t.toNat + 1] else [])
  | .mma t _ _ _ | .mmq t _ _ _ | .zld t _ _ | .zst _ t _ | .zcvt _ t _ _ _ _ => [t.toNat]
  | .zclr t n => indexRange t.toNat (n.toNat + 1)
  | .zadd d a _ => [d.toNat, a.toNat]
  | _ => []

/-- The tile checks of a form: SCRATCH_BOUNDS at the first tile past the allocation (R73), then the stall behind an
ACCRUN (R76). -/
def Env.tiles (e : Env) : Except Hold Unit :=
  match e.named.find? (fun t => decide (e.k.zCount ≤ t) || decide (256 ≤ t)) with
  | some t => trapping .scratchBounds (BitVec.ofNat 64 t)
  | none => if e.named.any (e.y.tileOwned e.k) then .error (.wait (.tiles e.named)) else .ok ()

/-- An uncorrectable error in accumulators that the form reads (R85). -/
def Env.accCheck (e : Env) (idx : List Nat) : Except Hold Unit :=
  if idx.any e.k.badAcc.contains then trapping .memError 0 else .ok ()

/-- The word completes with a changed block. -/
def Env.doneWith (e : Env) (k : Block) (w : Warp) (pops : List (BitVec 2 × Nat)) : Upd :=
  .of (((e.y.setBlock k).setWarp (e.after w (e.i.pops ++ pops))).mark e.k.ctx)

/-- A queue that a tile group pops, with the number of entries (R365). -/
def groupPops (a : BigA) (n : Nat) (b : BigA) (m : Nat) : List (BitVec 2 × Nat) := a.pops n ++ b.pops m

/-- The checks on the entries a group pops: the stall or underrun; a failed element comes with the late errors. -/
def Env.groupCheck (e : Env) (l : List (BitVec 2 × Nat)) : Except Hold Unit :=
  match e.emptyPop l with
  | some h => .error h
  | none => .ok ()

def Env.groupFailed (e : Env) (l : List (BitVec 2 × Nat)) : Except Hold Unit :=
  match e.failedPop l with
  | some h => .error h
  | none => .ok ()

/-- A group of n registers or entries; `before` entries of its queue go to an earlier operand. -/
def Env.groupLanes (e : Env) (a : BigA) (n before : Nat) : List Lanes :=
  match a with
  | .v r => (List.range n).map (fun j => e.w.v (r.toNat + j))
  | .queue q => (List.range n).map (fun j => popLanes (e.w.queue q) (before + j))

/-- The entries that group A takes from the queue of group B. -/
def sharedPops (a b : BigA) (n : Nat) : Nat :=
  match a, b with
  | .queue p, .queue q => if p = q then n else 0
  | _, _ => 0

/-! ### Limb tiles (R352, R353) -/

/-- The column sums of the limb products: column c collects a_j · b_m with j + m = c. -/
def limbProducts (a b : Nat) : List Nat :=
  (List.range 63).map (fun c => (List.range 32).foldl (fun s j =>
    if j ≤ c && c - j < 32 then s + (limb a j).toNat * (limb b (c - j)).toNat else s) 0)

/-- The accumulators of a long row from a column on, with values added to them. -/
def Block.addRow (k : Block) (t row c0 : Nat) (neg : Bool) : List Nat → Block
  | [] => k
  | v :: r =>
    let i := accIndex t row c0
    let old := (k.accs i 1).headD 0
    let d : BitVec 128 := BitVec.ofNat 128 v
    Block.addRow (k.putAccs i [if neg then old - d else old + d]) t row (c0 + 1) neg r

/-- BCONV (R352). -/
def execBconv (t : BitVec 8) (a b : BigA) (c : SReg) (neg : Bool) (s : State) : Host.Outcome State Fault Refusal :=
  issue (.bconv t a b c neg) s (fun e => do
    e.checkBig [a, b] false
    let v := e.w.s c
    let row := bits v 4 0
    let c0 := e.column c
    let last := t.toNat + (c0 + 62) / 32
    if last ≥ e.k.zCount then trapping .scratchBounds (BitVec.ofNat 64 last)
    else do
      e.tiles
      e.accCheck ((List.range 63).map (fun j => accIndex t.toNat row (c0 + j)))
      let x := (e.big a 0).natAbs
      let y := (e.big b (match a, b with | .queue p, .queue q => if p = q then 1 else 0 | _, _ => 0)).natAbs
      return e.doneWith (e.k.addRow t.toNat row c0 neg (limbProducts x y)) e.w [])

/-- The sum of a row's columns at their weights. -/
def rowValue (l : List (BitVec 128)) : Int :=
  match l with
  | [] => 0
  | a :: r => a.toInt + 2 ^ 32 * rowValue r

/-- CRES (R353). -/
def execCres (d t : BitVec 8) (b : SReg) (last : OptS) (s : State) : Host.Outcome State Fault Refusal :=
  issue (.cres d t b last) s (fun e => do
    let row := bits (e.w.s b) 4 0
    let lo := accIndex t.toNat row 0
    e.tiles
    let l := e.k.accs lo 32
    let x := rowValue l
    let carry := x.fdiv (2 ^ 1024)
    if last.isSome && carry != 0 && carry != -1 then trapping .length (wrap 64 carry)
    else do
      e.accCheck (indexRange lo 32 ++ (if last.isNone then [lo + 1024] else []))
      let m := (x % 2 ^ 1024).toNat
      let w := e.w.writeV d.toNat allLanes (Vector.ofFn (fun i : Fin 32 => limb m i))
      let k := e.k.putAccs lo (List.replicate 32 0)
      match last with
      | some r => return e.doneWith k (w.setS r (wrap 64 carry)) []
      | none =>
        let next := (e.k.accs (lo + 1024) 1).headD 0
        return e.doneWith (k.putAccs (lo + 1024) [next + BitVec.ofInt 128 carry]) w [])

/-! ### Formats and elements (R249, R252, R361, R364) -/

def pairOf (fmt : Word) : Nat := bits fmt 2 0

/-- The codebook of QC4 (R249). -/
def qc4 (code : Nat) : Int :=
  [-4096, -2822, -2092, -1533, -1054, -619, -204, 0, 172, 521, 885, 1273, 1707, 2221, 2898, 4096].getD code 0

/-- A binary16 value times 2^24, an exact integer; none for an infinity or NaN (R252, R254). -/
def half24 (x : Nat) : Option Int :=
  match f16Fmt.unpack (BitVec.ofNat 64 x) with
  | .fin sgn m e => let v : Int := (m : Int) * 2 ^ (e + 24).toNat; some (if sgn then -v else v)
  | _ => none

/-- The number k of products of an accumulator (R364). -/
def depthOf (pair : Nat) : Nat := [32, 16, 16, 64, 8].getD pair 0

/-- Element m of lane i of a group, `w` bits wide. -/
def groupElem (g : List Lanes) (w m i : Nat) : Nat :=
  let per := 32 / w
  let l := (g[m / per]?.getD zeroLanes)[i]?.getD 0
  l.toNat / 2 ^ (w * (m % per)) % 2 ^ w

/-- An element of the A group as an integer (R364). -/
def elemA (pair : Nat) (g : List Lanes) (scale : Lanes) (i m : Nat) : Int :=
  match pair with
  | 0 => toI true 8 (BitVec.ofNat 64 (groupElem g 8 m i))
  | 1 => toI true 16 (BitVec.ofNat 64 (groupElem g 16 m i))
  | 2 => (half24 (groupElem g 16 m i)).getD 0
  | 3 => (((scale[i]?.getD 0).toNat % 256 : Nat) : Int) * qc4 (groupElem g 4 m i)
  | _ => ((groupElem g 32 m i : Nat) : Int)

/-- An element of the B group as an integer (R364). -/
def elemB (pair : Nat) (g : List Lanes) (m j : Nat) : Int :=
  match pair with
  | 0 => toI true 8 (BitVec.ofNat 64 (groupElem g 8 m j))
  | 1 => toI true 16 (BitVec.ofNat 64 (groupElem g 16 m j))
  | 2 | 3 => (half24 (groupElem g 16 m j)).getD 0
  | _ => ((groupElem g 32 m j : Nat) : Int)

/-- The exact products of a tile update, row by row (R366). -/
def tileProducts (pair : Nat) (a b : List Lanes) (scale : Lanes) : List Int :=
  let k := depthOf pair
  let bcols := (List.range 32).map (fun j => (List.range k).map (fun m => elemB pair b m j))
  (List.range 32).flatMap (fun i =>
    let arow := (List.range k).map (fun m => elemA pair a scale i m)
    bcols.map (fun col => (arow.zip col).foldl (fun s p => s + p.1 * p.2) 0))

/-- The tile with the products added (R253). -/
def Block.addTile (k : Block) (t : Nat) (l : List Int) : Block :=
  k.putAccs (1024 * t) (((k.accs (1024 * t) 1024).zip l).map (fun p => p.1 + BitVec.ofInt 128 p.2))

/-- A lane of a register holds a binary16 infinity or NaN. -/
def badHalf (l : Lanes) : LaneMask :=
  maskOf (fun i =>
    let x := (l[i]?.getD 0).toNat
    (half24 (x % 65536)).isNone || (half24 (x / 65536)).isNone)

/-- The lanes that hold an infinity or NaN, and the number of the first such register (R366): the group's first register,
or its queue's number, and its registers. -/
def groupFormat (base : Nat) (g : List Lanes) : LaneMask × Option Nat :=
  let hits := ((List.range g.length).zip g).filter (fun p => badHalf p.2 != 0)
  (hits.foldl (fun m p => m ||| badHalf p.2) 0, (hits.head?).map (fun p => base + p.1))

def BigA.base (a : BigA) : Nat :=
  match a with
  | .v r => r.toNat
  | .queue q => q.toNat

/-- FORMAT of binary16 groups (R254, R366). -/
def formatTrap (l : List (Nat × List Lanes)) : Option TrapInfo :=
  let fs := l.map (fun p => groupFormat p.1 p.2)
  match fs.findSome? (·.2) with
  | some r => some { trapOf .format (BitVec.ofNat 64 r) with tlanes := fs.foldl (fun m p => m ||| p.1) 0 }
  | none => none

/-- The checks of PAIR and of the groups' extents (R365, R366). -/
def Env.mmaChecks (e : Env) (ends : List Nat) : Except Hold Unit :=
  if pairOf e.w.fmt > 4 then trapping .format e.w.fmt
  else if ends.any (fun x => decide (e.w.budget < x)) then trapping .illegal (Instr.word e.i)
  else .ok ()

/-- The end of a register group; a queue has none. -/
def groupEnd (a : BigA) (n : Nat) : List Nat :=
  match a with
  | .v r => [r.toNat + n]
  | .queue _ => []

/-- MMA (R366). -/
def execMma (t : BitVec 8) (a b : BigA) (c : BitVec 8) (s : State) : Host.Outcome State Fault Refusal :=
  issue (.mma t a b c) s (fun e => do
    let pair := pairOf e.w.fmt
    let g := groupB e.w.fmt
    e.mmaChecks (groupEnd a 8 ++ groupEnd b g ++ (if pair = 3 then [c.toNat + 1] else []))
    e.tiles
    let pops := groupPops a 8 b g
    e.groupCheck pops
    let ga := e.groupLanes a 8 0
    let gb := e.groupLanes b g (sharedPops a b 8)
    match formatTrap ((if pair = 2 then [(BigA.base a, ga)] else []) ++
        (if pair = 2 || pair = 3 then [(BigA.base b, gb)] else [])) with
    | some f => .error (.trap f)
    | none => do
      e.groupFailed pops
      e.accCheck (indexRange (1024 * t.toNat) 1024)
      return e.doneWith (e.k.addTile t.toNat (tileProducts pair ga gb (e.w.v c.toNat))) e.w pops)

/-! ### MMQ (R367, R368) -/

/-- The members of a quad cohort of a block, ascending; none when the cohort is not one. -/
def Sys.quad (y : Sys) (k : Block) (c : Nat) : Option (List Nat) :=
  match y.gridOf k with
  | some g =>
    let x := g.cohorts[c]?.getD 0
    if x.getLsbD 63 && x.getLsbD 62 then some ((List.range 48).filter (fun i => x.getLsbD i)) else none
  | none => none

/-- MEM_ERROR of what an arrival reads (R85, R373). -/
def Env.mmqReads (e : Env) (pops : List (BitVec 2 × Nat)) (t : BitVec 8) : Except Hold Unit := do
  e.groupFailed pops
  e.accCheck (indexRange (1024 * t.toNat) 1024)
  match e.memBad with
  | some h => .error h
  | none => .ok ()

/-- MMQ arrives and waits for the other three (R368). An infinity or NaN of its own quarter goes before QUAD and MEM_ERROR (R373): it
arrives with it, and FORMAT is every member's; where no instance can form, FORMAT is its own. -/
def execMmq (t : BitVec 8) (a b : BigA) (c : BitVec 8) (s : State) : Host.Outcome State Fault Refusal :=
  issue (.mmq t a b c) s (fun e => do
    let pair := pairOf e.w.fmt
    let na := if pair = 3 then 9 else 8
    let g := groupB e.w.fmt / 4
    e.mmaChecks (groupEnd a na ++ groupEnd b g)
    e.tiles
    let pops := groupPops a 8 b g
    e.groupCheck pops
    let ga := e.groupLanes a 8 0 ++ (match a with | .v r => [e.w.v (r.toNat + 8)] | .queue _ => [])
    let gb := e.groupLanes b g (sharedPops a b 8)
    match formatTrap (if pair = 2 then [(BigA.base a, ga.take 8)] else []) with
    | some f => .error (.trap f)
    | none =>
      let own := if pair = 2 || pair = 3 then formatTrap [(BigA.base b, gb)] else none
      if !((e.y.quad e.k c.toNat).map (fun ms => ms.contains e.w.index)).getD false then
        match own with
        | some f => .error (.trap f)
        | none => trapping .quad (c.zeroExtend 64)
      else do
        if own.isNone then e.mmqReads pops t else .ok ()
        let inst := Table.getD e.w.mmqs c.toNat 0
        let x : MmqArrival := { warp := e.w.id, sub := e.b.id, pops, tile := t.toNat, a := ga, b := gb, c := c.toNat,
                                fmt := e.w.fmt, bField := BitVec.ofNat 8 (BigA.base b) }
        let is := fun m : MmqInst => m.block == e.k.id && m.cohort == c.toNat && m.inst == inst
        let mmqs :=
          if e.y.mmqs.any is then e.y.mmqs.map (fun m => if is m then { m with arrivals := m.arrivals ++ [x] } else m)
          else e.y.mmqs ++ [{ block := e.k.id, cohort := c.toNat, inst, arrivals := [x] }]
        let b1 := { e.b with wait := .mmq c.toNat inst, since := e.y.time.now }
        return .of (({ e.y with mmqs }.setWarp (e.w.setSub e.o b1)).mark e.k.ctx))

/-- A member's update: its tile, and its warp past the word (R367). -/
def mmqUpdate (b : List Lanes) (x : MmqArrival) (s : State) : Upd :=
  match s.sys.warp? x.warp with
  | none => .of s.sys
  | some w =>
    match w.sub? (some x.sub), s.sys.block? w.block with
    | some sub, some k =>
      let k1 := k.addTile x.tile (tileProducts (pairOf x.fmt) (x.a.take 8) b (x.a[8]?.getD zeroLanes))
      let w1 := (w.popAll x.pops).setSub (some x.sub) sub.past
      .of (((s.sys.setBlock k1).setWarp { w1 with mmqs := Table.set w1.mmqs x.c (Table.getD w1.mmqs x.c 0 + 1) }).mark k.ctx)
    | _, _ => .of s.sys

/-- A member's trap; its word was not issued. -/
def mmqTrap (t : TrapInfo) (x : MmqArrival) (s : State) : Upd :=
  match s.sys.warp? x.warp with
  | none => .of s.sys
  | some w =>
    match w.sub? (some x.sub) with
    | some b => takePrecise s w { b with wait := .none } t
    | none => .of s.sys

/-- FORMAT of a quarter that holds a binary16 infinity or NaN (R254, R368). -/
def MmqArrival.format (x : MmqArrival) : Option TrapInfo :=
  if pairOf x.fmt = 2 || pairOf x.fmt = 3 then formatTrap [(x.bField.toNat, x.b)] else none

/-- The tile of an arrival has an accumulator with an uncorrectable error (R85). -/
def MmqArrival.badTile (k : Block) (x : MmqArrival) : Bool := k.badAcc.any (fun i => i / 1024 == x.tile)

/-- MMQ_INSTANCE (R368): the four arrivals meet, or a member has exited. Of FORMAT, QUAD and MEM_ERROR the first wins (R373). A member whose
accumulators went bad while it waited traps MEM_ERROR alone, and arrives again as its handler returns to the MMQ (R85; DESIGN CHOICE,
log 126). -/
def execMmqInstance (block cohort inst : Nat) (s : State) : Host.Outcome State Fault Refusal :=
  machineStep s (
    let is := fun m : MmqInst => m.block == block && m.cohort == cohort && m.inst == inst
    match s.sys.mmqs.find? is, s.sys.block? block with
    | some m, some k =>
      let ms := (s.sys.quad k cohort).getD []
      let s1 : State := { s with sys := { s.sys with mmqs := s.sys.mmqs.filter (fun v => !is v) } }
      let quad := trapOf .quad (BitVec.ofNat 64 cohort)
      let at_ := ms.filterMap (fun i => m.arrivals.find? (fun x => (s.sys.warp? x.warp).map (·.index) == some i))
      let all := fun t : TrapInfo => Upd.each s1 (mmqTrap t) m.arrivals
      let gone := ms.any (fun i => s.sys.participantExited k.launch (k.flat, i))
      if !gone && (at_.length < 4 || at_.any (fun x => s.sys.tileOwned k x.tile)) then idle s
      else match at_.findSome? MmqArrival.format with
        | some t => all t
        | none =>
          let pair := ((at_.head?).map (fun x => pairOf x.fmt)).getD 0
          if gone || at_.any (fun x => pairOf x.fmt != pair) then all quad
          else
            let bad := at_.filter (MmqArrival.badTile k)
            if bad.isEmpty then Upd.each s1 (mmqUpdate (at_.flatMap (·.b))) at_
            else
              let stay := { m with arrivals := m.arrivals.filter (fun x => !bad.contains x) }
              let kept := s1.sys.mmqs ++ (if stay.arrivals.isEmpty then [] else [stay])
              Upd.each { s1 with sys := { s1.sys with mmqs := kept } } (mmqTrap (trapOf .memError 0)) bad
    | _, _ => idle s)

/-! ### Clearing, moving and adding tiles (R363, R369) -/

/-- FMT's legal bits (R361, R363). -/
def fmtMask : Word := 7

/-- SETFMT (R363). -/
def execSetfmt (b : UImm) (s : State) : Host.Outcome State Fault Refusal :=
  issueReg (.setfmt b) s (fun e => .ok { e.w with fmt := e.uni b &&& fmtMask })

/-- ZCLR (R369); `n` holds the number of tiles minus 1. -/
def execZclr (t n : BitVec 8) (s : State) : Host.Outcome State Fault Refusal :=
  issue (.zclr t n) s (fun e => do
    e.tiles
    return e.doneWith (e.k.putAccs (1024 * t.toNat) (List.replicate (1024 * (n.toNat + 1)) 0)) e.w [])

/-- A row operand (R369). -/
def Env.row (e : Env) (u : UImm) : Nat := (e.uni u).toNat % 32

/-- ZLD (R369). -/
def execZld (t : BitVec 8) (g : BigA) (row : UImm) (s : State) : Host.Outcome State Fault Refusal :=
  issue (.zld t g row) s (fun e => do
    e.tiles
    e.groupCheck (g.pops 4)
    e.groupFailed (g.pops 4)
    let l := e.groupLanes g 4 0
    let lane := fun q j => (l[q]?.getD zeroLanes)[j]?.getD 0
    let vals := (List.range 32).map (fun j => lane 3 j ++ lane 2 j ++ lane 1 j ++ lane 0 j)
    return e.doneWith (e.k.putAccs (accIndex t.toNat (e.row row) 0) vals) e.w (g.pops 4))

/-- ZST (R369). -/
def execZst (g t : BitVec 8) (row : UImm) (s : State) : Host.Outcome State Fault Refusal :=
  issueReg (.zst g t row) s (fun e => do
    e.tiles
    let lo := accIndex t.toNat (e.row row) 0
    e.accCheck (indexRange lo 32)
    let l := e.k.accs lo 32
    return (List.range 4).foldl (fun w q =>
      w.writeV (g.toNat + q) allLanes (Vector.ofFn (fun j : Fin 32 => ((l[j.val]?.getD 0) >>> (32 * q)).setWidth 32))) e.w)

/-- ZADD (R369). -/
def execZadd (d a : BitVec 8) (sub : Bool) (s : State) : Host.Outcome State Fault Refusal :=
  issue (.zadd d a sub) s (fun e => do
    e.tiles
    e.accCheck (indexRange (1024 * d.toNat) 1024 ++ indexRange (1024 * a.toNat) 1024)
    let x := e.k.accs (1024 * d.toNat) 1024
    let y := e.k.accs (1024 * a.toNat) 1024
    return e.doneWith (e.k.putAccs (1024 * d.toNat) ((x.zip y).map (fun p => if sub then p.1 - p.2 else p.1 + p.2))) e.w [])

/-! ### Conversion (R255, R256, R370, R371) -/

/-- The weight of bit 0 under a format pair (R252). -/
def weightOf (pair : Nat) : Int := [0, 0, -48, -44, 0].getD pair 0

/-- The scale of a conversion: NaN, infinity, or a finite value; 1 where none is given. -/
def scaleVal (c : Option Word) : FpVal :=
  match c with
  | some x => f32Fmt.unpack (x &&& 0xFFFFFFFF)
  | none => .fin false 1 0

/-- A scaled accumulator: what S × v is, before rounding; `none` is an invalid product. -/
def scaled (sv : FpVal) (a w : Int) : Option FpVal :=
  match sv with
  | .nan _ => none
  | .inf sg => if a = 0 then none else some (.inf (sg != decide (a < 0)))
  | .fin sg m x => some (.fin (sg != decide (a < 0)) (m * a.natAbs) (x + w))

/-- The conversion to a binary format (R255). -/
def cvtFloat (f : FpFmt) (r : Rnd) (sv : FpVal) (a w : Int) : FpOut :=
  match scaled sv a w with
  | none => (f.qnan, fNV)
  | some (.inf sg) => (f.infinity sg, 0)
  | some (.fin sg m x) => f.round r false sg m x
  | some (.nan _) => (f.qnan, fNV)

/-- The conversion to an integer of n bits (R255). -/
def cvtInt (n : Nat) (r : Rnd) (sv : FpVal) (a w : Int) : FpOut :=
  match scaled sv a w with
  | none => (0, fNV)
  | some (.inf sg) => (wrap 32 (if sg then -(2 ^ (n - 1)) else 2 ^ (n - 1) - 1), fNV)
  | some (.fin sg m x) =>
    let (q, exact) := roundAt r sg m x 0
    let v : Int := if sg then -(q : Int) else q
    let c := satS v n
    (wrap 32 c, if c != v then fNV else if exact then 0 else fNX)
  | some (.nan _) => (0, fNV)

end Sys2Proof.Machine

namespace Sys2Proof
open Sys2Proof.Machine

/-- One lane of ZCVT; `old` is what the destination holds (R371). -/
def ZTy.convert (ty : ZTy) (fpctl : Word) (sv : FpVal) (a w : Int) (old : Word) : FpOut :=
  let r := RSel.mode .dyn fpctl
  match ty with
  | .f32 => cvtFloat f32Fmt r sv a w
  | .f16 => cvtFloat f16Fmt r sv a w
  | .s32 => cvtInt 32 r sv a w
  | .s16 => cvtInt 16 r sv a w
  | .s8 => cvtInt 8 r sv a w
  | .acc =>
    let p := cvtFloat f32Fmt r sv a w
    let q := FpCtx.add { f := f32Fmt, r := .ne, flush := false } (f32Fmt.unpack old) (f32Fmt.unpack p.1)
    (q.1, p.2 ||| q.2)

end Sys2Proof

namespace Sys2Proof.Machine

/-- ZCVT (R370, R371). -/
def execZcvt (d t : BitVec 8) (b : SReg) (c : OptS) (ty : ZTy) (clr : Bool) (s : State) :
    Host.Outcome State Fault Refusal :=
  issue (.zcvt d t b c ty clr) s (fun e => do
    let pair := pairOf e.w.fmt
    if pair > 4 || (c.isSome && pair != 3) then trapping .format e.w.fmt
    else do
      e.tiles
      let lo := accIndex t.toNat (bits (e.w.s b) 4 0) 0
      let l := e.k.accs lo 32
      let sv := scaleVal (c.map e.w.s)
      let f := fun i => ty.convert e.w.fpctl sv (l[i]?.getD 0).toInt (weightOf pair) (e.w.lane .w32 d.toNat i)
      let w ← e.fpPut d .w32 f
      e.accCheck (indexRange lo 32)
      return e.doneWith (if clr then e.k.putAccs lo (List.replicate 32 0) else e.k) w [])

end Sys2Proof.Machine
end

