-- ==== Sys2Proof/Machine/Accord.lean ====
section
/-! DEFINITION. The Accord engine, MAJ 0x29 (R374 to R394). -/

namespace Sys2Proof.Machine

/-! ### Issue (R381, R391) -/

/-- ACCRUN (R381). -/
def execAccrun (d a b c : SReg) (fs : Bool) (s : State) : Host.Outcome State Fault Refusal :=
  issue (.accrun d a b c fs) s (fun e => e.sendCommand d a b c fs)

/-- ACCSTAT (R391): it counts on a flag and is answered when the engine serves it. -/
def execAccstat (d : SReg) (fs : Bool) (s : State) : Host.Outcome State Fault Refusal :=
  issue (.accstat d fs) s (fun e => e.send e.y e.w { e.op fs with pendS := [d.toNat, d.toNat + 1] })

/-! ### Status codes (R386) -/

def accParam : Nat := 1
def accWindow : Nat := 2
def accFormat : Nat := 3
def accLimit : Nat := 4

/-- The status of a cause. -/
def accStatus (c : Cause) : Nat :=
  match c with
  | .accordDepth => 5
  | .accordForward => 6
  | .accordBounds => 7
  | .memError => 8
  | .page => 9
  | _ => 10

/-! ### The descriptor (R375, R376, R382) -/

/-- A grammar and what a command does with it. -/
structure Grammar where
  rules : Nat
  rows : Nat
  limit : Nat
  half : Bool
  cols : Nat
  table : Nat
  ruleOff : Nat
  rowOff : Nat
  symbols : Nat
  vecs : Nat
  base : Nat
  inp : Nat
  out : Nat
  deriving DecidableEq, Repr

/-- The checks of R376 and R382 that need only the descriptor and S[B]. -/
def descriptorBad (d : List Byte) (sb : Word) : Bool :=
  let f := fun o n => leValue ((d.drop o).take n)
  f 10 2 != 0 || f 48 8 != 0 || f 56 8 != 0 || f 8 1 = 0 || f 8 1 > 15 || f 9 1 > 1 || f 12 4 > 2 ^ 19 ||
    [16, 24, 32, 40].any (fun o => f o 8 % 4 != 0) || bits sb 63 54 != 0

/-- The fields of a descriptor. -/
def grammarOf (d : List Byte) (sb out : Word) : Grammar :=
  let f := fun o n => leValue ((d.drop o).take n)
  { rules := f 0 4, rows := f 4 4, limit := f 8 1, half := f 9 1 = 1, cols := f 12 4, table := f 16 8,
    ruleOff := f 24 8, rowOff := f 32 8, symbols := f 40 8, vecs := bits sb 53 50 + 1, base := bits sb 49 32,
    inp := bits sb 31 0, out := out.toNat }

/-- The size of an input element. -/
def Grammar.esize (g : Grammar) : Nat := if g.half then 2 else 4

/-- The input range ends with WINDOW (R378): it lies neither wholly in the block's own window nor in the die scratchpad,
or is not aligned. -/
def Grammar.windowBad (g : Grammar) (ws : List Window) : Bool :=
  let n := g.esize * g.vecs * g.cols
  n != 0 && ((rangeFail ws g.inp n).isSome || (decide (0x400000 ≤ g.inp) && decide (g.inp < 0x10000000)) ||
    g.inp % g.esize != 0)

/-- A sequence never falls. -/
def rising : List Nat → Bool
  | a :: b :: r => decide (a ≤ b) && rising (b :: r)
  | _ => true

/-- The bodies of an offset array: first symbol and end. -/
def bodiesOf : List Nat → List (Nat × Nat)
  | a :: b :: r => (a, b) :: bodiesOf (b :: r)
  | _ => []

/-- The input elements as integers, element c × B + b; none at a binary16 infinity or NaN (R252, R378). -/
def inputs (g : Grammar) (bs : List Byte) : Option (List Int) :=
  let vals := (List.range (g.vecs * g.cols)).map (fun i =>
    let v := leValue ((bs.drop (g.esize * i)).take g.esize)
    if g.half then half24 v else some (toI true 32 (BitVec.ofNat 64 v)))
  if vals.any (·.isNone) then none else some (vals.map (fun v => v.getD 0))

/-! ### Evaluation (R384) -/

/-- How a body stops: status, cause, symbol position, depth, vector. -/
structure BodyStop where
  status : Nat
  cause : Option TrapInfo
  sym : Nat
  depth : Option Nat
  vec : Nat
  deriving DecidableEq, Repr

/-- A body under way: the depth, the accumulators, and the accumulators over every shorter run of symbols. -/
structure BodyRun where
  d : Nat
  acc : List Int
  earlier : List (List Int)
  deriving DecidableEq, Repr

/-- What evaluation reads besides the symbols: values, inputs, the rules done with their depths. -/
structure AccordEnv where
  op : Op
  g : Grammar
  val : List Int
  xs : List Int
  rv : List (List Int)
  deps : List Nat

def inAcc (v : Int) : Bool := decide (-(2 ^ 127) ≤ v) && decide (v < 2 ^ 127)

/-- A stop with a cause whose TVAL is the rule or row. -/
def accStop (c : Cause) (r p : Nat) (depth : Option Nat) (vec : Nat) : BodyStop :=
  { status := accStatus c, cause := some (trapOf c (BitVec.ofNat 64 r)), sym := p, depth, vec }

/-- One symbol of the body of rule (or row) `r`. -/
def AccordEnv.symbol (a : AccordEnv) (rule : Bool) (r p s : Nat) (x : BodyRun) : Except BodyStop BodyRun :=
  let add := fun (d : Nat) (t : List Int) =>
    let sums := (List.range a.g.vecs).map (fun b => x.acc.getD b 0 + t.getD b 0)
    match (List.range a.g.vecs).find? (fun b => !inAcc (sums.getD b 0)) with
    | some b => Except.error (accStop .accordBounds r p none b)
    | none => .ok { d, acc := sums, earlier := x.earlier ++ [x.acc] }
  if s ≥ 2 ^ 31 then
    let q := s - 2 ^ 31
    if (if rule then r else a.g.rules) ≤ q then .error (accStop .accordForward r p none 0)
    else
      let d := if rule then Nat.max x.d (1 + a.deps.getD q 0) else x.d
      if rule && a.g.limit < d then .error (accStop .accordDepth r p (some d) 0)
      else add d (a.rv.getD q [])
  else
    let c := s % 2 ^ 19
    let v := a.val.getD (s / 2 ^ 19) 0
    if a.g.cols ≤ c then .error (accStop .accordBounds r p none 0)
    else if a.g.half && v.natAbs > 2 ^ 22 then
      .error { status := accFormat, cause := none, sym := p, depth := none, vec := 0 }
    else add x.d ((List.range a.g.vecs).map (fun b => v * a.xs.getD (a.g.vecs * c + b) 0))

/-- A symbol as the engine reads it now, or why the read fails (R155, R388). -/
def readSymbol (s : State) (p : Op) (die ctx va : Nat) : Except (Reason × Nat) Nat :=
  let rs := s.sys.engineRuns p.id die ctx va 4
  match s.sys.readFails p rs with
  | some f => .error f
  | none => .ok (leValue (runBytes s.mem rs))

/-- A body from symbol `p` on, `n` symbols long: its end, or its stop with the sums over the prefixes before it. -/
def AccordEnv.body (a : AccordEnv) (s : State) (die ctx : Nat) (rule : Bool) (r : Nat) :
    Nat → Nat → BodyRun → Except (BodyStop × BodyRun) BodyRun
  | _, 0, x => .ok x
  | p, n + 1, x =>
    match readSymbol s a.op die ctx (a.g.symbols + 4 * p) with
    | .error f => .error ({ status := 8, cause := some (memTrap f), sym := p, depth := none, vec := 0 }, x)
    | .ok w =>
      match a.symbol rule r p w x with
      | .error e => .error (e, x)
      | .ok x1 => a.body s die ctx rule r (p + 1) n x1

/-- A body at its first symbol. -/
def AccordEnv.start (a : AccordEnv) : BodyRun := { d := 1, acc := List.replicate a.g.vecs 0, earlier := [] }

/-- The rules from `r` on: all done, or the stop with the rule, what was done, and the sums it had reached. -/
def AccordEnv.rules (s : State) (die ctx : Nat) :
    Nat → List (Nat × Nat) → AccordEnv → AccordEnv × Option (Nat × BodyStop × BodyRun)
  | _, [], a => (a, none)
  | r, (lo, hi) :: rest, a =>
    match a.body s die ctx true r lo (hi - lo) a.start with
    | .error (e, x) => (a, some (r, e, x))
    | .ok x => AccordEnv.rules s die ctx (r + 1) rest { a with rv := a.rv ++ [x.acc], deps := a.deps ++ [x.d] }

/-- The words of ACCSTAT but for QUEUE: INDEX, V, STAGE and CODE; VEC, DEPTH and SYM (R391). -/
def accReport (stage status index sym depth vec : Nat) : List (Nat × Word) :=
  [(codeAccord, BitVec.ofNat 64 (index % 2 ^ 32 * 2 ^ 32 + 2 ^ 15 + stage * 2 ^ 10 + status)),
   (codeAccordTag, BitVec.ofNat 64 (vec * 2 ^ 40 + depth * 2 ^ 32 + sym % 2 ^ 32))]

/-- The command ends, with what ACCSTAT will report. -/
def endAccrun (u : Upd) (op status : Nat) (err : Option TrapInfo) (report : List (Nat × Word)) : Upd :=
  let v := endCommand u op status err
  { v with sys := v.sys.modOp op (fun p => { p with results := report }) }

/-- The command ends in setup: it owns nothing more (R76, R385). -/
def endSetup (u : Upd) (op status : Nat) (err : Option TrapInfo) : Upd :=
  let v := endAccrun u op status err (accReport 0 status 0 0 0 0)
  { v with sys := v.sys.modOp op (fun p => { p with args := p.args.take 3 ++ [0, 0] }) }

/-- What each accumulator of a stopped rule holds: its contents from before, or the sum over some prefix; which of them is
a free value for each vector (R385; log 6). -/
def stoppedRule (y : Sys) (old : List (BitVec 128)) (x : BodyRun) : List (BitVec 128) :=
  let sums := x.earlier ++ [x.acc]
  (List.range old.length).map (fun b =>
    let k := (y.freeAt b).toNat % (sums.length + 1)
    if k = 0 then old.getD b 0 else BitVec.ofInt 128 ((sums.getD (k - 1) []).getD b 0))

/-- The errors of the accumulators of a stopped rule that hold their contents from before (R85, R385). -/
def stoppedErrors (y : Sys) (at_ n : Nat) (bad : List Nat) (x : BodyRun) : List Nat :=
  bad.filter (fun i => decide (at_ ≤ i) && decide (i < at_ + n) &&
    (y.freeAt (i - at_)).toNat % ((x.earlier ++ [x.acc]).length + 1) == 0)

def deepest (l : List Nat) : Nat := l.foldl Nat.max 0

/-- The results of a row are written; a row whose write fails stops the command, and its SYM is a free value. -/
def writeRow (p : Op) (a : AccordEnv) (n : Nat) (acc : List Int) (s : State) : Upd × Bool :=
  let dst := s.sys.engineRuns p.id (dieOf p.core) p.ctx (a.g.out + 16 * a.g.vecs * n) (16 * a.g.vecs)
  match s.sys.writeFails p dst with
  | some f =>
    let sym := (s.sys.freeAt 0).toNat % 2 ^ 32
    (endAccrun (.of (s.sys.useFree 1)) p.id 8 (some (memTrap f)) (accReport 2 8 n sym (deepest a.deps) 0), false)
  | none => (engineWrite (.accord p.core) p.id dst (acc.flatMap (fun v => leBytes 16 (BitVec.ofInt 128 v).toNat)) s, true)

/-- The rows from `n` on (R383, R384). -/
def accordRows (p : Op) (a : AccordEnv) : Nat → List (Nat × Nat) → State → Upd
  | _, [], s => endAccrun (.of s.sys) p.id 0 none (accReport 3 0 0 0 (deepest a.deps) 0)
  | n, (lo, hi) :: rest, s =>
    match a.body s (dieOf p.core) p.ctx false n lo (hi - lo) a.start with
    | .error (e, _) =>
      endAccrun (.of s.sys) p.id e.status e.cause (accReport 2 e.status n e.sym (deepest a.deps) e.vec)
    | .ok x =>
      let w := writeRow p a n x.acc s
      if w.2 then Upd.andThen s w.1 (accordRows p a (n + 1) rest) else w.1

/-- Evaluation: the rules into the file, then the rows into memory (R383 to R385). -/
def accordEvaluate (p : Op) (k : Block) (a : AccordEnv) (rules rows : List (Nat × Nat)) (s : State) : Upd :=
  let r := AccordEnv.rules s (dieOf p.core) p.ctx 0 rules a
  let done := r.1.rv.flatMap (fun l => l.map (BitVec.ofInt 128))
  let k1 := k.putAccs a.g.base done
  match r.2 with
  | none => accordRows p r.1 0 rows { s with sys := s.sys.setBlock k1 }
  | some (i, e, x) =>
    let at_ := a.g.base + a.g.vecs * i
    let k2 := k1.putAccs at_ (stoppedRule s.sys (k.accs at_ a.g.vecs) x)
    let k3 := { k2 with badAcc := k2.badAcc ++ stoppedErrors s.sys at_ a.g.vecs k.badAcc x }
    let y := (s.sys.setBlock k3).useFree a.g.vecs
    endAccrun (.of y) p.id e.status e.cause
      (accReport 1 e.status i e.sym (e.depth.getD (deepest r.1.deps)) e.vec)

/-! ### Setup (R383) -/

/-- The command's set, in its engine's name. A command that parks gives up its place (R39, R389). -/
def accordSet (s : State) (p : Op) (ts : List Touch) : EngineSet :=
  match engineSet s p (p.requester 3 p.core) (.accord p.core) (dieOf p.core) ts with
  | .hold u => .hold { u with sys := u.sys.modOp p.id (fun q => match q.stage with
      | .parked _ => { q with pos := 0 }
      | _ => q) }
  | r => r

/-- The pages of a command's set, that of its task's word 2 among them, are more than 4,096 (R39, R172, R383). -/
def Sys.tooManyPages (y : Sys) (p : Op) (ts : List Touch) : Bool :=
  (((ts.map Touch.page) ++ ((y.wordTwo p).map (· / 65536)).toList).eraseDups).length > 4096

/-- The offsets of an array. -/
def offsets (n : Nat) (bs : List Byte) : List Nat := words32 n bs

/-- Setup from the offset arrays on, the descriptor read. -/
def accordArrays (p : Op) (k : Block) (g : Grammar) (first : List Touch) (s : State) : Upd :=
  let die := dieOf p.core
  let quit := fun st => endSetup (idle s) p.id st none
  let arrays := [(g.ruleOff, 4 * (g.rules + 1)), (g.rowOff, 4 * (g.rows + 1))]
  match farTrap arrays with
  | some t => endSetup (idle s) p.id 10 (some t)
  | none =>
    let ts := first ++ arrays.flatMap (fun r => engineTouches .read r.1 r.2)
    if s.sys.tooManyPages p ts then quit accLimit
    else match accordSet s p ts with
      | .hold u => u
      | .stop u t => endSetup u p.id (accStatus t.cause) (some t)
      | .go y1 =>
        let run := fun (y : Sys) (r : Nat × Nat) => y.engineRuns p.id die p.ctx r.1 r.2
        let offRuns := arrays.flatMap (run y1)
        match y1.pass p (.accord p.core) offRuns [] with
        | .error z => .of z
        | .ok y1 => match y1.readFails p offRuns with
          | some f => endSetup (.of y1) p.id 8 (some (memTrap f))
          | none =>
            let offs := fun (r : Nat × Nat) => offsets (r.2 / 4) (runBytes s.mem (run y1 r))
            let ro := offs (g.ruleOff, 4 * (g.rules + 1))
            let no := offs (g.rowOff, 4 * (g.rows + 1))
            let ws := y1.windows k none
            if !rising ro || !rising no then quit accParam
            else if g.windowBad ws || g.out % 16 != 0 then quit accWindow
            else if g.rules != 0 && g.base + g.rules * g.vecs > 1024 * k.zCount then
              endSetup (idle s) p.id 7 (some (trapOf .accordBounds 0))
            else
              let bodies := (bodiesOf ro ++ bodiesOf no).filter (fun b => b.1 < b.2)
              let syms := bodies.map (fun b => (g.symbols + 4 * b.1, 4 * (b.2 - b.1)))
              let out := (g.out, 16 * g.vecs * g.rows)
              match farTrap ((g.table, 16384) :: syms ++ [out]) with
              | some t => endSetup (idle s) p.id 10 (some t)
              | none =>
                let all := ts ++ engineTouches .read g.table 16384 ++
                  syms.flatMap (fun r => engineTouches .read r.1 r.2) ++ engineTouches .engineWrite out.1 out.2
                if y1.tooManyPages p all then quit accLimit
                else
                  let s1 : State := { s with sys := y1.runsRead p.ctx offRuns }
                  match accordSet s1 p all with
                  | .hold u => u
                  | .stop u t => endSetup u p.id (accStatus t.cause) (some t)
                  | .go y2 =>
                    let tab := run y2 (g.table, 16384)
                    let inr := localRuns ws g.inp (g.esize * g.vecs * g.cols)
                    let symRuns := syms.flatMap (run y2)
                    match y2.pass p (.accord p.core) (tab ++ inr ++ symRuns) (run y2 out) with
                    | .error z => .of z
                    | .ok y2 => match y2.readFails p (tab ++ inr) with
                      | some f => endSetup (.of y2) p.id 8 (some (memTrap f))
                      | none =>
                        match inputs g (runBytes s.mem inr) with
                        | none => endSetup (.of y2) p.id accFormat none
                        | some xs =>
                          let val := (words32 4096 (runBytes s.mem tab)).map (fun v => toI true 32 (BitVec.ofNat 64 v))
                          let y3 := y2.runsRead p.ctx (tab ++ symRuns)
                          accordEvaluate p k { op := p, g, val, xs, rv := [], deps := [] } (bodiesOf ro) (bodiesOf no)
                            { s with sys := y3 }

/-- Setup: the descriptor (R383). -/
def accordSetup (p : Op) (k : Block) (s : State) : Upd :=
  let die := dieOf p.core
  let da := (p.args.getD 0 0).toNat
  let sb := p.args.getD 1 0
  match farTrap [(da, 64)] with
  | some t => if da % 64 != 0 then endSetup (idle s) p.id accParam none else endSetup (idle s) p.id 10 (some t)
  | none =>
    if da % 64 != 0 then endSetup (idle s) p.id accParam none
    else
      let ts := engineTouches .read da 64
      match accordSet s p ts with
      | .hold u => u
      | .stop u t => endSetup u p.id (accStatus t.cause) (some t)
      | .go y1 =>
        let rs := y1.engineRuns p.id die p.ctx da 64
        match y1.pass p (.accord p.core) rs [] with
        | .error z => .of z
        | .ok y1 => match y1.readFails p rs with
          | some f => endSetup (.of y1) p.id 8 (some (memTrap f))
          | none =>
            let d := runBytes s.mem rs
            if descriptorBad d sb then endSetup (.of y1) p.id accParam none
            else
              let g := grammarOf d sb (p.args.getD 2 0)
              let file := [BitVec.ofNat 64 g.base, BitVec.ofNat 64 (g.rules * g.vecs)]
              let y2 := (y1.runsRead p.ctx rs).modOp p.id (fun q => { q with args := q.args.take 3 ++ file })
              accordArrays p k g ts { s with sys := y2 }

/-! ### The queue (R389) -/

def Op.isAccrun (p : Op) : Bool :=
  match p.instr with
  | .accrun _ _ _ _ _ => true
  | _ => false

/-- The commands of a core's engine that have been accepted and have not completed. -/
def Sys.accordQueue (y : Sys) (core : Nat) : List Op := y.ops.filter (fun q => q.isAccrun && q.core == core)

/-- A command may start: fewer than two run, none that arrived earlier waits to start, and no earlier one owns
accumulators that overlap its range. A parked command has not started (R39). -/
def Sys.accordMayStart (y : Sys) (p : Op) (k : Block) : Bool :=
  let others := (y.accordQueue p.core).filter (fun q => q.id != p.id)
  let parked := fun q : Op => match q.stage with | .parked _ => true | _ => false
  let earlier := others.filter (fun q => decide (q.id < p.id))
  decide ((others.filter (fun q => (q.pos != 0 || q.stage == .done) && !parked q)).length < 2) &&
    earlier.all (fun q => q.pos != 0 || q.stage == .done || parked q) &&
    earlier.all (fun q => match p.owns k, q.owns k with
      | some a, some b => !overlaps a.1 a.2 b.1 b.2
      | _, _ => true)

/-- ACCRUN_SETUP_START (R389, R383): a command starts, waits for its witness, and runs through setup and evaluation. -/
def execAccrunSetupStart (op : Nat) (s : State) : Host.Outcome State Fault Refusal :=
  machineStep s (
    match s.sys.op? op with
    | none => idle s
    | some p =>
      match s.sys.block? p.block with
      | none => idle s
      | some k =>
        if !p.isAccrun || !s.sys.mayServe p (.accord p.core) || (p.pos = 0 && !s.sys.accordMayStart p k) then idle s
        else
          let s1 : State := { s with sys := s.sys.modOp op (fun q => { q with pos := 1 }) }
          match s.sys.commandWit (coreReader p.core) p with
          | .wait => .of s1.sys
          | .bad => endSetup (.of s1.sys) op 10 (some (trapOf .witness p.wit))
          | .yes => accordSetup { p with pos := 1 } k s1)

end Sys2Proof.Machine
end

