-- ==== Sys2Proof/Machine/Scratch.lean ====
section
/-! DEFINITION. Scratchpad loads and stores, MAJ 0x10 (R285 to R297). -/

namespace Sys2Proof.Machine

/-- The element that the last of some indices supplies: lane i of a register or a pair (R287). -/
def Env.storeData (e : Env) (d : BitVec 8) (sz : Sz) (is : List Nat) : List Byte :=
  let idx := is.getLastD 0
  let r := d.toNat + idx / 32 * (if sz = .w64 then 2 else 1)
  leBytes sz.bytes (e.w.lane sz r (idx % 32)).toNat

/-- The V registers an element destination names. -/
def elemRegs (sz : Sz) (d : BitVec 8) : List Nat := if sz = .w64 then [d.toNat, d.toNat + 1] else [d.toNat]

end Sys2Proof.Machine

namespace Sys2Proof
open Sys2Proof.Machine

/-- A vector load. -/
def MemV.loadForm (o : MemV) : MemForm :=
  { w := o.w, size := o.sz.bytes, second := false, pendV := elemRegs o.sz o.d, pendS := [], writes := false,
    kind := fun _ => .read }

/-- A vector store; its data is read at issue. -/
def MemV.storeForm (o : MemV) (e : Env) : MemForm :=
  { w := o.w, size := o.sz.bytes, second := true, pendV := [], pendS := [], writes := true,
    kind := fun is => .write (e.storeData o.d o.sz is) }

/-- A uniform load. -/
def MemU.loadForm (o : MemU) : MemForm :=
  { w := o.w, size := o.sz.bytes, second := false, pendV := [], pendS := [o.d.toNat], writes := false,
    kind := fun _ => .read }

/-- A uniform store. -/
def MemU.storeForm (o : MemU) (e : Env) : MemForm :=
  { w := o.w, size := o.sz.bytes, second := true, pendV := [], pendS := [], writes := true,
    kind := fun _ => .write (leBytes o.sz.bytes (e.w.s o.d).toNat) }

/-- LDK's form (R293). -/
def MemK.loadForm (o : MemK) : MemForm :=
  { w := o.w, size := o.sz.bytes, second := false, pendV := (List.range o.count).map (fun j => o.d.toNat + j), pendS := [],
    writes := false, kind := fun _ => .read }

/-- STK's form (R293). -/
def MemK.storeForm (o : MemK) (e : Env) : MemForm :=
  { w := o.w, size := o.sz.bytes, second := true, pendV := [], pendS := [], writes := true,
    kind := fun is => .write (e.storeData o.d o.sz is) }

end Sys2Proof

namespace Sys2Proof.Machine

/-- The elements of a vector form. -/
def Env.memElems (e : Env) (o : MemV) : List Elem := e.laneElems o.base o.index o.sc o.off.toInt

/-- LDS (R291, R292). -/
def execLds (o : MemV) (s : State) : Host.Outcome State Fault Refusal :=
  issue (.lds o) s (fun e => e.localForm o.loadForm (e.memElems o))

/-- STS (R291, R292). -/
def execSts (o : MemV) (s : State) : Host.Outcome State Fault Refusal :=
  issue (.sts o) s (fun e => e.localForm (o.storeForm e) (e.memElems o))

/-- LDSU (R294). -/
def execLdsu (o : MemU) (s : State) : Host.Outcome State Fault Refusal :=
  issue (.ldsu o) s (fun e => e.localForm o.loadForm (e.uniElem o.base o.off.toInt))

/-- STSU (R294). -/
def execStsu (o : MemU) (s : State) : Host.Outcome State Fault Refusal :=
  issue (.stsu o) s (fun e => e.localForm (o.storeForm e) (e.uniElem o.base o.off.toInt))

/-- LDK (R293). -/
def execLdk (o : MemK) (s : State) : Host.Outcome State Fault Refusal :=
  issue (.ldk o) s (fun e => e.localForm o.loadForm (e.blockElems o))

/-- STK (R293). -/
def execStk (o : MemK) (s : State) : Host.Outcome State Fault Refusal :=
  issue (.stk o) s (fun e => e.localForm (o.storeForm e) (e.blockElems o))

end Sys2Proof.Machine
end

