-- ==== Sys2Proof/Machine/Atomic.lean ====
section
/-! DEFINITION. Atomics, MAJ 0x11 (R298 to R303). -/

namespace Sys2Proof.Machine

/-- Lane i's part of an atomic (R300). -/
def Env.atomLane (e : Env) (d : BitVec 8) (wide : Bool) (i : Nat) : AtomLane :=
  let sz : Sz := if wide then .w64 else .w32
  { lane := i, val := e.w.lane sz d.toNat i, cmp := e.w.lane sz (d.toNat + (if wide then 2 else 1)) i }

end Sys2Proof.Machine

namespace Sys2Proof
open Sys2Proof.Machine

/-- The form of ATS and ATM. -/
def AtV.form (o : AtV) (e : Env) : MemForm :=
  { w := o.w, size := if o.wide then 8 else 4, second := false,
    pendV := elemRegs (if o.wide then .w64 else .w32) o.d, pendS := [], writes := true,
    kind := fun is => .atomic o.aop o.wide (is.map (e.atomLane o.d o.wide)) }

/-- The form of ATSU. -/
def AtU.form (o : AtU) (e : Env) : MemForm :=
  { w := o.w, size := if o.wide then 8 else 4, second := false, pendV := [], pendS := [o.d.toNat], writes := true,
    kind := fun is => .atomic o.aop o.wide
      (is.map (fun i => { lane := i, val := e.w.s o.d, cmp := e.w.sn (o.d.toNat + 1) })) }

end Sys2Proof

namespace Sys2Proof.Machine

/-- ATS (R301). -/
def execAts (o : AtV) (s : State) : Host.Outcome State Fault Refusal :=
  issue (.ats o) s (fun e => e.localForm (o.form e) (e.laneElems o.base o.index o.sc o.off.toInt))

/-- ATSU (R301). -/
def execAtsu (o : AtU) (s : State) : Host.Outcome State Fault Refusal :=
  issue (.atsu o) s (fun e => e.localForm (o.form e) (e.uniElem o.base o.off.toInt))

/-- ATM (R301, R302). -/
def execAtm (o : AtV) (s : State) : Host.Outcome State Fault Refusal :=
  issue (.atm o) s (fun e => e.mainForm (o.form e) .write (e.laneElems o.base o.index o.sc o.off.toInt))

end Sys2Proof.Machine
end

