-- ==== Sys2Proof/Machine/Branch.lean ====
section
/-! DEFINITION. Branch forms, MAJ 0x30 (R182 to R184, R395 to R398). -/

namespace Sys2Proof.Machine

/-- The sub-warp at a target, which is a clause boundary; it keeps the transferring word's PC until the clause starts (R395). -/
def Sub.at_ (b : Sub) (pc : Word) : Sub :=
  { b with pc, place := .boundary, wait := .none, under := .none, came := some (b.pc, b.header), set := [] }

/-- The state with the executing sub-warp replaced, in a warp that may have changed besides. -/
def Env.move (e : Env) (w : Warp) (b : Sub) : Upd := .of ((e.y.setWarp (w.setSub e.o b)).mark e.k.ctx)

/-- The target of a relative transfer, without wrap-around (R201). -/
def Env.relative (e : Env) (off : BitVec 22) : Int := (e.b.pc.toNat : Int) + 8 * off.toInt

/-- A relative branch, taken or not; `w` is the warp as the branch leaves it. A branch that is not taken checks nothing
about its target (R395). -/
def Env.branch (e : Env) (w : Warp) (taken : Bool) (off : BitVec 22) : Except Hold Upd :=
  if taken then
    match e.target (e.relative off) false with
    | .ok t => .ok (e.move w (e.b.at_ t))
    | .error h => .error h
  else .ok (e.move w e.b.past)

/-- An indirect jump (R395). -/
def Env.jump (e : Env) (base : Word) (k : Int) : Except Hold Upd :=
  match e.target ((base.toNat : Int) + 8 * k) true with
  | .ok t => .ok (e.move e.w (e.b.at_ t))
  | .error h => .error h

/-- BRA (R396). -/
def execBra (off : BitVec 22) (s : State) : Host.Outcome State Fault Refusal :=
  issue (.bra off) s (fun e => e.branch e.w true off)

/-- BRS (R396). -/
def execBrs (c : SReg) (z : Bool) (off : BitVec 22) (s : State) : Host.Outcome State Fault Refusal :=
  issue (.brs c z off) s (fun e => e.branch e.w ((e.w.sx e.o c != 0) != z) off)

/-- The lanes for which BRV's condition holds (R397). -/
def Env.votes (e : Env) (v : BitVec 8) (z : Bool) : LaneMask :=
  maskOf (fun i => e.b.active i && ((e.w.vl v.toNat i != 0) != z))

/-- BRV (R397). -/
def execBrv (v : BitVec 8) (z : Bool) (off : BitVec 22) (s : State) : Host.Outcome State Fault Refusal :=
  issue (.brv v z off) s (fun e =>
    let t := e.votes v z
    if e.b.exec = 0 || t = 0 then e.branch e.w false off
    else if t = e.b.exec then e.branch e.w true off
    else .error (.trap { trapOf .uniformity (t.zeroExtend 64) with tlanes := t }))

/-- BRZ (R396). -/
def execBrz (m : OptS) (off : BitVec 22) (s : State) : Host.Outcome State Fault Refusal :=
  issue (.brz m off) s (fun e =>
    let v : LaneMask := match m with
      | some r => (e.w.s r).setWidth 32
      | none => e.b.exec
    e.branch e.w (v == 0) off)

/-! ### BSPLIT (R183) -/

/-- The lanes that vote taken. -/
def Env.splitVotes (e : Env) (c : CondVS) : LaneMask :=
  maskOf (fun i => e.b.active i && (match c with
    | .v r => e.w.vl r.toNat i != 0
    | .s r => (e.w.s r).getLsbD i))

/-- The lanes of slice k. -/
def sliceLanes (k : Nat) : LaneMask := 0xF#32 <<< (4 * k)

/-- The lanes of the slices for which `f` holds. -/
def slicesWhere (f : LaneMask → Bool) : LaneMask :=
  (List.range 8).foldl (fun m k => if f (sliceLanes k) then m ||| sliceLanes k else m) 0

/-- The lowest split entry that is free. -/
def Warp.freeSplit (w : Warp) : Option Nat := (List.range 4).find? (fun n => !w.splits.contains n)

/-- The sub-warp after both paths agree: one serial frame with no pending path. -/
def Sub.pushSerial (b : Sub) : Sub := { b with frames := .serial b.perm b.exec none :: b.frames }

/-- Mask serialisation: the taken path runs first. -/
def Sub.serialise (b : Sub) (pc : Word) (t n : LaneMask) : Sub :=
  { b.at_ pc with perm := t, exec := t, frames := .serial b.perm b.exec (some (b.past.pc, n)) :: b.frames }

/-- The two children of a split at entry n; the fall-through child keeps the sub-warp's identifier. -/
def Env.splitInto (e : Env) (n : Nat) (l1 : LaneMask) (t : Word) : Upd :=
  let c1 : Sub := { e.b.at_ t with
    id := e.y.nextId, lset := l1, perm := e.b.perm &&& l1, exec := e.b.exec &&& l1,
    frames := .split n false none :: e.b.frames }
  let l2 := e.b.lset &&& ~~~l1
  let c2 : Sub := { e.b.past with
    lset := l2, perm := e.b.perm &&& l2, exec := e.b.exec &&& l2, frames := .split n true none :: e.b.frames }
  let w := e.w.setSub e.o c2
  let kin := fun d : Handler => if d.has e.b.id then { d with kin := d.kin ++ [c1.id] } else d
  let w1 := { w with subs := w.subs ++ [c1], splits := w.splits ++ [n], handler := w.handler.map kin }
  let y := (e.y.setWarp w1).mark e.k.ctx
  .of { y with nextId := e.y.nextId + 1 }

/-- BSPLIT (R183). -/
def execBsplit (c : CondVS) (off : BitVec 22) (s : State) : Host.Outcome State Fault Refusal :=
  issue (.bsplit c off) s (fun e =>
    let t := e.splitVotes c
    let n := e.b.exec &&& ~~~t
    if t = 0 then .ok (e.move e.w e.b.past.pushSerial)
    else
      match e.target (e.relative off) false with
      | .error h => .error h
      | .ok pc =>
        if n = 0 then .ok (e.move e.w (e.b.at_ pc).pushSerial)
        else
          let taken := slicesWhere (fun l => (t &&& l) != 0 && (n &&& l) == 0)
          let falling := slicesWhere (fun l => (n &&& l) != 0 && (t &&& l) == 0)
          let mixed := slicesWhere (fun l => (n &&& l) != 0 && (t &&& l) != 0)
          match e.w.freeSplit with
          | some entry =>
            if mixed = 0 && taken != 0 && falling != 0 then .ok (e.splitInto entry taken pc)
            else .ok (e.move e.w (e.b.serialise pc t n))
          | none => .ok (e.move e.w (e.b.serialise pc t n)))

/-! ### JOIN (R184) -/

/-- The sibling of a split that waits at its JOIN. -/
def Warp.waiting (w : Warp) (n : Nat) (self : Nat) : Option Sub :=
  w.subs.find? (fun b => b.id != self && b.wait == .join n &&
    (match b.frames with | .split m _ _ :: _ => m == n | _ => false))

/-- Two children merged: the fall-through child goes on after its JOIN, with its own frames below the split. -/
def Warp.mergeSubs (w : Warp) (n : Nat) (fall other : Sub) : Warp :=
  let m : Sub := { fall.past with
    lset := fall.lset ||| other.lset, perm := fall.perm ||| other.perm, exec := fall.exec ||| other.exec,
    frames := fall.frames.tail }
  let w1 := w.setSub (some fall.id) m
  { w1 with subs := w1.subs.filter (fun b => b.id != other.id), splits := w1.splits.filter (fun k => k != n),
            handler := w1.handler.map (fun d => if d.has other.id then { d with kin := d.kin ++ [fall.id] } else d) }

/-- What a merged sub-warp has issued is the merged one's from now on (R443). -/
def Sys.subMerged (y : Sys) (w gone kept : Nat) : Sys :=
  { y with ops := y.ops.map (fun p => if p.warp == some w && p.sub == gone then { p with sub := kept } else p),
           imprecise := y.imprecise.map (fun m => if m.warp == w && m.sub == gone then { m with sub := kept } else m) }

/-- What an exited sub-warp has issued follows its lanes from now on (R443). -/
def Sys.subExited (y : Sys) (w gone : Nat) (lanes : LaneMask) : Sys :=
  { y with ops := y.ops.map (fun p => if p.warp == some w && p.sub == gone then { p with home := lanes } else p),
           imprecise := y.imprecise.map (fun m => if m.warp == w && m.sub == gone then { m with lanes } else m) }

/-- The pending path of a serial frame becomes current (R184, R398). -/
def Sub.runPending (b : Sub) (perm exec : LaneMask) (pc : Word) (n exited : LaneMask) (rest : List Frame) : Sub :=
  { b.at_ pc with perm := n &&& ~~~exited, exec := n &&& ~~~exited, frames := .serial perm exec none :: rest }

/-- JOIN (R184). -/
def execJoin (s : State) : Host.Outcome State Fault Refusal :=
  issue .join s (fun e =>
    match e.b.frames with
    | [] => trapping .convergence 0
    | .serial p x (some (pc, n)) :: rest =>
      match e.target pc.toNat false with
      | .ok t => .ok (e.move e.w (e.b.runPending p x t n e.w.exited rest))
      | .error h => .error h
    | .serial p x none :: rest =>
      .ok (e.move e.w { e.b.past with perm := p &&& ~~~e.w.exited, exec := x &&& ~~~e.w.exited, frames := rest })
    | .split n fall gone :: rest =>
      match gone with
      | some l =>
        .ok (e.move { e.w with splits := e.w.splits.filter (fun k => k != n) }
          { e.b.past with lset := e.b.lset ||| l, frames := rest })
      | none =>
        match e.w.waiting n e.b.id with
        | none => .error (.wait (.join n))
        | some sib =>
          let me := { e.b with wait := .none }
          let w := if fall then e.w.mergeSubs n me sib else e.w.mergeSubs n sib me
          let gone := if fall then sib.id else e.b.id
          let kept := if fall then e.b.id else sib.id
          .ok (.of (((e.y.setWarp w).subMerged e.w.id gone kept).mark e.k.ctx)))

/-! ### Calls and loops (R396) -/

/-- ILLEGAL of a target goes before UNGUARDED, which goes before the other causes (R416); a target whose page is still to be translated is
waited for first. -/
def Env.guarded (e : Env) (r : Except Hold Upd) : Except Hold Upd :=
  match r, e.guard? with
  | .error (.trap t), some g => if t.cause = .illegal then .error (.trap t) else .error (.trap g)
  | .error (.change u), some _ => .error (.change u)
  | _, some g => .error (.trap g)
  | r, none => r

/-- CALL (R396). -/
def execCall (l : SReg) (off : BitVec 22) (s : State) : Host.Outcome State Fault Refusal :=
  issue (.call l off) s (fun e => e.guarded (e.branch (e.w.setS l (e.b.pc + 8)) true off))

/-- RET (R396). -/
def execRet (l : SReg) (s : State) : Host.Outcome State Fault Refusal :=
  issue (.ret l) s (fun e => e.jump (e.w.s l) 0)

/-- JMPI (R396). -/
def execJmpi (l : SReg) (k : BitVec 22) (s : State) : Host.Outcome State Fault Refusal :=
  issue (.jmpi l k) s (fun e => e.jump (e.w.s l) k.toInt)

/-- LOOP (R396). -/
def execLoop (c : SReg) (off : BitVec 22) (s : State) : Host.Outcome State Fault Refusal :=
  issue (.loop c off) s (fun e =>
    let v := e.w.sx e.o c - 1
    e.branch (e.w.setSx e.o c v) (v != 0) off)

/-! ### EXIT (R398) -/

/-- What EXIT finds on the frame stack: a pending path, or the end of the sub-warp with the split entry on top.
`freed` and `lanes` are the entries whose sibling has exited already, and its lanes (log 15). -/
inductive ExitPlan where
  | pending (perm exec : LaneMask) (pc : Word) (n : LaneMask) (rest : List Frame) (freed : List Nat) (lanes : LaneMask)
  | ends (entry : Option Nat) (freed : List Nat) (lanes : LaneMask)
  deriving DecidableEq, Repr

def exitPlan (freed : List Nat) (lanes : LaneMask) : List Frame → ExitPlan
  | [] => .ends none freed lanes
  | .serial p x (some (pc, n)) :: r => .pending p x pc n r freed lanes
  | .serial _ _ none :: r => exitPlan freed lanes r
  | .split n _ none :: _ => .ends (some n) freed lanes
  | .split n _ (some l) :: r => exitPlan (n :: freed) (lanes ||| l) r

/-- Every frame of entry n records that the sibling with lanes `l` has exited. -/
def markGone (n : Nat) (l : LaneMask) (fs : List Frame) : List Frame :=
  fs.map (fun f => match f with
    | .split m fall g => if m = n then .split m fall (some l) else .split m fall g
    | f => f)

/-- The sibling of an exited sub-warp merges alone: now, when it waits at its JOIN, or on reaching it. -/
def Warp.siblingAlone (w : Warp) (n : Nat) (l : LaneMask) : Warp :=
  match w.waiting n 0xFFFFFFFFFFFFFFFF with
  | some sib =>
    let w1 := w.setSub (some sib.id) { sib.past with lset := sib.lset ||| l, frames := sib.frames.tail }
    { w1 with splits := w1.splits.filter (fun k => k != n) }
  | none => { w with subs := w.subs.map (fun b => { b with frames := markGone n l b.frames }) }

/-- A command of a command processor, with no warp (R172, R179). -/
def procOp (y : Sys) (i : Instr) (ctx core block : Nat) (wit : Word) (args : List Word) : Op where
  id := y.nextId
  instr := i
  warp := none
  sub := 0
  lanes := 0
  pc := 0
  ctx := ctx
  core := core
  part := 0
  slot := 0
  index := 0
  block := block
  flag := none
  tick := y.time.now
  wit := wit
  args := args
  phase := 0
  set := []
  pendV := []
  pendS := []
  results := []
  status := 0
  out := 0
  err := none
  stage := .queued
  pos := 0
  batch := none
  home := 0
  lost := []
  moved := []

/-- A warp task's end: the command processor signals SUCC with a device-scope witness of the end tick (R179). -/
def Sys.endTask (y : Sys) (k : Block) : Sys :=
  match k.job with
  | .task _ _ _ rec_ =>
    let succ := rec_.getD 1 0
    if succ = 0 then y
    else
      let p := procOp y (.dsig 0 none true false false) k.ctx k.core k.id
        (Origin.wit (.proc (dieOf k.core)) 2 y.time.now) [succ, k.tskid]
      { y with ops := y.ops ++ [p], nextId := y.nextId + 1 }
  | .grid _ _ => y

/-- The warp without the exiting sub-warp; handler mode ends with its last sub-warp (log 15). -/
def Warp.withoutSub (w : Warp) (id : Nat) : Warp :=
  let subs := w.subs.filter (fun b => b.id != id)
  let keep := fun d : Handler => subs.any (fun b => d.has b.id)
  match w.handler with
  | some d => if keep d then { w with subs } else { w with subs, handler := none, cause := 0 }
  | none => { w with subs }

/-- EXIT of the execute slice. A task that ends in handler mode signals nothing (R179). -/
def Env.exitSub (e : Env) : Upd :=
  let exited := e.w.exited ||| e.b.perm
  let free := fun (w : Warp) (l : List Nat) => { w with exited, splits := w.splits.filter (fun k => !l.contains k) }
  match exitPlan [] 0 e.b.frames with
  | .pending p x pc n rest freed lanes =>
    let b := e.b.runPending p x pc n exited rest
    e.move (free e.w freed) { b with lset := e.b.lset ||| lanes }
  | .ends entry freed lanes =>
    let w1 := (free e.w freed).withoutSub e.b.id
    let w2 := match entry with
      | some n => w1.siblingAlone n (e.b.lset ||| lanes)
      | none => w1
    if w2.subs.isEmpty then
      let y := if e.w.handler.isSome then e.y else e.y.endTask e.k
      .of ((y.dropWarp e.w.id).mark e.k.ctx)
    else
      let queued := (e.w.handler.map (·.queued)).getD []
      let y := ((e.y.setWarp w2).subExited e.w.id e.b.id e.b.lset).mark e.k.ctx
      if w2.handler.isNone && !queued.isEmpty then enterQueued { e.s with sys := y } w2.id queued else .of y

/-- EXIT (R398). An access slice's EXIT takes effect once its streams have pushed (R333). -/
def execExit (s : State) : Host.Outcome State Fault Refusal :=
  issue .exit s (fun e =>
    if e.o.isNone then .ok (.of (e.y.setWarp (e.w.setSub e.o { e.b with wait := .exiting })))
    else match exitPlan [] 0 e.b.frames with
      | .pending _ _ pc _ _ _ _ => match e.target pc.toNat false with
        | .ok _ => .ok e.exitSub
        | .error h => .error h
      | .ends _ _ _ => .ok e.exitSub)

/-- NOP (R396). -/
def execNop (s : State) : Host.Outcome State Fault Refusal :=
  issueReg .nop s (fun e => .ok e.w)

end Sys2Proof.Machine
end

