-- ==== Sys2Proof/Machine/Heap.lean ====
section
/-! DEFINITION. Heap and page commands, MAJ 0x14: the Flacon agents, commits and decommits (R46 to R49, R129, R321 to
R331). -/

namespace Sys2Proof.Machine

/-! ### Issue (R321, R324) -/

/-- A command of MAJ 0x14: operand and witness read at issue, its results pending. -/
def Env.sendHeap (e : Env) (a : SReg) (w : OptS) (fs : Bool) (pendS : List Nat) : Except Hold Upd :=
  match e.witnessOk (e.optS w) with
  | .error h => .error h
  | .ok () => e.send e.y e.w { e.op fs with wit := e.optS w, args := [e.w.s a], pendS }

/-- HALLOC (R326). -/
def execHalloc (d a : SReg) (w : OptS) (trapping zero fs : Bool) (s : State) : Host.Outcome State Fault Refusal :=
  issue (.halloc d a w trapping zero fs) s (fun e => e.sendHeap a w fs [d.toNat, d.toNat + 1])

/-- HFREE (R327). -/
def execHfree (d a : SReg) (w : OptS) (fs : Bool) (s : State) : Host.Outcome State Fault Refusal :=
  issue (.hfree d a w fs) s (fun e => e.sendHeap a w fs [d.toNat])

/-- HQRY (R328). -/
def execHqry (d a : SReg) (fs : Bool) (s : State) : Host.Outcome State Fault Refusal :=
  issue (.hqry d a fs) s (fun e => e.sendHeap a none fs [d.toNat])

/-- PCOMMIT (R329). -/
def execPcommit (d a : SReg) (w : OptS) (fs : Bool) (s : State) : Host.Outcome State Fault Refusal :=
  issue (.pcommit d a w fs) s (fun e => e.sendHeap a w fs [d.toNat, d.toNat + 1])

/-- PDECOMMIT (R329). -/
def execPdecommit (d a : SReg) (w : OptS) (zero fs : Bool) (s : State) : Host.Outcome State Fault Refusal :=
  issue (.pdecommit d a w zero fs) s (fun e => e.sendHeap a w fs [d.toNat, d.toNat + 1])

/-- PQRY (R330). -/
def execPqry (d a : SReg) (fs : Bool) (s : State) : Host.Outcome State Fault Refusal :=
  issue (.pqry d a fs) s (fun e => e.sendHeap a none fs [d.toNat, d.toNat + 1])

/-! ### Status codes (R323) and ends -/

def heapExhausted : Nat := 1
def heapInvalid : Nat := 2
def heapNone : Nat := 3
def heapAlready : Nat := 4
def poolEmpty : Nat := 5
def pageNotL0 : Nat := 6
def pageNotPresent : Nat := 7
def heapDenied : Nat := 8
def poolFull : Nat := 9
def heapPage : Nat := 10
def pageMalformed : Nat := 11

/-- The SUB and the D register of a heap or page command (R324). -/
def heapForm (i : Instr) : Option (Nat × Nat) :=
  match i with
  | .halloc d _ _ _ _ _ => some (0, d.toNat)
  | .hfree d _ _ _ => some (1, d.toNat)
  | .hqry d _ _ => some (2, d.toNat)
  | .pcommit d _ _ _ => some (3, d.toNat)
  | .pdecommit d _ _ _ _ => some (4, d.toNat)
  | .pqry d _ _ => some (5, d.toNat)
  | _ => none

/-- A heap or page command ends: S[D], S[D+1] where the form has it, and HSTAT (R321, R322). -/
def endHeap (u : Upd) (p : Op) (status : Nat) (d d1 : Word) (err : Option TrapInfo) : Upd :=
  let f := (heapForm p.instr).getD (0, 0)
  let regs := [(codeS f.2, d)] ++ (if f.1 = 1 || f.1 = 2 then [] else [(codeS (f.2 + 1), d1)])
  let v := endCommand u p.id status err
  { v with sys := v.sys.modOp p.id (fun q =>
      { q with results := regs ++ [(codeHstat, BitVec.ofNat 64 (f.1 * 2 ^ 24 + status))] }) }

/-- An end whose D result is the status. -/
def endStatus (u : Upd) (p : Op) (status : Nat) (err : Option TrapInfo) : Upd :=
  endHeap u p status (BitVec.ofNat 64 status) 0 err

/-- A status that the manual leaves open: a command whose own accesses failed (log 6). -/
def Sys.openStatus (y : Sys) : Nat := (y.freeAt 0).toNat % 12

/-- A cause that the command's translation set meets (R323, R326). `hd` is what S[D] receives from the status. -/
def endRefused (u : Upd) (p : Op) (hd : Nat → Word) (t : TrapInfo) : Upd :=
  match t.cause with
  | .protection => endHeap u p heapDenied (hd heapDenied) 0 (some t)
  | .page => endHeap u p heapPage (hd heapPage) 0 (some t)
  | _ =>
    let st := u.sys.openStatus
    endHeap { u with sys := u.sys.useFree 1 } p st (hd st) 0 (some t)

/-! ### Flacon (R325 to R328) -/

/-- The size class of a request (R325). -/
def heapClass (b : Nat) : Nat := ((List.range 17).find? (fun k => decide (b ≤ 2 ^ (8 + k)))).getD 16

def HeapBlock.size (b : HeapBlock) : Nat := 2 ^ (8 + b.cls)

/-- The places of the arena where a new block of a class can be carved: aligned to its size up to 64 KiB, in unused
space. -/
def Context.spots (c : Context) (cls : Nat) : List Nat :=
  match c.arena with
  | none => []
  | some (base, size) =>
    let n := 2 ^ (8 + cls)
    let al := Nat.min n 65536
    let first := (base + al - 1) / al * al
    ((List.range ((base + size - first) / al)).map (fun i => first + al * i)).filter (fun a =>
      decide (a + n ≤ base + size) && !c.heap.any (fun b => overlaps a n b.addr b.size))

/-- One of some values, as a free value chooses (log 6). -/
def pickFree {α : Type} (v : Word) (l : List α) : Option α := l[v.toNat % l.length]?

/-- The block that HALLOC takes: from the agent's own list, else a free block of another agent, else carved (R325).
Which of several it takes is open. -/
def Context.take (c : Context) (die cls : Nat) (v : Word) : Option HeapBlock :=
  let free := c.heap.filter (fun b => b.cls == cls && b.state == .free)
  let mine := free.filter (fun b => b.owner == die)
  match pickFree v mine with
  | some b => some b
  | none => match pickFree v free with
    | some b => some b
    | none => (pickFree v (c.spots cls)).map (fun a => { addr := a, cls, owner := die, state := .free, wit := 0, mark := 0 })

/-- The heap with one block replaced or added. -/
def Context.putBlock (c : Context) (b : HeapBlock) : Context :=
  if c.heap.any (fun x => x.addr == b.addr) then
    { c with heap := c.heap.map (fun x => if x.addr == b.addr then b else x) }
  else { c with heap := c.heap ++ [b] }

/-- HALLOC at its agent (R326). `.T` has no effect in a task (R172). -/
def serveHalloc (p : Op) (trapping zero : Bool) (s : State) : Upd :=
  let die := dieOf p.core
  let size := (p.args.getD 0 0).toNat
  let c := s.sys.context p.ctx
  let fails := fun (st : Nat) (t : Cause) =>
    endHeap (idle s) p st 0 0 (if trapping && p.warp.isSome then some (trapOf t (BitVec.ofNat 64 size)) else none)
  if c.arena.isNone then endHeap (idle s) p heapNone 0 0 none
  else if size = 0 || size > 2 ^ 24 then fails heapInvalid .heapInvalid
  else match c.take die (heapClass size) (s.sys.freeAt 0) with
    | none => fails heapExhausted .heapExhausted
    | some b =>
      let ts := if zero then engineTouches .engineWrite b.addr b.size else []
      match engineSet s p (p.requester 4 die) (.flacon die) die ts with
      | .hold u => u
      | .stop u t => 
        let freed := (u.sys.context p.ctx).putBlock { b with owner := die, state := .free }
        endRefused { u with sys := u.sys.setContext p.ctx freed } p (fun _ => 0) t
      | .go y =>
        let runs := if zero then y.engineRuns p.id die p.ctx b.addr b.size else []
        match y.pass p (.flacon die) [] runs with
        | .error z => .of z
        | .ok y => match y.writeFails p runs with
          | some f => endRefused (.of y) p (fun _ => 0) (memTrap f)
          | none =>
            let y1 := (y.setContext p.ctx (c.putBlock { b with owner := die, state := .live })).useFree 1
            let u := engineWrite (.flacon die) p.id runs (List.replicate (if zero then b.size else 0) 0) { s with sys := y1 }
            endHeap u p 0 (BitVec.ofNat 64 b.addr) (merge b.wit b.mark) none

/-- HFREE at the owning agent (R327). -/
def serveHfree (p : Op) (s : State) : Upd :=
  let a := (p.args.getD 0 0).toNat
  let c := s.sys.context p.ctx
  if c.arena.isNone then endStatus (idle s) p heapNone none
  else match c.heap.find? (fun b => b.addr == a && b.state == .live) with
    | none => endStatus (idle s) p heapInvalid (some (trapOf .heapInvalid (BitVec.ofNat 64 a)))
    | some b =>
      let b1 := { b with state := .freeing, wit := p.wit, mark := mkWit 2 0 p.tick }
      endStatus (.of (s.sys.setContext p.ctx (c.putBlock b1))) p 0 none

def HeapState.code : HeapState → Nat
  | .live => 1 | .freeing => 2 | .free => 3

/-- HQRY (R328). -/
def serveHqry (p : Op) (s : State) : Upd :=
  let a := (p.args.getD 0 0).toNat
  let v := match (s.sys.context p.ctx).heap.find? (fun b => decide (b.addr ≤ a) && decide (a < b.addr + b.size)) with
    | some b => bits (BitVec.ofNat 64 b.addr) 55 8 * 2 ^ 8 + b.state.code * 2 ^ 6 + b.cls
    | none => 0
  endHeap (idle s) p 0 (BitVec.ofNat 64 v) 0 none

/-- The die whose agent serves a heap command (R325): the issuing die for HALLOC, the owner's of the block for HFREE and HQRY. -/
def Sys.heapDie (y : Sys) (p : Op) : Nat :=
  let a := (p.args.getD 0 0).toNat
  match p.instr with
  | .hfree _ _ _ _ | .hqry _ _ _ =>
    (((y.context p.ctx).heap.find? (fun b => decide (b.addr ≤ a) && decide (a < b.addr + b.size))).map (·.owner)).getD (dieOf p.core)
  | _ => dieOf p.core

/-- HEAP_COMMAND_SERVE (R325): the agent serves a command once its witness is satisfied; one on a halted die starts none (R453). -/
def execHeapCommandServe (op : Nat) (s : State) : Host.Outcome State Fault Refusal :=
  machineStep s (
    match s.sys.op? op with
    | none => idle s
    | some p =>
      let die := s.sys.heapDie p
      if !s.sys.mayServe p (.flacon die) || (p.pos = 0 && (s.sys.die die).halted) then idle s
      else match s.sys.commandWit (dieReader die) p with
        | .wait => idle s
        | j =>
          match p.instr with
          | .hqry _ _ _ => serveHqry p s
          | .halloc _ _ _ _ _ _ | .hfree _ _ _ _ =>
            if j = .bad then endRefused (idle s) p (fun _ => 0) (trapOf .witness p.wit)
            else match engineSet s p (p.requester 4 die) (.flacon die) die [] with
              | .hold u => u
              | .stop u t => endRefused u p (fun st => match p.instr with
                  | .hfree _ _ _ _ => BitVec.ofNat 64 st
                  | _ => 0) t
              | .go y => match p.instr with
                | .halloc _ _ _ trapping zero _ => serveHalloc p trapping zero { s with sys := y }
                | _ => serveHfree p { s with sys := y }
          | _ => idle s)

/-- HEAP_FREE_RETURN (R327, R129): both witnesses are settled at the owning agent. -/
def execHeapFreeReturn (ctx addr : Nat) (s : State) : Host.Outcome State Fault Refusal :=
  machineStep s (
    let c := s.sys.context ctx
    match c.heap.find? (fun b => b.addr == addr && b.state == .freeing) with
    | none => idle s
    | some b =>
      let ok := fun w => s.sys.settled (dieReader b.owner) w == .yes
      if ok b.wit && ok b.mark then .of (s.sys.setContext ctx (c.putBlock { b with state := .free })) else idle s)

/-! ### Invalidation of pages (R32 to R34) -/

/-- A ring access that a page refused is tried again after an invalidation of it (R428). -/
def Bin.retryAt (b : Bin) (vpage : Nat) : Bin :=
  let again := fun (o : Option Nat) => if o = some (refusedAt vpage) then none else o
  { b with heldParked := again b.heldParked, refillParked := again b.refillParked }

/-- What a walk brought for a page of the context holds for another page too: that of the same leaf. -/
def Found.covers (f : Found) (ctx vpage : Nat) : Bool :=
  f.ctx == ctx && (f.vpage == vpage || (match f.walk with
    | .leaf l _ => f.vpage * 65536 / 2 ^ levelBits l == vpage * 65536 / 2 ^ levelBits l
    | _ => false))

/-- A leaf that a set keeps of its page holds for another page too. -/
def PageLeaf.covers (l : PageLeaf) (vpage : Nat) : Bool :=
  l.vpage * 65536 / 2 ^ levelBits l.level == vpage * 65536 / 2 ^ levelBits l.level

/-- A waiting word keeps nothing of the pages that an invalidation drops (R32), and a clause of such a page is fetched again through the new
leaf (R49). -/
def Sub.dropSet (leaf : PageLeaf → Bool) (code : Nat → Bool) (b : Sub) : Sub :=
  { b with set := b.set.filter (fun l => !leaf l)
           place := match b.place with
             | .inside c => if code (c.addr.toNat / 65536) then .resume c.addr else .inside c
             | x => x }

def Warp.dropSet (leaf : PageLeaf → Bool) (code : Nat → Bool) (w : Warp) : Warp :=
  { w with subs := w.subs.map (Sub.dropSet leaf code)
           access := w.access.map (fun a => { a with sub := a.sub.dropSet leaf code }) }

/-- The warps of a context, or of every one, and its saved warps lose the pages dropped. -/
def Sys.dropSets (y : Sys) (ctx : Option Nat) (leaf : PageLeaf → Bool) (code : Nat → Bool) : Sys :=
  let mine := fun k : Block => ctx.isNone || ctx == some k.ctx
  { y with warps := y.warps.map (fun w => if (y.block? w.block).any mine then w.dropSet leaf code else w)
           saved := y.saved.map (fun b =>
             if mine b.block then { b with warps := b.warps.map (fun x => { x with warp := x.warp.dropSet leaf code }) } else b) }

/-- Every TLB entry of a page, and what walks brought of it, is dropped. -/
def Sys.dropPage (y0 : Sys) (ctx vpage : Nat) : Sys :=
  let tag := y0.ctxTag ctx
  let y := y0.dropSets (some ctx) (·.covers vpage) (fun p => p == vpage)
  { y with bins := y.bins.map (fun b => if b.ctx == ctx then { b with bins := b.bins.map (fun x => x.retryAt vpage) } else b),
           tlb := y.tlb.filter (fun t => !t.covers tag (vpage * 65536)),
           found := y.found.filter (fun f => !f.covers ctx vpage) }

/-- Every request translated by a dropped entry of the page has been performed, or bounced (R32). DESIGN CHOICE (log 124): a task's PDECOMMIT whose
word-2 address lies on the page that it decommits counts too, and so waits on itself. -/
def Sys.pageDrained (y : Sys) (ctx vpage : Nat) : Bool :=
  !y.reqs.any (fun r => r.ctx == ctx && r.va / 65536 == vpage && decide (r.key < 2 ^ 50) && !r.bounced) &&
  !y.ops.any (fun p => p.ctx == ctx && (p.stage != .done || p.warp.isNone) && p.set.any (fun l => l.vpage == vpage))

/-- An invalidation covers a page of a context. -/
def Inval.hits (v : Inval) (ctx vpage : Nat) : Bool :=
  let within := fun r : Nat × Nat => decide (r.1 ≤ vpage) && decide (vpage < r.1 + r.2)
  (v.ctx.isNone || v.ctx == some ctx) &&
    (match v.count with
      | none => true
      | some n => within (v.first, n) || v.also.any within)

/-- Every request that was translated by an entry which the invalidation dropped has been performed, or bounced (R32). -/
def Sys.invalDone (y : Sys) (v : Inval) : Bool :=
  !y.reqs.any (fun r => decide (r.id < v.upto) && v.hits r.ctx (r.va / 65536) && decide (r.key < 2 ^ 50) && !r.bounced) &&
  !y.ops.any (fun p => decide (p.id < v.upto) && (p.stage != .done || p.warp.isNone) && p.set.any (fun l => v.hits p.ctx l.vpage))

/-- The invalidations that are done complete, and return a device-scope witness (R32). -/
def Sys.settleInvals (y : Sys) : Sys :=
  if y.invals.any y.invalDone then
    { y with invals := y.invals.filter (fun v => !y.invalDone v)
             ctl := { y.ctl with invalWit := Origin.host.wit 2 y.time.now } }
  else y

/-! ### The page pool (R46) -/

/-- The pool header as the control die reads it: count, capacity, frames, low mark. -/
structure Pool where
  key : Nat
  count : Nat
  cap : Nat
  frames : Nat
  low : Nat
  deriving DecidableEq, Repr

def State.pool (s : State) (ctx : Nat) : Option Pool :=
  let pa := ((s.sys.context ctx).desc[1]).toNat
  if pa = 0 then none
  else
    let k := mainKey 0 pa
    some { key := k, count := s.mem.value k 4, cap := s.mem.value (k + 4) 4, frames := s.mem.value (k + 8) 8,
           low := s.mem.value (k + 16) 4 }

/-- The key of an entry of the pool's frame array. -/
def Pool.entry (p : Pool) (i : Nat) : Nat := mainKey 0 (p.frames + 8 * i)

/-- The refill request of R46: no ticket is armed for it, so word 4 is a free value. It names the issuer of the
commit. -/
def refillRequest (p : Op) (s : State) : Upd :=
  let die := dieOf p.core
  let y := s.sys
  let r : Requester := { kind := if p.warp.isSome then 0 else 5, slot := p.slot, part := p.part,
                         unit := if p.warp.isSome then p.core else die, pc := p.pc }
  let record := (faultRecord y p.ctx (2 ^ 40 - 1) 0 false 0 0 0 r).set 4 (y.freeAt 0)
  match y.faultDest p.ctx die with
  | .bin b => .of ((y.useFree 1).post p.ctx die b record none none)
  | .ring => .of { y.useFree 1 with heldFaults := y.heldFaults ++ [{ ctx := p.ctx, die, record }] }
  | .none => .of y

/-! ### Commits and decommits (R47, R48, R329) -/

/-- A leaf with another frame and reserve mode. -/
def leafWith (e : Word) (frame sparse : Nat) : Word :=
  (e &&& ~~~0x0000FFFFFFFF0030#64) ||| BitVec.ofNat 64 (frame / 65536 % 2 ^ 32 * 65536 + sparse * 16)

/-- The command is at its last stage, behind the rewriting of its leaf. -/
def Op.draining (p : Op) : Bool := p.stage == .running

/-- Another commit or decommit of the context is under way: the control die's pool operations, and those of one page,
are serial (R46, R47). -/
def Sys.pageBusy (y : Sys) (p : Op) : Bool :=
  y.ops.any (fun q => q.id != p.id && q.ctx == p.ctx && q.draining && (match q.instr with
    | .pcommit _ _ _ _ | .pdecommit _ _ _ _ _ => true
    | _ => false))

/-- A page command may be served by the control die. -/
def Sys.pageMay (y : Sys) (p : Op) : Bool := !(y.context p.ctx).frozen && !y.ctl.held && !y.pageBusy p

/-- The leaf that a page command acts on, or the change that ends it (R329). -/
inductive PageLeafFate where
  | leaf (key : Nat) (e : Word)
  | quit (u : Upd)

/-- The walk of a commit or decommit. -/
def pageLeaf (p : Op) (va : Nat) (s : State) : PageLeafFate :=
  let quit := fun st => PageLeafFate.quit (endStatus (idle s) p st none)
  let deny := fun (key : Nat) => PageLeafFate.quit (endStatus
    (freezeContext s (.part p.core p.part) p.ctx (key, true)) p heapDenied none)
  if va ≥ 2 ^ 56 then quit heapDenied
  else match walk s p.ctx va with
    | .absent _ _ => quit pageNotPresent
    | .malformed _ _ => quit pageMalformed
    | .firewall pa => deny (mainKey 0 pa)
    | .failed r =>
      .quit (endRefused (idle s) p (fun st => BitVec.ofNat 64 st)
        { trapOf .memError (BitVec.ofNat 64 va) with reason := r })
    | .leaf l e =>
      let key := s.sys.homeKey (pteKind e) (leafPA l e va)
      if l != 0 then quit pageNotL0
      else if pteSparse e = 0 && !s.sys.opens p.ctx key 1 true then deny key
      else match leafKey s p.ctx va with
        | some k => .leaf k e
        | none => quit pageNotPresent

/-- The device-scope witness of a page command's end (R47, R329). -/
def Sys.pageWit (y : Sys) : Word := Origin.host.wit 2 y.time.now

/-- A page command ends OK. -/
def endPage (u : Upd) (p : Op) : Upd := endHeap u p 0 0 u.sys.pageWit none

/-- A leaf is rewritten and its page invalidated; the command then waits until what used the old leaf is over. -/
def rewriteLeaf (p : Op) (key va : Nat) (e : Word) (s : State) : Upd :=
  Upd.andThen s (commandPut p.id key (leBytes 8 e.toNat) s) (fun t =>
    .of ((t.sys.dropPage p.ctx (va / 65536)).modOp p.id (fun q => { q with stage := .running })))

/-- How a page command goes on from its accesses to memory. -/
inductive PoolFate where
  | go (y : Sys)
  | wait (y : Sys)
  | quit (u : Upd)

/-- An access of the control die for a page command: its location, its length, and whether it writes. -/
def pageAccess (p : Op) (s : State) (l : List (Nat × Nat × Bool)) : PoolFate :=
  match s.sys.ctlFate p.ctx l with
  | .go y => .go y
  | .wait y => .wait y
  | .frozen hit => .quit (endStatus (freezeContext s (.part p.core p.part) p.ctx hit) p heapDenied none)
  | .broken r => .quit (endRefused (idle s) p (fun st => BitVec.ofNat 64 st) { trapOf .memError 0 with reason := r })

/-- A page command's accesses that nothing stands against: it goes on from the state they leave. -/
def pageThen (p : Op) (s : State) (l : List (Nat × Nat × Bool)) (f : State → Upd) : Upd :=
  match pageAccess p s l with
  | .wait y => .of y
  | .quit u => u
  | .go y => f { s with sys := y }

/-- The first stage of a commit (R47 steps 1 to 6). -/
def commitPage (p : Op) (va : Nat) (s : State) : Upd :=
  match pageLeaf p va s with
  | .quit u => u
  | .leaf key e =>
    if pteSparse e = 0 then endStatus (idle s) p heapAlready none
    else match s.pool p.ctx with
      | none => endStatus (idle s) p poolEmpty none
      | some q =>
        pageThen p s [(q.key, 24, false)] (fun s =>
          if q.count = 0 then endStatus (idle s) p poolEmpty none
          else
            let i := q.count - 1
            pageThen p s [(q.entry i, 8, false)] (fun s =>
              let frame := s.mem.value (q.entry i) 8 / 65536 % 2 ^ 32 * 65536
              pageThen p s [(q.key, 4, true), (mainKey 0 frame, 65536, true), (key, 8, true)] (fun s =>
                let u1 := commandPut p.id q.key (leBytes 4 i) s
                let u2 := if i < q.low then Upd.andThen s u1 (refillRequest p) else u1
                let u3 := Upd.andThen s u2 (zeroFrame p.id frame)
                Upd.andThen s u3 (rewriteLeaf p key va (leafWith e frame 0)))))

/-- What a page command waits for before its first stage: its turn, and the visibility of the entries that its walk reads, whose homes hold
the reads (R89). -/
def pageStart (p : Op) (va : Nat) (s : State) (f : State → Upd) : Upd :=
  if !p.waiting || !s.sys.pageMay p then idle s
  else if !walkQuiet s p.ctx va then .of (walkHold s .control p.ctx va)
  else match s.sys.commandWit controlReader p with
    | .wait => idle s
    | .bad => endRefused (idle s) p (fun st => BitVec.ofNat 64 st) (trapOf .witness p.wit)
    | .yes =>
      match engineSet s p (p.requester 5 (dieOf p.core)) .host (dieOf p.core) [] with
      | .hold u => u
      | .stop u t => endRefused u p (fun st => BitVec.ofNat 64 st) t
      | .go y => f { s with sys := walkFills s p.ctx va y }

/-- PAGE_COMMIT (R47). -/
def execPageCommit (op : Nat) (s : State) : Host.Outcome State Fault Refusal :=
  machineStep s (recallFirst s (
    match s.sys.op? op with
    | none => idle s
    | some p =>
      match p.instr with
      | .pcommit _ _ _ _ =>
        let va := (p.args.getD 0 0).toNat
        if p.draining then (if s.sys.pageDrained p.ctx (va / 65536) then endPage (idle s) p else idle s)
        else pageStart p va s (commitPage p va)
      | _ => idle s))

/-- The first stage of a decommit (R48 steps 1 and 2). -/
def decommitPage (p : Op) (zero : Bool) (va : Nat) (s : State) : Upd :=
  let mode := if zero then 2 else 1
  match pageLeaf p va s with
  | .quit u => u
  | .leaf key e =>
    let rewritten := leafWith e (pteFrame e) mode
    if pteSparse e = mode then endStatus (idle s) p heapAlready none
    else if pteSparse e != 0 then pageThen p s [(key, 8, true)] (rewriteLeaf p key va rewritten)
    else match s.pool p.ctx with
      | none => endStatus (idle s) p poolFull none
      | some q =>
        pageThen p s [(q.key, 24, false)] (fun s =>
          if q.cap ≤ q.count then endStatus (idle s) p poolFull none
          else pageThen p s [(q.key, 4, true), (q.entry q.count, 8, true), (key, 8, true)] (fun s =>
            let u := rewriteLeaf p key va rewritten s
            { u with sys := u.sys.modOp p.id (fun x => { x with args := x.args.take 1 ++ [BitVec.ofNat 64 key, e] }) }))

/-- The last stage of a decommit of a normal page: the frame pushed, the leaf's FRAME cleared (R48 steps 3 and 4). -/
def pushFrame (p : Op) (key : Nat) (e : Word) (s : State) : Upd :=
  match s.pool p.ctx with
  | none => endPage (idle s) p
  | some q =>
    pageThen p s [(q.key, 24, false), (q.key, 4, true), (q.entry q.count, 8, true), (key, 8, false), (key, 8, true)] (fun s =>
      let now := s.mem.word key
      let u1 := commandPut p.id (q.entry q.count) (leBytes 8 (pteFrame e)) s
      let u2 := Upd.andThen s u1 (commandPut p.id q.key (leBytes 4 (q.count + 1)))
      let u3 := Upd.andThen s u2 (commandPut p.id key (leBytes 8 (leafWith now 0 (pteSparse now)).toNat))
      Upd.andThen s u3 (fun t => endPage (idle t) p))

/-- PAGE_DECOMMIT (R48). -/
def execPageDecommit (op : Nat) (s : State) : Host.Outcome State Fault Refusal :=
  machineStep s (recallFirst s (
    match s.sys.op? op with
    | none => idle s
    | some p =>
      match p.instr with
      | .pdecommit _ _ _ zero _ =>
        let va := (p.args.getD 0 0).toNat
        if p.draining then
          if !s.sys.pageDrained p.ctx (va / 65536) then idle s
          else match p.args with
            | [_, key, e] => pushFrame p key.toNat e s
            | _ => endPage (idle s) p
        else pageStart p va s (decommitPage p zero va)
      | _ => idle s))

/-- HOST_PAGE_COMMIT (R47): the control die commits for the host as it does for PCOMMIT; the command's end returns its status and witness. -/
def execHostPageCommit (ctx va : Nat) (s : State) : Host.Outcome State Fault Refusal :=
  inputStep s (
    let p := { procOp s.sys (.pcommit 0 0 none false) ctx 0 0 0 [BitVec.ofNat 64 va] with pc := 0 }
    .of { s.sys with ops := s.sys.ops ++ [p], nextId := s.sys.nextId + 1 })

/-! ### PQRY (R330) -/

/-- PQRY is served: the entry where the walk ended. A walk that the firewall or a failure stopped ends at no entry, and its
results are free values. -/
def servePqry (p : Op) (s : State) : Upd :=
  let va := (p.args.getD 0 0).toNat
  let give := fun (e : Word) (l : Nat) (np : Bool) =>
    endHeap (.of (walkFills s p.ctx va s.sys)) p 0 e (BitVec.ofNat 64 (l % 4 + (if np then 256 else 0))) none
  if !walkQuiet s p.ctx va then .of (walkHold s (.op p.id) p.ctx va)
  else match walk s p.ctx va with
    | .absent l e => give e l true
    | .malformed l e | .leaf l e => give e l false
    | .firewall pa =>
      let u := freezeContext s (.part p.core p.part) p.ctx (mainKey 0 pa, false)
      endHeap { u with sys := u.sys.useFree 2 } p heapDenied (s.sys.freeAt 0) (s.sys.freeAt 1) none
    | .failed r =>
      endHeap (.of (s.sys.useFree 3)) p ((s.sys.freeAt 2).toNat % 12) (s.sys.freeAt 0) (s.sys.freeAt 1)
        (some { trapOf .memError (BitVec.ofNat 64 va) with reason := r })

end Sys2Proof.Machine
end

