-- ==== Sys2Proof/Machine/MainMem.lean ====
section
/-! DEFINITION. Gathers, scatters and copies, MAJ 0x13, with the copy engine and the completion of memory operations
(R123 to R126, R214, R295, R309 to R320, R506). -/

namespace Sys2Proof.Machine

/-! ### Gathers and scatters (R309 to R312) -/

/-- GATH (R311). -/
def execGath (o : MemV) (s : State) : Host.Outcome State Fault Refusal :=
  issue (.gath o) s (fun e => e.mainForm o.loadForm .read (e.memElems o))

/-- GATHS (R309). -/
def execGaths (o : MemU) (s : State) : Host.Outcome State Fault Refusal :=
  issue (.gaths o) s (fun e => e.mainForm o.loadForm .read (e.uniElem o.base o.off.toInt))

/-- SCAT (R311). -/
def execScat (o : MemV) (s : State) : Host.Outcome State Fault Refusal :=
  issue (.scat o) s (fun e => e.mainForm (o.storeForm e) .write (e.memElems o))

/-! ### Batches (R318, R319) -/

/-- The open batch of a tag. -/
def Warp.openBatch (w : Warp) (tag : BitVec 3) : Option Batch := w.batches.find? (fun b => b.tag == tag && !b.closed)

/-- The warp whose open batch of the tag exists, and that batch's number. -/
def Warp.joinBatch (w : Warp) (tag : BitVec 3) : Warp × Nat :=
  match w.openBatch tag with
  | some b => (w, b.no)
  | none =>
    ({ w with batchNo := w.batchNo + 1,
              batches := w.batches ++ [{ no := w.batchNo, tag, closed := false, taken := false, wit := 0, err := none }] },
     w.batchNo)

/-- Issue of a copy with `n` lane copies; `p` is its operation. -/
def Env.sendCopy (e : Env) (y : Sys) (tag : BitVec 3) (n : Nat) (p : Op) : Except Hold Upd :=
  if e.flagFull p then .error (.wait (.flagFull (p.flag.getD 0)))
  else if n = 0 then .ok (e.finish y e.w)
  else if e.y.copies e.w tag + n > 255 then .error (.wait (.copyRoom tag n))
  else
    let j := e.w.joinBatch tag
    .ok (e.finish (y.addOp { p with batch := some j.2, stage := .running }) (j.1.countUp p.flag))

/-- CPSEAL (R318). -/
def execCpseal (tag : BitVec 3) (s : State) : Host.Outcome State Fault Refusal :=
  issueReg (.cpseal tag) s (fun e =>
    .ok { e.w with batches := e.w.batches.map (fun b => if b.tag == tag then { b with closed := true } else b) })

/-- CPWAIT (R318). -/
def execCpwait (d : SReg) (tag : BitVec 3) (s : State) : Host.Outcome State Fault Refusal :=
  issue (.cpwait d tag) s (fun e =>
    let mine := fun b : Batch => b.tag == tag && b.closed && !b.taken
    let p := { e.op false with pendS := [d.toNat], stage := .running,
                               args := (e.w.batches.filter mine).map (fun b => BitVec.ofNat 64 b.no) }
    if e.flagFull p then .error (.wait (.flagFull (p.flag.getD 0)))
    else if p.args.isEmpty then .ok (e.done (e.w.setS d 0))
    else
      let w := { e.w with batches := e.w.batches.map (fun b => if mine b then { b with taken := true } else b) }
      .ok (e.finish (e.y.addOp p) (w.countUp p.flag)))

/-- CPQRY (R319). -/
def execCpqry (d : SReg) (tag : BitVec 3) (s : State) : Host.Outcome State Fault Refusal :=
  issueReg (.cpqry d tag) s (fun e =>
    let bs := e.w.batches.filter (fun b => b.tag == tag)
    let v := Nat.min (e.y.copies e.w tag) 255 + (if bs.any (fun b => !b.closed) then 2 ^ 8 else 0) +
      Nat.min (bs.filter (fun b => b.closed)).length 255 * 2 ^ 16 +
      (if bs.any (fun b => b.err.isSome) then 2 ^ 31 else 0)
    .ok (e.w.setS d (BitVec.ofNat 64 v)))

/-! ### CPL (R314, R506) -/

/-- One lane copy: lane, main-memory address, local address, valid count. -/
structure LaneCopy where
  lane : Nat
  m : Int
  l : Nat
  v : Nat
  deriving DecidableEq, Repr

/-- The lane copies of a CPL. -/
def Env.laneCopies (e : Env) (o : CopyL) : List LaneCopy :=
  (e.laneElems o.base o.index o.sc o.off.toInt).map (fun x =>
    { lane := x.lane, m := x.ea, l := (e.w.vl o.d.toNat x.lane).toNat,
      v := Nat.min ((e.w.vl (o.d.toNat + 1) x.lane).toNat % 64) 32 })

/-- A cause that some lane copies raise, with the address of the lowest. -/
def copyRaise (c : Cause) (r : Reason) (hit : List (LaneCopy × Int)) : Option TrapInfo :=
  match hit with
  | [] => none
  | x :: rest => some { trapOf c (wrap 64 x.2) with
      tlanes := (x :: rest).foldl (fun m p => m ||| laneBit p.1.lane) 0, reason := r }

/-- The first failing step of R506 that any lane meets. Lanes are ascending, so the first is the lowest. -/
def laneCopyTrap (ws : List Window) (l : List LaneCopy) : Option TrapInfo :=
  let range := fun (c : Cause) => copyRaise c .none (l.filterMap (fun x =>
    match rangeFail ws x.l 32 with
    | some (k, p) => if k = c then some (x, (p : Int)) else none
    | none => none))
  (copyRaise .protection .noncanon ((l.filter (fun x => noncanon x.m)).map (fun x => (x, x.m)))).orElse fun _ =>
  (range .window).orElse fun _ => (range .scratchBounds).orElse fun _ => (range .spillBounds).orElse fun _ =>
  copyRaise .align .none (l.filterMap (fun x =>
    if x.m % 8 != 0 then some (x, x.m) else if x.l % 8 != 0 then some (x, (x.l : Int)) else none))

/-- The touches of a range of virtual addresses, one a page. -/
def rangeTouches (lane : Nat) (acc : Access3) (a n : Nat) : List Touch :=
  (rangePages a n).map (fun p =>
    let lo := Nat.max a (p * 65536)
    { lane, va := lo, len := Nat.min (a + n) ((p + 1) * 65536) - lo, acc })

/-- The translations that a copy keeps. -/
def Sys.keep (y : Sys) (a : Asker) (core : Option Nat) (die ctx : Nat) (ts : List Touch) : List PageLeaf :=
  ((ts.map (·.page)).eraseDups).filterMap (fun p => (y.leafOf a core die ctx (p * 65536)).map (fun x =>
    { vpage := p, level := x.1, pte := x.2 }))

/-- The words of a lane copy in its operation. -/
def LaneCopy.words (x : LaneCopy) : List Word :=
  [BitVec.ofNat 64 x.lane, wrap 64 x.m, BitVec.ofNat 64 x.l, BitVec.ofNat 64 x.v]

/-- CPL (R314). -/
def execCpl (o : CopyL) (s : State) : Host.Outcome State Fault Refusal :=
  issue (.cpl o) s (fun e =>
    match e.witnessOk (e.optS o.w) with
    | .error h => .error h
    | .ok () =>
      let l := e.laneCopies o
      match laneCopyTrap (e.y.windows e.k none) l with
      | some t => .error (.trap t)
      | none =>
        let ts := l.flatMap (fun x =>
          rangeTouches x.lane (if o.st then .write else .read) x.m.toNat (if o.st then 32 else x.v))
        let p := { e.op true with wit := e.optS o.w, args := l.flatMap LaneCopy.words }
        if ts.isEmpty then e.sendCopy e.y o.tag l.length p
        else match e.translate ts with
          | .error h => .error h
          | .ok y => e.behindSet y (ts.map (·.va))
              (e.sendCopy y o.tag l.length { p with set := y.keep e.asker (some e.k.core) (dieOf e.k.core) e.k.ctx ts }))

/-! ### CPB (R315, R506) -/

/-- One side of a block copy: its address, whether it is local, its row pitch, and how it is used. -/
structure Side where
  addr : Int
  locl : Bool
  pitch : Nat
  acc : Access3
  deriving DecidableEq, Repr

def shapeRows (v : Word) : Nat := bits v 31 20 + 1
def shapeWidth (v : Word) : Nat := bits v 19 0 + 1

/-- The sides of a block copy, source first; `acc` is how fault records name the destination. -/
def copySides (src : Int) (dst shape : Word) (acc : Access3) : List Side :=
  let pitch := fun v : Nat => if v = 0 then shapeWidth shape else 16 * v
  [{ addr := src, locl := shape.getLsbD 63, pitch := pitch (bits shape 45 32), acc := .read },
   { addr := (dst.toNat : Int), locl := shape.getLsbD 62, pitch := pitch (bits shape 59 46), acc }]

/-- The bytes from the first of row 0 to the last of the last row. -/
def Side.span (x : Side) (shape : Word) : Nat := (shapeRows shape - 1) * x.pitch + shapeWidth shape

/-- The range cause of a local side, at its first failing byte. -/
def Side.localFail (x : Side) (ws : List Window) (shape : Word) (c : Cause) : Option Int :=
  if !x.locl then none
  else if x.addr < 0 || x.addr ≥ 2 ^ 32 then (if c = .window then some x.addr else none)
  else (List.range (shapeRows shape)).findSome? (fun r =>
    match rangeFail ws (x.addr.toNat + r * x.pitch) (shapeWidth shape) with
    | some (k, p) => if k = c then some (p : Int) else none
    | none => none)

/-- The first failing step of R506 for a block copy. -/
def blockCopyTrap (ws : List Window) (src : Int) (dst shape : Word) (sides : List Side) : Option TrapInfo :=
  let range := fun c : Cause => (sides.findSome? (fun x => x.localFail ws shape c)).map (fun p => trapOf c (wrap 64 p))
  let far := sides.find? (fun x => !x.locl && (noncanon x.addr || x.addr + (x.span shape : Int) > 2 ^ 56))
  let pages := fun x : Side => (x.addr.toNat + x.span shape - 1) / 65536 - x.addr.toNat / 65536 + 1
  let crooked := [src, (dst.toNat : Int), (shapeWidth shape : Int)].find? (fun v => v % 8 != 0)
  if bits shape 61 60 != 0 then some (trapOf .illegal shape)
  else match far with
    | some x => some { trapOf .protection (wrap 64 x.addr) with reason := .noncanon }
    | none =>
      (range .window).orElse fun _ => (range .scratchBounds).orElse fun _ => (range .spillBounds).orElse fun _ =>
      (crooked.map (fun v => trapOf .align (wrap 64 v))).orElse fun _ =>
      (sides.find? (fun x => pages x > 256)).map (fun x => trapOf .length (BitVec.ofNat 64 (pages x)))

/-- The touches of a block copy: each page once per side, at its lowest address. -/
def blockTouches (shape : Word) (sides : List Side) : List Touch :=
  sides.flatMap (fun x =>
    if x.locl then []
    else (List.range (shapeRows shape)).foldl (fun acc r =>
      (rangeTouches 32 x.acc (x.addr.toNat + r * x.pitch) (shapeWidth shape)).foldl (fun l t =>
        if l.any (fun u => u.page == t.page) then l else l ++ [t]) acc) [])

/-- CPB (R315). -/
def execCpb (o : CopyB) (s : State) : Host.Outcome State Fault Refusal :=
  issue (.cpb o) s (fun e =>
    match e.witnessOk (e.optS o.w) with
    | .error h => .error h
    | .ok () =>
      let src : Int := ((e.optS o.base).toNat : Int) + o.off.toInt
      let dst := e.w.s o.d
      let shape := e.w.sn (o.d.toNat + 1)
      let sides := copySides src dst shape .write
      match blockCopyTrap (e.y.windows e.k none) src dst shape sides with
      | some t => .error (.trap t)
      | none =>
        let p := { e.op true with wit := e.optS o.w, args := [wrap 64 src, dst, shape] }
        let ts := blockTouches shape sides
        if ts.isEmpty then e.sendCopy e.y o.tag 1 p
        else match e.translate ts with
          | .error h => .error h
          | .ok y => e.behindSet y (ts.map (·.va))
              (e.sendCopy y o.tag 1 { p with set := y.keep e.asker (some e.k.core) (dieOf e.k.core) e.k.ctx ts }))

/-! ### The copy engine (R123, R126, R316, R320) -/

/-- One unit of a copy: the lanes it stands for, source address and length, destination address and length; each side local
or not. Zeros follow the source's bytes. -/
structure CopyUnit where
  lanes : LaneMask
  src : Nat
  srcLen : Nat
  srcLocal : Bool
  dst : Nat
  dstLen : Nat
  dstLocal : Bool
  deriving DecidableEq, Repr

/-- The number of units of a copy: lane copies, or rows. -/
def Op.units (p : Op) : Nat :=
  match p.instr with
  | .cpl _ => p.args.length / 4
  | .cpb _ => shapeRows (p.args.getD 2 0)
  | _ => 0

/-- Unit `u` of a copy. -/
def Op.copyUnit (p : Op) (u : Nat) : Option CopyUnit :=
  if p.units ≤ u then none
  else match p.instr with
    | .cpl o =>
      let arg := fun j => (p.args.getD (4 * u + j) 0).toNat
      let lanes := laneBit (arg 0)
      if o.st then
        some { lanes, src := arg 2, srcLen := arg 3, srcLocal := true, dst := arg 1, dstLen := 32, dstLocal := false }
      else
        some { lanes, src := arg 1, srcLen := arg 3, srcLocal := false, dst := arg 2, dstLen := 32, dstLocal := true }
    | .cpb _ =>
      let shape := p.args.getD 2 0
      let sides := copySides ((p.args.getD 0 0).toNat : Int) (p.args.getD 1 0) shape .write
      let row := fun x : Side => x.addr.toNat + u * x.pitch
      match sides with
      | [a, b] => some { lanes := allLanes, src := row a, srcLen := shapeWidth shape, srcLocal := a.locl, dst := row b,
                         dstLen := shapeWidth shape, dstLocal := b.locl }
      | _ => none
    | _ => none

/-- The runs of a range of an operation: local ones in its block's windows, others through the leaves it keeps. -/
def Sys.opRuns (y : Sys) (p : Op) (locl : Bool) (a n : Nat) : List Run :=
  if locl then
    match y.block? p.block with
    | some k => localRuns (y.windows k none) a n
    | none => []
  else mainRuns y (fun v => (p.set.find? (fun l => l.vpage == v)).map (fun l => (l.level, l.pte))) a n

/-- The pieces in which a unit moves: whole when its source and destination serve it, else 8 bytes at a time, so that
only the pieces whose source failed are poisoned (R155). -/
def CopyUnit.pieces (c : CopyUnit) : List CopyUnit :=
  (List.range (c.dstLen / 8)).map (fun j =>
    { c with src := c.src + 8 * j, srcLen := Nat.min (c.srcLen - 8 * j) 8, dst := c.dst + 8 * j, dstLen := 8 })

/-- The destination's runs are poisoned (R85, R155). -/
def Sys.poisonRuns (y : Sys) (rs : List Run) : Sys :=
  rs.foldl (fun z r => match r.key with
    | some k => z.poisonRange k r.len
    | none => z) y

/-- One piece of a copy: its bytes move, or its destination, where that takes a write, is poisoned and the copy records the failure. -/
def moveCopy (op : Nat) (c : CopyUnit) (s : State) : Upd :=
  match s.sys.op? op with
  | none => .of s.sys
  | some p =>
    let o : Origin := .copy (clusterOf p.core)
    let src := s.sys.opRuns p c.srcLocal c.src c.srcLen
    let dst := s.sys.opRuns p c.dstLocal c.dst c.dstLen
    let y := s.sys.runsRead p.ctx src
    match s.sys.readFails p src, s.sys.writeFails p dst with
    | none, none =>
      let bs := (runBytes s.mem src ++ List.replicate c.dstLen 0).take c.dstLen
      let y0 := y.sillageAdd p.core p.phase silBytes c.dstLen
      let y1 := y0.modOp op (fun q => { q with out := merge q.out (s.sys.runsWit o op dst) })
      runsWrite o op p.ctx dst bs { s with sys := y1 }
    | some (why, va), _ => .of ((y.modOp op (fun q => q.failed .memError c.lanes va why)).poisonRuns
        (dst.filter (fun r => (s.sys.writeFails p [r]).isNone)))
    | none, some (why, va) => .of (y.modOp op (fun q => q.failed .memError c.lanes va why))

/-- The start of a copy task (R172, R317): the checks of R506, then the translation set, under R39. -/
def copyTaskStart (p : Op) (s : State) : Upd :=
  match s.sys.block? p.block with
  | none => idle s
  | some k =>
    let o : Origin := .copy (clusterOf p.core)
    let src : Int := ((p.args.getD 0 0).toNat : Int)
    let dst := p.args.getD 1 0
    let shape := p.args.getD 2 0
    let sides := copySides src dst shape .engineWrite
    if !s.sys.mayServe p o then idle s
    else if witBad s.sys.clk p.wit then endCommand (idle s) p.id 0 (some (trapOf .witness p.wit))
    else match blockCopyTrap (s.sys.windows k none) src dst shape sides with
      | some t => endCommand (idle s) p.id 0 (some t)
      | none =>
        let ts := blockTouches shape sides
        match engineSet s p (p.requester 1 (clusterOf p.core)) o (dieOf p.core) ts with
        | .hold u => u
        | .stop u t => endCommand u p.id 0 (some t)
        | .go y => .of (y.modOp p.id (fun q =>
            { q with set := q.set ++ y.keep (.op p.id) none (dieOf p.core) p.ctx ts, stage := .running, pos := 0 }))

/-- COPY_EXECUTE (R123): one unit of a copy, once the input witness is satisfied for the engine (R126). -/
def execCopyExecute (op unit : Nat) (s : State) : Host.Outcome State Fault Refusal :=
  machineStep s (
    match s.sys.op? op with
    | none => idle s
    | some p =>
      if p.warp.isNone && p.waiting && 0 < p.units then copyTaskStart p s
      else match p.copyUnit unit with
      | none => idle s
      | some c =>
        let src := s.sys.opRuns p c.srcLocal c.src c.srcLen
        let dst := s.sys.opRuns p c.dstLocal c.dst c.dstLen
        if p.stage != .running || p.pos.testBit unit || s.sys.frozenBy (.copy (clusterOf p.core)) ||
            (p.pos = 0 && !s.sys.mayBegin p (.copy (clusterOf p.core))) ||
            s.sys.satisfied (clusterReader (clusterOf p.core)) p.wit != .yes then idle s
        else match s.sys.pass p (.copy (clusterOf p.core)) src dst with
        | .error z => .of z
        | .ok z =>
          let pos := p.pos ||| 2 ^ unit
          let y := z.modOp op (fun q =>
            { q with pos, stage := if pos + 1 = 2 ^ p.units then .done else .running, moved := q.moved ++ [(unit, z.time.now)] })
          let ps := if (z.readFails p src).isNone && (z.writeFails p dst).isNone then [c] else c.pieces
          Upd.andThen s (Upd.each { s with sys := y } (moveCopy op) ps) (fun t => .of (t.sys.dropRuns op true dst)))

/-! ### Completion (R214, R215, R295, R312, R318) -/

/-- A copy of the warp's batch is still to complete. -/
def Sys.batchBusy (y : Sys) (w : Option Nat) (no : Word) : Bool :=
  y.ops.any (fun q => q.warp == w && (q.batch.map (BitVec.ofNat 64) == some no))

/-- The last effect of a long-latency operation has taken place. -/
def Sys.complete (y : Sys) (p : Op) : Bool :=
  match p.instr with
  | .ats _ | .atsu _ | .atm _ => !y.reqs.any (fun r => r.op == p.id)
  | .lds _ | .sts _ | .ldsu _ | .stsu _ | .ldk _ | .stk _ | .gath _ | .gaths _ | .scat _ | .bspill _ _ _ =>
    y.drained p.id
  | .cpl _ | .cpb _ => p.stage == .done && y.drained p.id && p.warp.isSome
  | .cpwait _ _ => p.args.all (fun no => !y.batchBusy p.warp no)
  | .xred _ _ _ _ => p.stage == .done
  | _ => false

/-- The warp's batch after one of its copies has completed. -/
def Warp.batchDone (w : Warp) (p : Op) : Warp :=
  match p.batch with
  | none => w
  | some no =>
    { w with batches := w.batches.map (fun b =>
        if b.no == no then
          { b with wit := merge b.wit p.out, err := b.err.orElse (fun _ => p.err.map (fun t => t.from_ p)) }
        else b) }

/-- What CPWAIT reports, and the warp without the batches it covered (R318, R320). -/
def Op.cpwaitResult (p : Op) (w : Warp) : Op × Warp :=
  let mine := fun b : Batch => p.args.contains (BitVec.ofNat 64 b.no)
  let bs := w.batches.filter mine
  let v := bs.foldl (fun v b => merge v b.wit) 0
  ({ p with results := p.pendS.map (fun r => (codeS r, v)), err := bs.findSome? (fun b => b.err) },
   { w with batches := w.batches.filter (fun b => !mine b) })

/-- OPERATION_COMPLETE (R214, R215). -/
def execOperationComplete (op : Nat) (s : State) : Host.Outcome State Fault Refusal :=
  machineStep s (
    match s.sys.op? op with
    | none => idle s
    | some p =>
      if !s.sys.complete p then idle s
      else match p.warp.bind s.sys.warp? with
        | none => finishOp s p
        | some w =>
          match p.instr with
          | .cpwait _ _ =>
            let r := p.cpwaitResult w
            finishOp { s with sys := s.sys.setWarp r.2 } r.1
          | _ => finishOp { s with sys := s.sys.setWarp (w.batchDone p) } p)

end Sys2Proof.Machine
end

