-- ==== Sys2Proof/Machine/Task.lean ====
section
/-! DEFINITION. Task forms, MAJ 0x32: posts, dependence counters, fault tickets and launches from the device (R44, R45, R170
to R180, R407 to R411). -/

namespace Sys2Proof.Machine

/-! ### Issue (R407 to R411) -/

/-- The witness of a task form; `.dev` merges a device-scope witness of the issue tick (R407). -/
def Env.taskWit (e : Env) (dev : Bool) (w : OptS) : Word :=
  if dev then merge (e.optS w) (mkWit 2 0 e.y.time.now) else e.optS w

/-- S[r] to S[r + 7]. -/
def Env.recordAt (e : Env) (r : SReg) : List Word := (List.range 8).map (fun i => e.w.sn (r.toNat + i))

/-- The die and bin of a record posted from a die: none where no bin takes it (R170, R171, R176). -/
def Sys.recordBin (y : Sys) (ctx die : Nat) (r : List Word) : Option (Nat × Nat) :=
  let w0 := r.getD 0 0
  let tdie := bits w0 62 60
  let toward := if tdie = 0 then die else tdie - 1
  if w0.getLsbD 63 || bits w0 59 58 != 0 || tdie = 7 || bits w0 2 0 ≥ 5 ||
      (bits w0 2 0 = 0 && (r.getD 2 0).getLsbD 63) then none
  else ((y.bins? ctx toward).bind (fun b => b.find (bits w0 55 3))).map (fun n => (toward, n))

/-- QPOST (R408). -/
def execQpost (d : OptS) (a : SReg) (w : OptS) (dev fs : Bool) (s : State) : Host.Outcome State Fault Refusal :=
  issue (.qpost d a w dev fs) s (fun e =>
    match e.witnessOk (e.optS w) with
    | .error h => .error h
    | .ok () =>
      let rec_ := e.recordAt a
      match e.y.recordBin e.k.ctx (dieOf e.k.core) rec_ with
      | none => trapping .noBin (rec_.getD 0 0)
      | some (die, n) =>
        let p := { e.op fs with wit := e.taskWit dev w, pendS := (d.map (·.toNat)).toList,
                                args := rec_ ++ [BitVec.ofNat 64 die, BitVec.ofNat 64 n] }
        if e.flagFull p then .error (.wait (.flagFull (p.flag.getD 0)))
        else if !((e.y.bin? e.k.ctx die n).map Bin.room).getD false then .error (.wait (.binRoom die n))
        else e.send (e.y.setBin e.k.ctx die n (fun b => { b with reserved := b.reserved + 1 })) e.w p)

/-- QINFO (R409). -/
def execQinfo (d a : SReg) (fs : Bool) (s : State) : Host.Outcome State Fault Refusal :=
  issue (.qinfo d a fs) s (fun e => e.send e.y e.w { e.op fs with args := [e.w.s a], pendS := [d.toNat] })

/-- A PROTECTION reason that the manual leaves open, 1 to 5 (log 6). -/
def freeReason (v : Word) : Reason := [Reason.noncanon, .malformed, .write, .fetch, .firewall].getD (v.toNat % 5) .write

/-- The page of a counter or an LPB (R410, R411): NONCANON and ALIGN, the set, KIND 00, the witness, and a replayable fault
last (R416). -/
def Env.taskPage (e : Env) (va : Word) (align n : Nat) (acc : Access3) (w : Word) : Except Hold Sys :=
  let core := some e.k.core
  let die := dieOf e.k.core
  let ts : List Touch := [{ lane := 32, va := va.toNat, len := n, acc }]
  let raise := fun s t => takeTrap s e.w e.o e.b t
  match mainTrap align [{ lane := 32, idx := 1024, ea := va.toNat }] with
  | some t => .error (.trap t)
  | none =>
    let faulting := (e.y.unknown e.asker core die e.k.ctx ts).isEmpty &&
      (match setFate false (e.y.fates e.asker .core core die e.k.ctx ts) with | .fault _ _ _ => true | _ => false)
    if faulting && witBad e.y.clk w then trapping .witness w
    else match e.translate ts with
      | .error h => .error h
      | .ok y =>
        let leaf := (y.leafOf e.asker core die e.k.ctx va.toNat).getD (0, 0)
        if pteKind leaf.2 != 0 then
          .error (.change (raise { e.s with sys := y.useFree 1 }
            { trapOf .protection va with reason := freeReason (y.freeAt 0) }))
        else match e.witnessOk w with
          | .error h => .error h
          | .ok () =>
            if pteSparse leaf.2 != 0 then
              .error (.change (e.faulted raise { e.s with sys := y } [(va.toNat / 65536, acc, leaf.1, false, pteSparse leaf.2)]
                allLanes va.toNat e.b.pc))
            else .ok y

/-- The operation of a form that keeps the page of its address. -/
def Env.pageOp (e : Env) (y : Sys) (fs : Bool) (va : Word) (n : Nat) (acc : Access3) : Op :=
  { e.op fs with set := y.keep e.asker (some e.k.core) (dieOf e.k.core) e.k.ctx [{ lane := 32, va := va.toNat, len := n, acc }] }

/-- DPUB (R410): n is an unsigned 64-bit value. -/
def execDpub (d a b : SReg) (w : OptS) (dev fs : Bool) (s : State) : Host.Outcome State Fault Refusal :=
  issue (.dpub d a b w dev fs) s (fun e =>
    match e.taskPage (e.w.s a) 128 128 .write (e.optS w) with
    | .error h => .error h
    | .ok y =>
      e.send y e.w { e.pageOp y fs (e.w.s a) 128 .write with
        wit := e.taskWit dev w, pendS := [d.toNat], args := [e.w.s a, e.w.s d] ++ e.recordAt b })

/-- The address names a ticket of the context (R410). -/
def Sys.isTicket (y : Sys) (ctx : Nat) (a : Word) : Bool :=
  let base := y.ticketPA ctx 0
  a.toNat % 128 == 0 && decide (base ≤ a.toNat) && decide (a.toNat < base + 4096 * 128)

/-- DSIG (R410). A ticket is named by its physical address, which the context's regions must open to it (R54, log 97). -/
def execDsig (a : SReg) (w : OptS) (dev tk fs : Bool) (s : State) : Host.Outcome State Fault Refusal :=
  issue (.dsig a w dev tk fs) s (fun e =>
    let v := e.w.s a
    let wit := e.taskWit dev w
    if tk then
      if !e.y.isTicket e.k.ctx v then .error (.trap { trapOf .protection v with reason := .write })
      else match e.witnessOk (e.optS w) with
        | .error h => .error h
        | .ok () =>
          let key := mainKey 0 v.toNat
          if e.y.opens e.k.ctx key 128 true then e.send e.y e.w { e.op fs with wit, args := [v] }
          else .error (.change (Upd.andThen e.s (takeTrap e.s e.w e.o e.b { trapOf .protection v with reason := .firewall })
            (fun t => freezeContext t (.part e.k.core e.w.part) e.k.ctx (key, true))))
    else match e.taskPage v 128 128 .write (e.optS w) with
      | .error h => .error h
      | .ok y => e.send y e.w { e.pageOp y fs v 128 .write with wit, args := [v] })

/-- LAUNCH (R411). -/
def execLaunch (d a b : SReg) (w : OptS) (fs : Bool) (s : State) : Host.Outcome State Fault Refusal :=
  issue (.launch d a b w fs) s (fun e =>
    match e.taskPage (e.w.s a) 256 256 .read (e.optS w) with
    | .error h => .error h
    | .ok y =>
      e.send y e.w { e.pageOp y fs (e.w.s a) 256 .read with
        wit := e.optS w, pendS := [d.toNat], args := [e.w.s a, e.w.s b] })

/-! ### Posts (R175, R176, R408) -/

/-- An earlier command of the same warp with the same key is outstanding. -/
def Sys.taskBehind (y : Sys) (p : Op) (same : Op → Bool) : Bool :=
  y.ops.any (fun q => decide (q.id < p.id) && q.warp == p.warp && same q)

/-- Where a task form's witness settles: its core, or the die of a command processor. -/
def Op.reader (p : Op) : Reader := if p.warp.isSome then coreReader p.core else dieReader (dieOf p.core)

/-- A task command may take effect (R127, R55). -/
def Sys.taskMay (y : Sys) (p : Op) : Bool :=
  !(y.context p.ctx).frozen && !y.ctl.held && y.settled p.reader p.wit == .yes

def Op.isPost (p : Op) : Bool :=
  match p.instr with
  | .qpost _ _ _ _ _ => true
  | _ => false

/-- QPOST_ACCEPT (R408): the record is accepted and the flag clears. -/
def execQpostAccept (op : Nat) (s : State) : Host.Outcome State Fault Refusal :=
  machineStep s (
    match s.sys.op? op with
    | none => idle s
    | some p =>
      let die := (p.args.getD 8 0).toNat
      let n := (p.args.getD 9 0).toNat
      match s.sys.bin? p.ctx die n with
      | none => idle s
      | some b =>
        let same := fun q : Op => q.isPost && q.args.drop 8 == p.args.drop 8
        if !p.isPost || !s.sys.taskMay p || s.sys.taskBehind p same then idle s
        else
          let b1 := ({ b with reserved := b.reserved - 1 } : Bin).accept (p.args.take 8) none s.sys.time.now
          let v := BitVec.ofNat 64 (b.accepted % 2 ^ 32 * 2 ^ 32 + n)
          finishOp { s with sys := s.sys.setBin p.ctx die n (fun _ => b1) }
            { p with results := p.pendS.map (fun r => (codeS r, v)) })

/-- The answer to QINFO (R409). -/
def Sys.qinfo (y : Sys) (ctx die : Nat) (a : Word) : Word :=
  match (y.bins? ctx die).bind (fun b => (b.find (bits a 55 3)).bind (fun n => (b.bins[n]?).map (fun x => (n, x)))) with
  | some (n, b) =>
    BitVec.ofNat 64 (2 ^ 63 + b.running % 2 ^ 11 * 2 ^ 48 + (b.ring.length + b.held.length) % 2 ^ 21 * 2 ^ 27 +
      b.hwq.length % 64 * 2 ^ 8 + n)
  | none => 0

/-! ### Fault tickets (R44, R45) -/

/-- What waits on a page's ticket goes on: sub-warps and access contexts, parked streams and commands, and ring writes. -/
def Sub.unpark (b : Sub) (vpage : Nat) : Sub :=
  match b.wait with
  | .ticket p _ => if p = vpage then { b with wait := .resumed } else b
  | _ => b

def QJob.unpark (j : QJob) (vpage : Nat) : QJob :=
  match j with
  | .stream t => .stream (if t.parked = some vpage then { t with parked := none } else t)
  | .mark v => .mark v

/-- A parked access context goes on at once: it has no step of its own in the table. -/
def Access.unpark (a : Access) (vpage : Nat) : Access :=
  let b := a.sub.unpark vpage
  { a with sub := if b.wait = .resumed then { b with wait := .none } else b,
           jobs := a.jobs.map (fun l => l.map (fun j => j.unpark vpage)) }

def Warp.unpark (w : Warp) (vpage : Nat) : Warp :=
  { w with subs := w.subs.map (fun b => b.unpark vpage), access := w.access.map (fun a => a.unpark vpage) }

/-- A ring access that waits for the page goes on. -/
def Bin.unpark (b : Bin) (vpage : Nat) : Bin :=
  let on := fun (o : Option Nat) => if o = some vpage then none else o
  { b with heldParked := on b.heldParked, refillParked := on b.refillParked }

/-- Every waiter of a page in a context is resumed. -/
def Sys.resumePage (y : Sys) (ctx vpage : Nat) : Sys :=
  let mine := fun w : Warp => ((y.block? w.block).map (fun k => k.ctx == ctx)).getD false
  { y with
    warps := y.warps.map (fun w => if mine w then w.unpark vpage else w)
    saved := y.saved.map (fun b => if b.block.ctx == ctx then
      { b with warps := b.warps.map (fun x => { x with warp := x.warp.unpark vpage }) } else b)
    ops := y.ops.map (fun p => if p.ctx == ctx && p.stage == .parked vpage then { p with stage := .resumed } else p)
    bins := y.bins.map (fun b => if b.ctx == ctx then { b with bins := b.bins.map (fun x => x.unpark vpage) } else b) }

/-- The armed ticket at a key. -/
def Sys.ticketAt (y : Sys) (ctx key : Nat) : Option Ticket :=
  (y.context ctx).tickets.find? (fun t => mainKey 0 (y.ticketPA ctx t.no) == key)

/-- A ticket's resume record is posted: its waiters go on, unless software altered it; the ticket returns to the
area (R44, R45). -/
def postTicket (ctx : Nat) (t : Ticket) (key : Nat) (s : State) : Upd :=
  let c := s.sys.context ctx
  let y := s.sys.setContext ctx { c with tickets := c.tickets.filter (fun x => x != t) }
  if s.mem.words (key + 64) 8 = (List.range 8).map (Config.resumeWord ctx t.no) then .of (y.resumePage ctx t.vpage)
  else .of y

/-- PARKED_WARP_RESUME (R37): the faulting word is issued again from its start. -/
def execParkedWarpResume (w sub : Nat) (s : State) : Host.Outcome State Fault Refusal :=
  machineStep s (
    match s.sys.warp? w with
    | none => idle s
    | some x =>
      match x.sub? (some sub) with
      | some b => if b.wait = .resumed then .of (s.sys.setWarp (x.setSub (some sub) { b with wait := .none })) else idle s
      | none => idle s)

/-! ### Dependence counters (R177, R178) -/

def counterP (w : Word) : Bool := w.getLsbD 63
def counterCount (w : Word) : Int := (w.setWidth 32).toInt

/-- Word 0 with another P and count; bits 62:32 unchanged. -/
def counterWord (w : Word) (p : Bool) (n : Int) : Word :=
  BitVec.ofNat 64 ((if p then 2 ^ 63 else 0) + bits w 62 32 * 2 ^ 32 + (BitVec.ofInt 32 n).toNat)

/-- What an operation on a counter does. -/
inductive CounterFate where
  | underflow
  | already
  | writes (w : Word) (post : Bool)
  deriving DecidableEq, Repr

/-- DSIG (R178). -/
def dsigFate (w : Word) : CounterFate :=
  let c := counterCount w
  if (counterP w && c = 0) || (!counterP w && c = -(2 ^ 31)) then .underflow
  else .writes (counterWord w (counterP w) (c - 1)) (counterP w && c = 1)

/-- DPUB (R178). -/
def dpubFate (w : Word) (n : Nat) : CounterFate :=
  let c := counterCount w + n
  if counterP w then .already
  else if n ≥ 2 ^ 31 || c < 0 || c ≥ 2 ^ 31 then .underflow
  else .writes (counterWord w true c) (c = 0)

def Op.isCounter (p : Op) : Bool :=
  match p.instr with
  | .dsig _ _ _ _ _ | .dpub _ _ _ _ _ _ => true
  | _ => false

/-- The key of the counter of an operation. -/
def Sys.counterKey (y : Sys) (p : Op) : Option Nat :=
  let va := (p.args.headD 0).toNat
  match p.instr with
  | .dsig _ _ _ true _ => some (mainKey 0 va)
  | _ => ((y.opRuns p false va 8).head?).bind (·.key)

def Op.counterOrigin (p : Op) : Origin := if p.warp.isSome then .part p.core p.part else .proc (dieOf p.core)

/-- The counter operation ends: its status to S[D]. -/
def counterDone (p : Op) (v : Word) (s : State) : Upd :=
  finishOp s { p with results := p.pendS.map (fun r => (codeS r, v)), stage := .done }

/-- An imprecise cause of a counter operation; a task's signal has no warp, and its cause goes to the fault log (R179). -/
def counterCause (p : Op) (c : Cause) (s : State) : Upd :=
  let t := trapOf c (p.args.headD 0)
  if p.isSignal then logLost s { p.who s.sys with tskid := p.args.getD 1 0 } 0 t else sendImprecise s p t

/-- The post that a counter makes (R171, R176): accepted, waiting for room, or no bin. -/
def counterPost (p : Op) (key : Nat) (v : Word) (s : State) : Upd :=
  match s.sys.ticketAt p.ctx key with
  | some t => Upd.andThen s (postTicket p.ctx t key s) (counterDone p v)
  | none =>
    let rec_ := s.mem.words (key + 64) 8
    let addr := some (BitVec.ofNat 64 (keyPA (key + 64)))
    match s.sys.recordBin p.ctx (paDie (keyPA key)) rec_ with
    | none => Upd.andThen s (counterCause p .noBin s) (counterDone p (s.sys.freeAt 0))
    | some (die, n) =>
      let waiting := s.sys.posts.any (fun q => q.ctx == p.ctx && q.die == die && q.bin == n)
      if !waiting && ((s.sys.bin? p.ctx die n).map Bin.room).getD false then
        counterDone p v { s with sys := s.sys.post p.ctx die n rec_ addr none }
      else
        let post : WaitingPost := { ctx := p.ctx, die, bin := n, record := rec_, addr, op := some p.id }
        let y := { s.sys with posts := s.sys.posts ++ [post] }
        .of (y.modOp p.id (fun q => { q with stage := .running, results := p.pendS.map (fun r => (codeS r, v)) }))

/-- A counter operation acts at the counter's home (R118, R178). -/
def counterAct (p : Op) (fate : Word → CounterFate) (record : List Word) (s : State) : Upd :=
  match s.sys.counterKey p with
  | none => counterDone p (s.sys.freeAt 0) s
  | some key =>
    let runs : List Run := [{ va := (p.args.headD 0).toNat, len := 128, key := some key, scope := 2 }]
    match s.sys.pass p p.counterOrigin runs runs with
    | .error y => .of y
    | .ok y0 =>
      match (y0.readFails p runs).orElse (fun _ => y0.writeFails p runs) with
      | some f => finishOp s { p with err := some { trapOf .memError (p.args.headD 0) with reason := f.1 } }
      | none =>
        let y := y0.runsRead p.ctx runs
        let s1 : State := { s with sys := y }
        match fate (s.mem.word key) with
        | .underflow =>
          let s2 : State := { s1 with sys := y.useFree 1 }
          Upd.andThen s2 (counterCause p .depUnderflow s2) (counterDone p (y.freeAt 0))
        | .already => counterDone p 1 s1
        | .writes w post =>
          let o := p.counterOrigin
          let t := y.writeTick p.id key 8
          let z := y.dropRuns p.id true runs
          let u1 : Upd := { sys := z.performed o t key 8 p.id, stores := [.bytes key (leBytes 8 w.toNat)] }
          let u2 := if record.isEmpty then u1
            else Upd.andThen s1 u1 (fun x =>
              { sys := x.sys.performed o t (key + 64) 64 p.id, stores := [.bytes (key + 64) (wordBytes record)] })
          Upd.andThen s1 u2 (if post then counterPost p key 0 else counterDone p 0)

/-- Another operation of the warp on the counter comes first (R410), by whatever address it names it; so does an earlier request of its
partition to the counter that no home has served (R90, R180). -/
def Sys.counterBehind (y : Sys) (p : Op) : Bool :=
  p.warp.isSome && (y.taskBehind p (fun q => q.isCounter && y.counterKey q == y.counterKey p) ||
    (y.counterKey p).any (fun k => y.reqs.any (fun q => decide (q.id < p.id) && q.origin == p.counterOrigin && !q.isHeld &&
      overlaps q.key q.size k 128)))

/-- The check of a task's SUCC by the command processor (R179), and its page. DESIGN CHOICE (log 122): where SUCC's page faults replayably and the
context has neither a fault bin nor a host ring, the signal is dropped, with a KIND 1 record of cause PAGE. -/
def signalSetup (p : Op) (s : State) : Upd :=
  let die := dieOf p.core
  let va := (p.args.headD 0).toNat
  let lost := fun (u : Upd) (t : TrapInfo) => Upd.andThen s u (fun s1 =>
    Upd.andThen s1 (logLost s1 { p.who s1.sys with tskid := p.args.getD 1 0 } 0 { t with tval := p.args.headD 0 })
      (fun s2 => .of (s2.sys.dropOp p.id)))
  match mainTrap 128 [{ lane := 32, idx := 1024, ea := va }] with
  | some t => lost (idle s) t
  | none =>
    let ts : List Touch := [{ lane := 32, va, len := 128, acc := .write }]
    match engineSet s p { kind := 5, slot := 0, part := 0, unit := die, pc := 0 } (.proc die) die ts with
    | .hold u => u
    | .stop u t => lost u t
    | .go y =>
      if pteKind ((y.leafOf (.op p.id) none die p.ctx va).getD (0, 0)).2 != 0 then lost (.of y) (trapOf .protection (p.args.headD 0))
      else .of (y.modOp p.id (fun q => { q with set := y.keep (.op p.id) none die p.ctx ts, stage := .running }))

/-- A post that the operation made waits for bin room (R175). -/
def Sys.postHeld (y : Sys) (op : Nat) : Bool := y.posts.any (fun q => q.op == some op)

/-- COUNTER_DSIG_PERFORM (R178). -/
def execCounterDsigPerform (op : Nat) (s : State) : Host.Outcome State Fault Refusal :=
  machineStep s (
    match s.sys.op? op with
    | none => idle s
    | some p =>
      match p.instr with
      | .dsig _ _ _ _ _ =>
        if p.isSignal || !s.sys.taskMay p || s.sys.counterBehind p || s.sys.postHeld op then idle s
        else counterAct p dsigFate [] s
      | _ => idle s)

/-- TASK_END_SIGNAL (R179): the command processor's DSIG on SUCC, from its check to its effect. -/
def execTaskEndSignal (op : Nat) (s : State) : Host.Outcome State Fault Refusal :=
  machineStep s (
    match s.sys.op? op with
    | none => idle s
    | some p =>
      let parked := match p.stage with | .parked _ => true | _ => false
      if !p.isSignal || !s.sys.taskMay p || s.sys.postHeld op || parked then idle s
      else if p.set.isEmpty then signalSetup p s
      else counterAct p dsigFate [] s)

/-- COUNTER_DPUB_PERFORM (R178). -/
def execCounterDpubPerform (op : Nat) (s : State) : Host.Outcome State Fault Refusal :=
  machineStep s (
    match s.sys.op? op with
    | none => idle s
    | some p =>
      match p.instr with
      | .dpub _ _ _ _ _ _ =>
        if !s.sys.taskMay p || s.sys.counterBehind p || s.sys.postHeld op then idle s
        else counterAct p (fun w => dpubFate w (p.args.getD 1 0).toNat) (p.args.drop 2) s
      | _ => idle s)

/-- BIN_POST_ACCEPT (R175): the oldest waiting post of a bin is accepted, and the operation that made it completes. -/
def execBinPostAccept (ctx die bin : Nat) (s : State) : Host.Outcome State Fault Refusal :=
  machineStep s (
    match s.sys.posts.find? (fun q => q.ctx == ctx && q.die == die && q.bin == bin), s.sys.bin? ctx die bin with
    | some q, some b =>
      if !b.room || (s.sys.context ctx).frozen then idle s
      else
        let y := { s.sys with posts := s.sys.posts.erase q }
        let y1 := (y.setBin ctx die bin (fun x => x.accept q.record q.addr y.time.now)).mark ctx
        match q.op.bind y1.op? with
        | some p => finishOp { s with sys := y1 } p
        | none => .of y1
    | _, _ => idle s)

/-! ### LAUNCH (R411, R417, R418) -/

def qcfgEn (v : Word) : Bool := v.getLsbD 63
def qcfgSize (v : Word) : Nat := 2 ^ bits v 59 56
def qcfgPrio (v : Word) : Nat := bits v 55 54
def qcfgBase (v : Word) : Nat := bits v 47 12 * 4096
def qcfgCtx (v : Word) : Nat := bits v 11 0

def Control.queue (c : Control) (q : Nat) : Queue := Table.getD c.queues q { cfg := 0, head := 0, tail := 0 }

def Sys.setQueue (y : Sys) (q : Nat) (x : Queue) : Sys := { y with ctl := { y.ctl with queues := Table.set y.ctl.queues q x } }

/-- The physical address of a slot. -/
def slotPA (cfg : Word) (i : Nat) : Nat := qcfgBase cfg + 256 * (1 + i % qcfgSize cfg)

/-- The LPB with its context field replaced (R411, R421). -/
def lpbFor (ctx : Nat) (l : List Word) : List Word :=
  l.set 9 ((l.getD 9 0 &&& ~~~(0xFFF#64 <<< 32)) ||| BitVec.ofNat 64 (ctx % 4096 * 2 ^ 32))

/-- LAUNCH_ENQUEUE (R411): settled, the LPB is read and copied to the queue's tail; a full queue makes it wait. -/
def execLaunchEnqueue (op : Nat) (s : State) : Host.Outcome State Fault Refusal :=
  machineStep s (recallFirst s (
    match s.sys.op? op with
    | none => idle s
    | some p =>
      match p.instr with
      | .launch _ _ _ _ _ =>
        let give := fun (v : Word) (t : State) => finishOp t { p with results := p.pendS.map (fun r => (codeS r, v)) }
        let q := (p.args.getD 1 0).toNat
        let cfg := (s.sys.ctl.queue q).cfg
        let line := mainKey 0 (qcfgBase cfg)
        if !s.sys.taskMay p then idle s
        else
          let runs := s.sys.opRuns p false (p.args.headD 0).toNat 256
          let stop := fun (u : Upd) (t : TrapInfo) => Upd.andThen s u (fun t1 => finishOp t1 { p with err := some t })
          let refused := fun hit : Nat × Bool =>
            stop (freezeContext s (.part p.core p.part) p.ctx hit) { trapOf .protection (p.args.headD 0) with reason := .firewall }
          if !s.sys.runsQuiet runs then .of (s.sys.holdRead (.op op) (runRanges runs))
          else match s.sys.runsFail runs with
            | some f => stop (idle s) (memTrap f)
            | none =>
              if q ≥ 4096 || qcfgSize cfg = 1 || qcfgCtx cfg != p.ctx then give 1 s
              else match s.sys.ctlFate p.ctx [(line, 16, false)] with
              | .wait y => .of y
              | .frozen hit => refused hit
              | .broken r => stop (idle s) { trapOf .memError 0 with reason := r }
              | .go y1 =>
                let s1 : State := { s with sys := y1 }
                let tail := s.mem.value line 4
                let head := s.mem.value (line + 8) 4
                let slot := mainKey 0 (slotPA cfg tail)
                if (tail + 2 ^ 32 - head) % 2 ^ 32 ≥ qcfgSize cfg then idle s
                else match s.sys.ctlFate p.ctx [(slot, 256, true), (line, 4, true)] with
                | .wait y => .of y
                | .frozen hit => refused hit
                | .broken r => stop (idle s) { trapOf .memError 0 with reason := r }
                | .go _ =>
                  let bs := runBytes s.mem runs
                  let words := (List.range 32).map (fun i => BitVec.ofNat 64 (leValue ((bs.drop (8 * i)).take 8)))
                  let u1 := hostPut slot (wordBytes (lpbFor p.ctx words)) { s1 with sys := y1.runsRead p.ctx runs }
                  let u2 := Upd.andThen s u1 (hostPut line (leBytes 4 ((tail + 1) % 2 ^ 32)))
                  Upd.andThen s u2 (give 0)
      | _ => idle s))

end Sys2Proof.Machine
end

