-- ==== Sys2Proof/Machine/Place.lean ====
section
/-! DEFINITION. Room on the cores, the choice of cores, and the blocks and warps placed there (R59, R61, R165, R173, R181,
R219, R424). -/

namespace Sys2Proof.Machine

/-! ### Room (R59) -/

/-- What a block needs: shared allocation and spill stack in bytes, tiles, and the V budget of each warp. -/
structure Need where
  scr : Nat
  spill : Nat
  zt : Nat
  budgets : List Nat
  deriving DecidableEq, Repr

/-- The blocks that hold something on a core. -/
def Sys.blocksOn (y : Sys) (core : Nat) : List Block := y.blocks.filter (fun k => k.core == core)

/-- The warps resident on a core. -/
def Sys.warpsOn (y : Sys) (core : Nat) : List Warp :=
  y.warps.filter (fun w => (y.blocksOn core).any (fun k => k.id == w.block))

/-- The engine tasks' warps on a core (R173): they stand in partition 0. -/
def Sys.engineWarps (y : Sys) (core : Nat) : List (Nat × Nat × Nat) := (y.blocksOn core).filterMap (·.engineWarp)

/-- The ranges of a core's scratchpad in use: base and size. -/
def Sys.scratchUsed (y : Sys) (core : Nat) : List (Nat × Nat) :=
  ((y.blocksOn core).map (fun k => (k.scrBase, k.scrSize)) ++ (y.warpsOn core).map (fun w => (w.spillBase, w.spillSize)) ++
    (y.engineWarps core).map (fun g => (g.1, g.2.1))).filter (fun r => r.2 != 0)

/-- The pieces of a core's scratchpad to which requests are still on their way, maybe of a warp that has exited: no new storage lies
there, so that none of them lands in a later occupant's (R60). -/
def Sys.scratchPending (y : Sys) (core : Nat) : List (Nat × Nat) :=
  (y.reqs.filter (fun r => overlaps r.key r.size (scratchKey core 0) 0x400000)).map (fun r => (r.key - scratchKey core 0, r.size))

/-- The ranges of a core's tiles in use. -/
def Sys.tilesUsed (y : Sys) (core : Nat) : List (Nat × Nat) :=
  ((y.blocksOn core).filter (fun k => k.zCount != 0 && !k.ending)).map (fun k => (k.zBase, k.zCount))

/-- The budgets of the warps in a partition. -/
def Sys.budgetsIn (y : Sys) (core part : Nat) : List Nat :=
  ((y.warpsOn core).filter (fun w => w.part == part)).map (·.budget) ++
    (if part = 0 then (y.engineWarps core).map (·.2.2) else [])

def sumOf (l : List Nat) : Nat := l.foldl (· + ·) 0

/-- A range lies free. -/
def freeRange (used : List (Nat × Nat)) (a n : Nat) : Bool := !used.any (fun r => overlaps a n r.1 r.2)

/-- The lowest free range of a size, at a multiple of `al`, below `lim`. -/
def firstFree (used : List (Nat × Nat)) (n al lim : Nat) : Option Nat :=
  if n = 0 then some 0
  else
    let up := fun a => (a + al - 1) / al * al
    let fit := (0 :: used.map (fun r => up (r.1 + r.2))).filter (fun a => decide (a + n ≤ lim) && freeRange used a n)
    match fit with
    | [] => none
    | a :: r => some (r.foldl Nat.min a)

/-- `n` spill stacks of one size, each in a free range. -/
def spillPlaces (used : List (Nat × Nat)) (size : Nat) : Nat → Option (List Nat)
  | 0 => some []
  | n + 1 =>
    match firstFree used size 1024 0x400000 with
    | none => none
    | some a => (spillPlaces ((a, size) :: used) size n).map (fun l => a :: l)

/-- Where a block's storage goes on a core. -/
structure Storage where
  scr : Nat
  spills : List Nat
  z : Nat
  deriving DecidableEq, Repr

/-- The storage of a block of which the totals fit: the lowest shared range that leaves a range for every spill stack. -/
def storageFor (used tiles : List (Nat × Nat)) (n : Need) : Option Storage :=
  let places := if n.scr = 0 then [0] else (List.range 1024).map (fun i => 4096 * i)
  match firstFree tiles n.zt 1 256 with
  | none => none
  | some z =>
    places.findSome? (fun a =>
      if n.scr != 0 && !(decide (a + n.scr ≤ 0x400000) && freeRange used a n.scr) then none
      else (spillPlaces (if n.scr = 0 then used else (a, n.scr) :: used) n.spill n.budgets.length).map (fun l =>
        { scr := a, spills := l, z }))

/-- The budgets of a block's warps in a partition (R165). -/
def Need.inPart (n : Need) (part : Nat) : List Nat :=
  (n.budgets.zipIdx.filter (fun b => b.2 % 6 == part)).map (·.1)

/-- The sums of R59 hold with the block added. -/
def Sys.totalsFit (y : Sys) (core : Nat) (n : Need) : Bool :=
  decide (sumOf ((y.scratchUsed core).map (·.2)) + n.scr + n.spill * n.budgets.length ≤ 0x400000) &&
  decide (sumOf ((y.tilesUsed core).map (·.2)) + n.zt ≤ 256) &&
  (List.range 6).all (fun p =>
    let here := y.budgetsIn core p ++ n.inPart p
    decide (sumOf here ≤ 1536) && decide (here.length ≤ 16))

/-- The storage of a block on a core, where R59 holds. -/
def Sys.storage (y : Sys) (core : Nat) (n : Need) : Option Storage :=
  if y.totalsFit core n then storageFor (y.scratchUsed core ++ y.scratchPending core) (y.tilesUsed core) n else none

/-! ### The choice of cores (R424) -/

/-- The free warp slots of a core. -/
def Sys.freeSlots (y : Sys) (core : Nat) : Nat := 96 - ((y.warpsOn core).length + (y.engineWarps core).length)

/-- Inserts a core by free slots, most first; the lower index comes first among equals. -/
def insertCore (f : Nat → Nat) (c : Nat) : List Nat → List Nat
  | [] => [c]
  | d :: r => if f d < f c then c :: d :: r else d :: insertCore f c r

/-- The `s` qualifying cores of a cluster with the most free slots, in ascending order. -/
def Sys.clusterCores (y : Sys) (cluster s : Nat) (n : Need) : Option (List Nat) :=
  let ok := ((List.range 4).map (fun i => 4 * cluster + i)).filter (fun c => (y.storage c n).isSome)
  let best := (ok.foldl (fun l c => insertCore y.freeSlots c l) []).take s
  if best.length < s then none else some (ok.filter (fun c => best.contains c))

/-- The cores for a launch cluster of `s` blocks on a die, rank by rank. -/
def Sys.chooseCores (y : Sys) (die s : Nat) (n : Need) : Option (List Nat) :=
  let total := fun l => sumOf (l.map y.freeSlots)
  ((List.range 10).map (fun i => 10 * die + i)).foldl (fun best cl =>
    match y.clusterCores cl s n, best with
    | none, _ => best
    | some l, none => some l
    | some l, some b => if total b < total l then some l else best) none

/-! ### Blocks and warps -/

/-- A sub-warp at its start (R181), in some cycle. -/
def newSub (id : Nat) (pc : Word) (cycle : Nat) : Sub where
  id := id
  pc := pc
  place := .boundary
  lset := allLanes
  perm := allLanes
  exec := allLanes
  frames := []
  wait := .none
  under := .none
  came := none
  set := []
  since := 0
  ext := (0, 0)
  ready := cycle
  boosted := false
  stopped := false

/-- The first registers of a bank. -/
def firstRegs (n : Nat) (l : List Word) : Vector Word n :=
  (l.zipIdx).foldl (fun v x => v.setIfInBounds x.2 x.1) (Vector.replicate n 0)

/-- A warp at its start (R181, R191). `regs` are S0 to S7, and X0 to X7. -/
def newWarp (cycle id block index slot budget spillBase spillSize : Nat) (regs : List Word) (entry : Word)
    (access : Option Word) (phase : Word) : Warp where
  id := id
  block := block
  index := index
  part := index % 6
  slot := slot
  budget := budget
  spillBase := spillBase
  spillSize := spillSize
  vregs := Vector.replicate 256 zeroLanes
  shapes := Vector.replicate 256 0x80
  tops := Vector.replicate 256 0
  sregs := firstRegs 128 regs
  flags := Vector.replicate 12 { count := 0, err := none }
  queues := Vector.replicate 4 []
  access := access.map (fun a =>
    { xregs := firstRegs 32 regs, sub := newSub id a cycle, jobs := Vector.replicate 4 [], ended := false, raised := none })
  subs := [newSub id entry cycle]
  splits := []
  exited := 0
  fmt := 0
  nbv := 2
  fpctl := 0
  nttth := 4096
  phase := phase
  cause := 0
  epc := 0
  tval := 0
  tlanes := 0
  tinfo := 0
  hstat := 0
  handler := none
  halt := none
  batches := []
  batchNo := 0
  accord := 0
  accordTag := 0
  bars := []
  mmqs := []
  bad := []
  hint := none

/-- The lowest free slot of a partition (log 23). -/
def Sys.freeSlot (y : Sys) (core part : Nat) : Nat :=
  let used := ((y.warpsOn core).filter (fun w => w.part == part)).map (·.slot)
  ((List.range 16).find? (fun i => !used.contains i)).getD 0

/-- What one warp of a new block starts with: its budget, its entries, and the role's registers. -/
structure WarpSpec where
  budget : Nat
  entry : Word
  access : Option Word
  deriving DecidableEq, Repr

/-- Adds a block's warps from index `i` on. -/
def Sys.addWarps (y : Sys) (k : Block) (spill : Nat) (regs : List Word) (phase : Word) :
    Nat → List (WarpSpec × Nat) → Sys
  | _, [] => y
  | i, (p, base) :: rest =>
    let w := newWarp y.time.cycle y.nextId k.id i (y.freeSlot k.core (i % 6)) p.budget base spill regs p.entry p.access phase
    Sys.addWarps { y with warps := y.warps ++ [w], nextId := y.nextId + 1 } k spill regs phase (i + 1) rest

/-- The core's instruction cache drops its words when the first block of its launch comes to it (R219). -/
def Sys.dropCodeFor (y : Sys) (k : Block) : Sys :=
  if (y.blocksOn k.core).any (fun b => b.launch == k.launch && b.isTask == k.isTask && !b.ending) then y
  else y.dropCode k.core

/-- A block and its warps on a core, with its storage; it has not started. -/
def Sys.addBlock (y : Sys) (k : Block) (n : Need) (at_ : Storage) (warps : List WarpSpec) (regs : List Word)
    (phase : Word) : Sys :=
  let k1 := { k with scrBase := at_.scr, scrSize := n.scr, zBase := at_.z, zCount := n.zt }
  let y1 := y.dropCodeFor k1
  let y2 := { y1 with blocks := y1.blocks ++ [k1], nextId := y1.nextId + 1 }
  Sys.addWarps y2 k1 n.spill regs phase 0 (warps.zip at_.spills)

/-- The storage of a block is zeroed (R60). -/
def clearBlock (k : Block) (s : State) : Upd :=
  let mine := s.sys.warps.filter (fun w => w.block == k.id)
  let zero := fun (a n : Nat) => ([.clear (scratchKey k.core a) n] : List Store)
  let cuts := [(k.scrBase, k.scrSize)] ++ mine.map (fun w => (w.spillBase, w.spillSize)) ++
    (match k.engineWarp with | some g => [(g.1, g.2.1)] | none => [])
  let hit := fun (p : Nat) => cuts.any (fun r => overlaps (scratchKey k.core r.1) r.2 p 4)
  { sys := ({ s.sys with poison := s.sys.poison.filter (fun p => !hit p) } : Sys).setBlock { k with acc := [], badAcc := [] },
    stores := cuts.flatMap (fun r => if r.2 = 0 then [] else zero r.1 r.2) }

/-! ### Grids -/

/-- The needs of a block of a grid. -/
def Grid.need (g : Grid) : Need where
  scr := 4096 * bits g.lpb[3] 24 14
  spill := 1024 * bits g.lpb[3] 40 34
  zt := bits g.lpb[3] 33 25
  budgets := g.roles.flatMap (fun r => List.replicate r.warps r.budget)

/-- The warps of a block of a grid (R166). -/
def Grid.specs (g : Grid) : List WarpSpec :=
  g.roles.flatMap (fun r => List.replicate r.warps
    { budget := r.budget, entry := r.entry, access := if r.access == 0#64 then none else some r.access })

/-- S0 to S7 of a block's warps (R181). -/
def Grid.regs (g : Grid) (flat : Nat) : List Word :=
  [g.slotPA] ++ (List.range 6).map (fun i => g.lpb.toList.getD (10 + i) 0) ++ [BitVec.ofNat 64 flat]

/-- A block of a grid before it has its storage. -/
def Grid.block (g : Grid) (id first core flat rank : Nat) : Block where
  id := id
  job := .grid g.launch flat
  recAt := none
  ctx := g.ctx
  core := core
  first := first
  rank := rank
  size := g.clusterSize
  nwarps := g.warps
  scrBase := 0
  scrSize := 0
  engineWarp := none
  zBase := 0
  zCount := 0
  prio := g.prio
  launch := g.launch
  handler := g.lpb[17]
  acc := []
  badAcc := []
  started := false
  ending := false

/-- The blocks of a launch cluster from flat index `flat` on, each on its core (R165). -/
def Sys.addCluster (y : Sys) (g : Grid) (first : Nat) : Nat → List Nat → Option Sys
  | _, [] => some y
  | flat, core :: rest =>
    match y.storage core g.need with
    | none => none
    | some at_ =>
      let k := g.block y.nextId first core flat (flat % g.clusterSize)
      Sys.addCluster (y.addBlock k g.need at_ g.specs (g.regs flat) g.lpb[18]) g first (flat + 1) rest

/-- Blocks of one launch cluster placed on a die, where they have room. -/
def Sys.placeCluster (y : Sys) (g : Grid) (die flat count : Nat) : Option Sys :=
  match y.chooseCores die count g.need with
  | none => none
  | some cores => y.addCluster g y.nextId flat cores

/-- How many launch clusters a die has room for, up to `n` (R423). -/
def Sys.roomFor (y : Sys) (g : Grid) (die : Nat) : Nat → Nat
  | 0 => 0
  | n + 1 =>
    match y.placeCluster g die 0 g.clusterSize with
    | none => 0
    | some y1 => 1 + Sys.roomFor y1 g die n

/-! ### Tasks (R173) -/

/-- The needs of a bin's tasks (R174). -/
def Bin.need (b : Bin) : Need where
  scr := 4096 * bits b.cfg[3] 31 24
  spill := 1024 * bits b.cfg[3] 6 0
  zt := bits b.cfg[3] 23 16
  budgets := [8 * (bits b.cfg[2] 12 8 + 1)]

/-- The block of a task. -/
def taskBlock (t : Bins) (bin : Nat) (r : BinRec) (id core : Nat) : Block where
  id := id
  job := .task t.die bin r.no r.words
  recAt := r.addr
  ctx := t.ctx
  core := core
  first := id
  rank := 0
  size := 1
  nwarps := 1
  scrBase := 0
  scrSize := 0
  engineWarp := none
  zBase := 0
  zCount := 0
  prio := bits (r.words.headD 0) 57 56
  launch := t.launch
  handler := t.handler
  acc := []
  badAcc := []
  started := true
  ending := false

end Sys2Proof.Machine
end

