-- ==== Sys2Proof/Machine/Bins.lean ====
section
/-! DEFINITION. Bins: ring spill, refill, timers, the order in which a die's work is served, and dispatch (R170 to R175,
R427 to R429). -/

namespace Sys2Proof.Machine

/-! ### Accesses of a command processor (R41, R428) -/

/-- What the translation of a command processor's own access gives: it goes on at a key (none: its page reads as zero, R27), it
waits, a page's ticket is armed, or a cause refuses it. -/
inductive CpSet where
  | go (y : Sys) (key : Option Nat)
  | hold (u : Upd)
  | fault (u : Upd) (page : Nat)
  | stop (u : Upd) (t : TrapInfo)

/-- The translation of an access of `len` bytes within a page. -/
def cpSet (s : State) (ctx die bin va len : Nat) (acc : Access3) : CpSet :=
  let ts : List Touch := [{ lane := 32, va, len, acc }]
  let a : Asker := .bin ctx die bin
  match s.sys.unknown a none die ctx ts with
  | [] =>
    let s1 : State := { s with sys := s.sys.forget a }
    let trap := fun (c : Cause) (r : Reason) => { trapOf c (BitVec.ofNat 64 va) with reason := r }
    match setFate true (s.sys.fates a .engine none die ctx ts) with
    | .proceed => .go s1.sys (s.sys.vaKey a none die ctx va)
    | .refuse why _ _ keys =>
      if why = .firewall then .stop (freezeContext s1 (.proc die) ctx (keys.headD (0, acc.writes))) (trap .protection why)
      else .stop (.of s1.sys) (trap .protection why)
    | .broken why _ _ => .stop (.of s1.sys) (trap .memError why)
    | .fault ps _ _ =>
      if s.sys.noDest ctx die ps then .stop (.of s1.sys) (trap .page .none)
      else .fault (postFaults s1 ctx die { kind := 5, slot := 0, part := 0, unit := die, pc := 0 } ps) (va / 65536)
  | missing => .hold (.of (missing.foldl (fun y v => y.miss a die ctx v) s.sys))

/-- A KIND 1 record of a command processor's own access (R452). -/
def logProc (s : State) (ctx : Nat) (t : TrapInfo) : Upd :=
  logLost s { ctx, tskid := 0, flat := 0, index := 0, slot := 0, part := 0, core := 0 } 0 t

/-! ### The ring (R428) -/

/-- The virtual address of the n-th record of a bin's ring. -/
def Bin.ringVA (b : Bin) (n : Nat) : Nat := bits b.cfg[1] 55 6 * 64 + 64 * (n % b.ringSize)

/-- The oldest held record is written to the ring's tail. -/
def ringPut (ctx die bin : Nat) (b : Bin) (r : BinRec) (key : Nat) (y : Sys) (s : State) : Upd :=
  let b1 := { b with held := b.held.tail, ring := b.ring ++ [{ no := r.no, tick := r.tick, tdie := r.tdie, addr := r.addr, ticket := r.words.getD 4 0 }], tail := b.tail + 1 }
  { sys := (y.setBin ctx die bin (fun _ => b1)).performed (.proc die) s.sys.time.now key 64 0,
    stores := [.bytes key (wordBytes r.words)] }

/-- BIN_RING_WRITE (R428). -/
def execBinRingWrite (ctx die bin : Nat) (s : State) : Host.Outcome State Fault Refusal :=
  machineStep s (recallFirst s (
    match s.sys.bin? ctx die bin with
    | none => idle s
    | some b =>
      match b.held with
      | [] => idle s
      | r :: _ =>
        let va := b.ringVA b.tail
        let waits := fun (u : Upd) (v : Nat) =>
          ({ u with sys := u.sys.setBin ctx die bin (fun x => { x with heldParked := some v }) } : Upd)
        let refused := fun (u : Upd) (t : TrapInfo) =>
          waits (Upd.andThen s u (fun t1 => logProc t1 ctx t)) (refusedAt (va / 65536))
        if b.heldParked.isSome || (s.sys.context ctx).frozen || s.sys.ctl.held then idle s
        else match cpSet s ctx die bin va 64 .write with
          | .hold u => u
          | .fault u page => waits u page
          | .stop u t => refused u t
          | .go _ none => idle s
          | .go y (some key) =>
            if y.frozenFrame key then .of y
            else match y.accessFails key 64 false with
              | some why => refused (.of y) { trapOf .impreciseStore (BitVec.ofNat 64 va) with reason := why }
              | none => ringPut ctx die bin b r key y s))

/-- The oldest record of the ring enters the queue; one whose read fails is dropped, with its record of KIND 1; a page that
faults or refuses the read leaves it in its place (log 92). The flag tells whether the next record may follow at once. -/
def refillOne (ctx die bin : Nat) (s : State) : Upd × Bool :=
  match s.sys.bin? ctx die bin with
  | none => (idle s, false)
  | some b =>
    match b.ring with
    | [] => (idle s, false)
    | r :: rest =>
      let va := b.ringVA b.head
      let shorter := { b with ring := rest, head := b.head + 1 }
      let waits := fun (u : Upd) (v : Nat) =>
        ({ u with sys := u.sys.setBin ctx die bin (fun x => { x with refillParked := some v }) } : Upd)
      let logged := fun (u : Upd) (t : TrapInfo) => Upd.andThen s u (fun t1 => logProc t1 ctx t)
      let dropped := fun (u : Upd) (t : TrapInfo) =>
        logged (Upd.andThen s u (fun t1 => .of (t1.sys.setBin ctx die bin (fun _ => shorter)))) t
      let enters := fun (y : Sys) (ws : List Word) =>
        Upd.of (y.setBin ctx die bin (fun _ =>
          { shorter with hwq := b.hwq ++ [{ words := ws, no := r.no, tick := r.tick, tdie := r.tdie, addr := r.addr }] }))
      match cpSet s ctx die bin va 64 .read with
      | .hold u => (u, false)
      | .fault u page => (waits u page, false)
      | .stop u t =>
        if t.cause = .memError then (dropped u t, true) else (waits (logged u t) (refusedAt (va / 65536)), false)
      | .go y none => (enters y (List.replicate 8 0), true)
      | .go y (some key) =>
        if !y.quiet key 64 then (.of (y.holdRead .walk [(key, 64)]), false)
        else match y.accessFails key 64 true with
          | some why => (dropped (.of y) { trapOf .memError (BitVec.ofNat 64 va) with reason := why }, true)
          | none => (enters (y.fillFor key 64 false ctx (va / 65536)) (s.mem.words key 8), true)

/-- Records move from the ring to the queue, at most `n`. -/
def refillMany (ctx die bin : Nat) : Nat → State → Upd
  | 0, s => .of s.sys
  | n + 1, s =>
    match refillOne ctx die bin s with
    | (u, false) => u
    | (u, true) => Upd.andThen s u (refillMany ctx die bin n)

/-- BIN_REFILL (R428): each record once it is visible at its home. -/
def execBinRefill (ctx die bin : Nat) (s : State) : Host.Outcome State Fault Refusal :=
  machineStep s (recallFirst s (
    match s.sys.bin? ctx die bin with
    | none => idle s
    | some b =>
      if b.hwq.length ≥ 16 || b.refillParked.isSome || (s.sys.context ctx).frozen || s.sys.ctl.held then idle s
      else refillMany ctx die bin (Nat.min (32 - b.hwq.length) b.ring.length) s))

/-- BIN_TIMER_EXPIRY (R427). -/
def execBinTimerExpiry (ctx die bin : Nat) (s : State) : Host.Outcome State Fault Refusal :=
  machineStep s (
    match s.sys.bin? ctx die bin with
    | none => idle s
    | some b =>
      match b.hwq with
      | [] => idle s
      | r :: _ =>
        if !b.expired && r.tick + bits b.cfg[2] 63 32 ≤ s.sys.time.now then
          .of (s.sys.setBin ctx die bin (fun x => { x with expired := true }))
        else idle s)

/-! ### Whose turn it is (R429) -/

def Grid.diemask (g : Grid) : Nat := bits g.lpb[9] 21 16

/-- Blocks of the grid may be claimed on a die. -/
def Sys.gridSource (y : Sys) (die : Nat) (g : Grid) : Bool :=
  g.state == .running && !g.coop && !g.exhausted && g.diemask.testBit die && !g.installs.contains die &&
    !(y.context g.ctx).frozen && !(y.context g.ctx).held

/-- Work may be placed on a die (R453). -/
def Sys.diePlaces (y : Sys) (die : Nat) : Bool := !(y.die die).halted && (y.die die).dsrNew.isNone && !y.ctl.held

/-- Fewer than MAXC + 1 tasks of the bin are running. -/
def Bin.mayRun (b : Bin) : Bool := decide (b.running ≤ bits b.cfg[2] 24 15)

/-- The bins of a die whose head is eligible. -/
def Sys.binSources (y : Sys) (die : Nat) : List (Bins × Nat × Bin) :=
  (y.bins.filter (fun t => t.die == die && !(y.context t.ctx).frozen && !(y.context t.ctx).held)).flatMap (fun t =>
    (t.bins.toList.zipIdx.filter (fun x => x.1.eligible && x.1.mayRun)).map (fun x => (t, x.2, x.1)))

/-- The record's TDIE is the one with which it was accepted (R427); its context is its bin's. -/
def BinRec.unchanged (r : BinRec) : Bool := bits (r.words.headD 0) 62 60 == r.tdie

/-- The core on which a task of a bin goes, and its storage there. -/
def Sys.taskPlace (y : Sys) (die : Nat) (b : Bin) : Option (Nat × Storage) :=
  match y.chooseCores die 1 b.need with
  | some [c] => (y.storage c b.need).map (fun p => (c, p))
  | _ => none

/-- The place of a source in the rotation. -/
def WorkSource.key : WorkSource → Nat
  | .claimed _ _ => 0
  | .grid g => 2 * g + 2
  | .bin ctx n => 2 * (64 * ctx + n) + 1

/-- A piece of work that waits on a die: its class, whether it is a claimed cluster, its order within the class and kind,
and whether it can use the room now. -/
structure Work where
  src : WorkSource
  cls : Nat
  claimed : Bool
  order : Nat
  fits : Bool
  deriving DecidableEq, Repr

/-- The class of work, raised as it has waited. -/
def workClass (prio raised : Nat) : Nat := Nat.min 3 (prio + raised)

/-- The order of a source in a rotation whose last turn went to `last`. -/
def rotated (last key : Nat) : Nat := if last < key then key else key + 2 ^ 64

/-- The class to which work is raised that has waited since cycle `t`, beside waiting claims (cycle and class): never past an
older claim (R429, log 24). -/
def cappedClass (claims : List (Nat × Nat)) (t prio raised : Nat) : Nat :=
  Nat.max prio (((claims.filter (fun c => decide (c.1 < t))).map (·.2)).foldl Nat.min (workClass prio raised))

/-- The claims that wait on a die, with their grids, the oldest first. -/
def Sys.claimsOn (y : Sys) (die : Nat) : List (Grid × Claim) :=
  (y.grids.flatMap (fun g => (g.claims.filter (fun c => c.die == die)).map (fun c => (g, c)))).foldr
    (insertBy (fun x => x.2.cycle)) []

/-- The claims that wait on a die with the cycles and classes of those before them, oldest first. -/
def claimClasses : List (Nat × Nat) → List (Grid × Claim) → List (Nat × Nat)
  | l, [] => l
  | l, (g, c) :: r => claimClasses (l ++ [(c.cycle, cappedClass l c.cycle g.prio c.raised)]) r

/-- The work that waits on a die. -/
def Sys.works (y : Sys) (die : Nat) : List Work :=
  let on := y.claimsOn die
  let older := claimClasses [] on
  let turn := fun (src : WorkSource) (cls : Nat) => rotated ((y.die die).lastServed.toList.getD cls 0) (WorkSource.key src)
  let claims := (on.zip older).map (fun x =>
    ({ src := .claimed x.1.1.launch x.1.2.flat, cls := x.2.2, claimed := true,
       order := x.1.2.cycle, fits := !(y.context x.1.1.ctx).frozen && !(y.context x.1.1.ctx).held &&
         (y.placeCluster x.1.1 die x.1.2.flat x.1.2.count).isSome } : Work))
  let sources := (y.grids.filter (y.gridSource die)).map (fun g =>
    let w := Table.getD g.raised die (y.time.cycle, 0)
    let cls := cappedClass older w.1 g.prio w.2
    ({ src := .grid g.launch, cls, claimed := false,
       order := turn (.grid g.launch) cls, fits := (y.placeCluster g die 0 g.clusterSize).isSome } : Work))
  let bins := (y.binSources die).map (fun x =>
    let cls := cappedClass older (x.2.2.since.getD y.time.cycle)
      (bits (((x.2.2.hwq.map (·.words)).headD []).headD 0) 57 56) x.2.2.raised
    ({ src := .bin x.1.ctx x.2.1, cls, claimed := false, order := turn (.bin x.1.ctx x.2.1) cls,
       fits := x.2.2.hwq.head?.any BinRec.unchanged && (y.taskPlace die x.2.2).isSome } : Work))
  claims ++ sources ++ bins

/-- One piece of work is served before another (R429). -/
def Work.before (a b : Work) : Bool :=
  decide (b.cls < a.cls) || (a.cls == b.cls && ((a.claimed && !b.claimed) ||
    (a.claimed == b.claimed && decide (a.order < b.order))))

/-- The work that is served next on a die: the first of those that can use the room (log 24). -/
def Sys.turn (y : Sys) (die : Nat) : Option WorkSource :=
  if !y.diePlaces die then none
  else match (y.works die).filter (·.fits) with
    | [] => none
    | w :: r => some ((r.foldl (fun a b => if b.before a then b else a) w).src)

/-- A source has had its turn, in the class in which it waited. -/
def Sys.served (y : Sys) (die : Nat) (src : WorkSource) : Sys :=
  match (y.works die).find? (fun w => w.src == src) with
  | none => y
  | some w => y.setDie die { y.die die with lastServed := (y.die die).lastServed.setIfInBounds w.cls (WorkSource.key src) }

/-- Work that has waited 65,536 cycles since `since`, and once more for every class it is raised already. -/
def waitedLong (cycle since raised prio : Nat) : Bool :=
  decide (since + 65536 * (raised + 1) ≤ cycle) && decide (workClass prio raised < 3)

/-- WORK_CLASS_RAISE (R429). -/
def execWorkClassRaise (die : Nat) (src : WorkSource) (s : State) : Host.Outcome State Fault Refusal :=
  machineStep s (
    let now := s.sys.time.cycle
    match src with
    | .claimed launch flat =>
      match s.sys.grid? launch with
      | none => idle s
      | some g =>
        let due := fun c : Claim => c.die == die && c.flat == flat && waitedLong now c.since c.raised g.prio
        .of (s.sys.setGrid { g with claims := g.claims.map (fun c => if due c then { c with raised := c.raised + 1 } else c) })
    | .grid launch =>
      match s.sys.grid? launch with
      | none => idle s
      | some g =>
        let x := Table.getD g.raised die (now, 0)
        if s.sys.gridSource die g && waitedLong now x.1 x.2 g.prio then
          .of (s.sys.setGrid { g with raised := Table.set g.raised die (x.1, x.2 + 1) })
        else idle s
    | .bin ctx n =>
      match s.sys.bin? ctx die n with
      | none => idle s
      | some b =>
        let prio := bits (((b.hwq.map (·.words)).headD []).headD 0) 57 56
        if waitedLong now (b.since.getD now) b.raised prio then
          .of (s.sys.setBin ctx die n (fun x => { x with raised := x.raised + 1 }))
        else idle s)

/-! ### Dispatch (R172, R427) -/

/-- The command of an engine task's record; none where the record is not carried out (R172). -/
def taskInstr (r : List Word) : Option Instr :=
  let w7 := r.getD 7 0
  let flg := bits w7 10 8
  let ok := bits w7 63 11 = 0 && bits w7 7 6 = 0 && (r.getD 2 0).toNat % 8 = 0
  let plain := fun i : Instr => if flg = 0 then some i else none
  if !ok then none
  else match bits (r.headD 0) 2 0, bits w7 5 0 with
    | 1, 4 => plain (.cpb { d := 0, base := none, off := 0, w := none, tag := 0 })
    | 2, 0 => plain (.lmul 0 0 0 0 false)
    | 2, 1 => if flg ≤ 1 then some (.ladd 0 0 0 0 (flg == 1) false) else none
    | 2, 2 => plain (.nttf 0 0 0 0 false)
    | 2, 3 => plain (.ntti 0 0 0 0 false)
    | 3, 0 => plain (.accrun 0 0 0 0 false)
    | 4, 0 => if flg ≤ 3 then some (.halloc 0 0 none (flg % 2 == 1) (flg / 2 == 1) false) else none
    | 4, 1 => plain (.hfree 0 0 none false)
    | 4, 3 => plain (.pcommit 0 0 none false)
    | 4, 4 => if flg ≤ 1 then some (.pdecommit 0 0 none (flg == 1) false) else none
    | _, _ => none

/-- A KIND 3 record (R452), with the record's address where it came from memory (log 104). What the manual does not give is free: TVAL and
TLANES without a cause, and the address of a record that came from registers (log 6). -/
def taskRecordBytes (y : Sys) (cause status : Nat) (n : Who) (addr : Option Word) (t : Option TrapInfo) : List Byte :=
  let tval := (t.map (·.tval)).getD (y.freeAt 0)
  let lanes := (t.map (·.tlanes)).getD ((y.freeAt 1).setWidth 32)
  faultBytes 3 cause status n 0 tval lanes y.clk (addr.getD (y.freeAt 2))

/-- A failed engine task: its fault-log record and event (R172). -/
def taskFailure (s : State) (n : Who) (cause status : Nat) (addr : Option Word) (t : Option TrapInfo) : Upd :=
  logFault { s with sys := s.sys.useFree 3 } n.ctx (taskRecordBytes s.sys cause status n addr t)

/-- A task's block placed, with its warp or its engine command; a record that is not carried out completes at once. -/
def startTask (t : Bins) (n : Nat) (b : Bin) (r : BinRec) (core : Nat) (at_ : Storage) (s : State) : Upd :=
  let y := s.sys
  let k := taskBlock t n r y.nextId core
  if bits (r.words.headD 0) 2 0 = 0 then
    let spec : WarpSpec := { budget := b.need.budgets.headD 8, entry := BitVec.ofNat 64 (bits (r.words.headD 0) 55 3 * 8),
                             access := none }
    let y1 := y.addBlock k b.need at_ [spec] r.words 0
    Upd.andThen s (.of y1) (fun t1 => match t1.sys.block? k.id with
      | some k1 => clearBlock k1 t1
      | none => .of t1.sys)
  else match taskInstr r.words with
    | none =>
      taskFailure s { ctx := t.ctx, tskid := k.tskid, flat := 0, index := 0, slot := 0, part := 0, core } 0xFF 0xFF r.addr none
    | some i =>
      let k1 := { k with engineWarp := some (at_.spills.headD 0, b.need.spill, b.need.budgets.headD 8) }
      let y1 := y.addBlock k1 b.need at_ [] [] 0
      let p := procOp y1 i t.ctx core k.id (r.words.getD 6 0) ((r.words.drop 3).take 3)
      let y2 := { y1 with ops := y1.ops ++ [p], nextId := y1.nextId + 1 }
      Upd.andThen s (.of y2) (fun t1 => match t1.sys.block? k.id with
        | some k2 => clearBlock k2 t1
        | none => .of t1.sys)

/-- The head of a bin goes out. -/
def Bin.popped (b : Bin) (runs : Bool) : Bin :=
  { b with hwq := b.hwq.tail, running := b.running + (if runs then 1 else 0), expired := false, since := none, raised := 0 }

/-- BIN_DISPATCH (R427). -/
def execBinDispatch (ctx die bin : Nat) (s : State) : Host.Outcome State Fault Refusal :=
  machineStep s (
    match s.sys.bins? ctx die, s.sys.bin? ctx die bin with
    | some t, some b =>
      match b.hwq, s.sys.taskPlace die b with
      | r :: _, some (core, at_) =>
        if s.sys.turn die != some (.bin ctx bin) || !r.unchanged then idle s
        else
          let carried := bits (r.words.headD 0) 2 0 = 0 || (taskInstr r.words).isSome
          let y := ((s.sys.served die (.bin ctx bin)).setBin ctx die bin (fun x => x.popped carried)).mark ctx
          startTask t bin b r core at_ { s with sys := y }
      | _, _ => idle s
    | _, _ => idle s)

/-! ### Installation (R174) -/

/-- A bin from the words of its entry. -/
def newBin (cfg : Vector Word 4) : Bin where
  cfg := cfg
  hwq := []
  ring := []
  held := []
  heldParked := none
  refillParked := none
  head := 0
  tail := 0
  running := 0
  accepted := 0
  reserved := 0
  expired := false
  since := none
  raised := 0

/-- Nothing is in a bin and no task of it runs. -/
def Bin.vacant (b : Bin) : Bool :=
  b.hwq.isEmpty && b.ring.isEmpty && b.held.isEmpty && b.running == 0 && b.reserved == 0

/-- Every bin of a context on a die is empty. -/
def Sys.binsVacant (y : Sys) (ctx die : Nat) : Bool :=
  ((y.bins? ctx die).map (fun t => t.bins.toList.all Bin.vacant)).getD true &&
    !y.posts.any (fun q => q.ctx == ctx && q.die == die)

/-- The table of a launch on a die. -/
def Grid.bins (g : Grid) (die : Nat) : Bins where
  ctx := g.ctx
  die := die
  launch := g.launch
  handler := g.lpb[17]
  bins := Vector.ofFn (fun i : Fin 64 =>
    newBin (Vector.ofFn (fun j : Fin 4 => g.binTable.getD (4 * i.val + j.val) 0)))

/-- BIN_TABLE_INSTALL (R174). -/
def execBinTableInstall (grid die : Nat) (s : State) : Host.Outcome State Fault Refusal :=
  machineStep s (
    match s.sys.grid? grid with
    | none => idle s
    | some g =>
      if g.state != .running || !g.installs.contains die || !s.sys.binsVacant g.ctx die || s.sys.ctl.held then idle s
      else
        let y := s.sys.setGrid { g with installs := g.installs.filter (fun d => d != die) }
        let others := y.bins.filter (fun t => !(t.ctx == g.ctx && t.die == die))
        .of { y with bins := others ++ [g.bins die] })

end Sys2Proof.Machine
end

