-- ==== Sys2Proof/Machine/Complete.lean ====
section
/-! DEFINITION. How engine commands complete, and the end of engine tasks (R126, R172, R173, R179, R391 to R393). -/

namespace Sys2Proof.Machine

/-! ### ACCSTAT, QINFO and PQRY (R330, R391, R409) -/

/-- QUEUE of ACCSTAT (R391): the commands of the core's engine that have not completed. -/
def Sys.accordDepth (y : Sys) (core : Nat) : Nat := Nat.min 255 (y.accordQueue core).length

/-- ACCSTAT is answered. -/
def serveAccstat (p : Op) (d : SReg) (s : State) : Upd :=
  match p.warp.bind s.sys.warp? with
  | none => finishOp s p
  | some w =>
    let v := w.accord ||| BitVec.ofNat 64 (s.sys.accordDepth p.core * 2 ^ 24)
    finishOp s { p with results := [(codeS d.toNat, v), (codeS (d.toNat + 1), w.accordTag)] }

/-! ### Commands of warps -/

/-- The results of a command whose S[D] is its status and whose S[D+1] is its witness. -/
def Op.statusResults (p : Op) : List (Nat × Word) :=
  let give := fun d : SReg => [(codeS d.toNat, BitVec.ofNat 64 p.status), (codeS (d.toNat + 1), p.out)]
  match p.instr with
  | .lmul d _ _ _ _ | .ladd d _ _ _ _ _ | .nttf d _ _ _ _ | .ntti d _ _ _ _ | .accrun d _ _ _ _ => give d
  | _ => []

/-- The command of a warp that has exited: an ACCRUN's error goes to the fault log under its own kind (R393, R452). -/
def lostCommand (p : Op) (s : State) : Upd :=
  match p.err with
  | some t =>
    if p.isAccrun then
      let n := p.who s.sys
      Upd.andThen s (.of ((s.sys.dropOp p.id).mark p.ctx)) (fun s1 =>
        logFault s1 p.ctx (faultBytes 4 t.cause.num p.status n p.pc t.tval t.tlanes s1.sys.clk 0))
    else finishOp s p
  | none => finishOp s p

/-! ### Engine tasks (R172) -/

/-- What the command of a task writes to its D register: none where it does not start, and none for a copy that fails. -/
def Op.taskValue (p : Op) : Option Word :=
  let bad := match p.err with
    | some (t : TrapInfo) => decide (t.cause = Cause.witness)
    | none => false
  match p.instr with
  | .cpb _ => if p.err.isSome then none else some p.out
  | i =>
    if bad then none
    else match heapForm i with
      | some f => some (((p.results.find? (fun (r : Nat × Word) => r.1 == codeS f.2)).map (fun r => r.2)).getD 0)
      | none => some (BitVec.ofNat 64 p.status)

/-- A task command succeeds: status OK, or ALREADY of the heap class, and no error. -/
def Op.taskOk (p : Op) : Bool :=
  p.err.isNone && (p.status == 0 || ((heapForm p.instr).isSome && p.status == heapAlready))

/-- The engine that carries out a command, as the origin of its task's word-2 write. -/
def Op.engineOrigin (p : Op) : Origin :=
  match p.instr with
  | .cpb _ | .cpl _ => .copy (clusterOf p.core)
  | .accrun _ _ _ _ _ => .accord p.core
  | .halloc _ _ _ _ _ _ | .hfree _ _ _ _ => .flacon (dieOf p.core)
  | .pcommit _ _ _ _ | .pdecommit _ _ _ _ _ => .host
  | _ => .long (clusterOf p.core)

/-- The cause and status that a failed task's record holds (R172, R452). A status that the manual does not give, after a
bad witness, is a free value. -/
def Op.taskCodes (p : Op) (y : Sys) : Nat × Nat :=
  match p.instr, p.err with
  | .cpb _, some t => (t.cause.num, t.reason.code)
  | _, some t => (0xFF, if t.cause == .witness then (y.freeAt 3).toNat % 256 else p.status)
  | _, none => (0xFF, p.status)

/-- The task has succeeded: it signals SUCC with the merge of a device-scope witness and its own (R179). -/
def taskSignal (p : Op) (rec_ : List Word) (wit : Word) (s : State) : Upd :=
  let y := (s.sys.dropOp p.id).mark p.ctx
  let succ := rec_.getD 1 0
  match y.block? p.block with
  | none => .of y
  | some k =>
    if succ = 0 then .of y
    else
      let w := merge (Origin.wit (.proc (dieOf k.core)) 2 y.time.now) wit
      let q := procOp y (.dsig 0 none true false false) k.ctx k.core k.id w [succ, k.tskid]
      .of { y with ops := y.ops ++ [q], nextId := y.nextId + 1 }

/-- A task fails (R172). -/
def taskFails (p : Op) (cause status : Nat) (t : Option TrapInfo) (s : State) : Upd :=
  let n := p.who s.sys
  let addr := (s.sys.block? p.block).bind (·.recAt)
  Upd.andThen s (.of ((s.sys.dropOp p.id).mark p.ctx)) (fun s1 =>
    taskFailure { s1 with sys := s1.sys.useFree 1 } n cause status addr t)

/-- The requester of an engine's command (R41). -/
def Op.engineRequester (p : Op) : Requester :=
  match p.instr with
  | .cpb _ | .cpl _ => p.requester 1 (clusterOf p.core)
  | .accrun _ _ _ _ _ => p.requester 3 p.core
  | .halloc _ _ _ _ _ _ | .hfree _ _ _ _ => p.requester 4 (dieOf p.core)
  | .pcommit _ _ _ _ | .pdecommit _ _ _ _ _ => p.requester 5 (dieOf p.core)
  | _ => p.requester 2 (clusterOf p.core)

/-- The command of an engine task completes: its value is written to the word-2 address, and it signals or fails. A command
that ended before it had its set translates the word-2 page first (R172). -/
def completeTask (p : Op) (rec_ : List Word) (s : State) : Upd :=
  let finish := fun (wit : Word) (t : State) =>
    if p.taskOk then taskSignal p rec_ wit t
    else
      let c := p.taskCodes t.sys
      taskFails p c.1 c.2 p.err t
  match s.sys.wordTwo p, p.taskValue with
  | some a, some v =>
    let runs := s.sys.opRuns p false a 8
    if runs.any (fun r => r.key.isNone) then
      match engineSet s p p.engineRequester p.engineOrigin (dieOf p.core) [] with
      | .hold u => u
      | .stop u _ =>
        if p.err.any (fun t => t.reason == .firewall) then finish p.out s else Upd.andThen s u (finish p.out)
      | .go y => .of y
    else match s.sys.pass p p.engineOrigin [] runs with
    | .error y => .of y
    | .ok y =>
      let s1 : State := { s with sys := y }
      match y.writeFails p runs with
      | some f =>
        taskFails p Cause.impreciseStore.num f.1.code
          (some { trapOf .impreciseStore (BitVec.ofNat 64 a) with reason := f.1 }) s1
      | none =>
        let o := p.engineOrigin
        let wit := merge p.out (y.runsWit o p.id runs)
        Upd.andThen s (runsWrite o p.id p.ctx runs (leBytes 8 v.toNat) s1) (finish wit)
  | _, _ => finish p.out s

/-! ### Completion -/

/-- What a page command of the host returns (R47): its status, and its witness. -/
def Sys.answerPage (y : Sys) (p : Op) : Sys :=
  match p.instr with
  | .pcommit d _ _ _ =>
    let wit := ((p.results.find? (fun r => r.1 == codeS (d.toNat + 1))).map (·.2)).getD 0
    { y with ctl := { y.ctl with pageAnswer := some (p.status, wit) } }
  | _ => y

/-- ENGINE_COMMAND_COMPLETE (R126): a command whose writes are all visible completes; ACCSTAT, QINFO and PQRY are answered. -/
def execEngineCommandComplete (op : Nat) (s : State) : Host.Outcome State Fault Refusal :=
  machineStep s (
    match s.sys.op? op with
    | none => idle s
    | some p =>
      let free := !(s.sys.context p.ctx).frozen && !s.sys.ctl.held
      match p.instr with
      | .accstat d _ => if s.sys.mayServe p (.accord p.core) then serveAccstat p d s else idle s
      | .qinfo d _ _ =>
        if free then
          finishOp s { p with results := [(codeS d.toNat, s.sys.qinfo p.ctx (dieOf p.core) (p.args.headD 0))] }
        else idle s
      | i =>
        let pqry := match i with
          | .pqry _ _ _ => true
          | _ => false
        if pqry && p.waiting then (if free then servePqry p s else idle s)
        else if p.stage != .done || !s.sys.drained op || s.sys.frozenBy p.engineOrigin || s.sys.ctl.held then idle s
        else match s.sys.taskRecord p with
          | some rec_ => completeTask p rec_ s
          | none =>
            let q := { p with results := p.statusResults ++ p.results }
            let copy := match i with
              | .cpl _ | .cpb _ | .xred _ _ _ _ => true
              | _ => false
            if copy then idle s
            else match p.warp with
              | none => .of (((s.sys.dropOp op).mark p.ctx).answerPage q)
              | some w => if (s.sys.warp? w).isSome then finishOp s q else lostCommand q s)

/-- ENGINE_COMMAND_REPLAY (R39): a command that its ticket has resumed starts again. -/
def execEngineCommandReplay (op : Nat) (s : State) : Host.Outcome State Fault Refusal :=
  machineStep s (.of (s.sys.modOp op (fun p =>
    if p.stage = .resumed then { p with stage := .queued, pos := 0 } else p)))

end Sys2Proof.Machine
end

