-- ==== Sys2Proof/Machine/Walks.lean ====
section
/-! DEFINITION. Page-table walks, finished translation sets, the host fault ring, invalidations, and the causes delivered at
clause boundaries (R30 to R33, R36, R42, R43, R441 to R443, R451). -/

namespace Sys2Proof.Machine

/-! ### Walks and sets -/

/-- The walk's end goes to every set that waits for it, and the entry of the miss table retires. -/
def Sys.walked (y : Sys) (m : Miss) (r : Walk) : Sys :=
  { y with misses := y.misses.filter (fun x => x != m),
           found := y.found ++ m.askers.map (fun a => { asker := a, die := m.die, ctx := m.ctx, vpage := m.vpage, walk := r }) }

/-- TABLE_WALK (R30, R31): the walk ends the miss; a present leaf also goes to the die TLB, and nothing else is cached (R29,
R33). -/
def execTableWalk (die ctx vpage : Nat) (s : State) : Host.Outcome State Fault Refusal :=
  machineStep s (
    let va := vpage * 65536
    match s.sys.misses.find? (fun m => m.die == die && m.ctx == ctx && m.vpage == vpage) with
    | none => idle s
    | some m =>
      if !walkQuiet s ctx va then .of (walkHold s .walk ctx va)
      else
        let r := walk s ctx va
        let y := walkFills s ctx va (s.sys.walked m r)
        match r with
        | .leaf l e =>
          .of (y.fillTlb { place := .die die, ctx := y.ctxTag ctx, base := va / 2 ^ levelBits l, level := l, pte := e })
        | _ => .of y)

/-- The set of a waiting sub-warp is complete; or a page of it stands in no entry of the miss table under its name, which was
full and has room again (R30). -/
def Sys.setReady (y : Sys) (a : Asker) (k : Block) (pages : List Nat) : Bool :=
  let die := dieOf k.core
  let lacking := pages.filter (fun p => (y.known a (some k.core) die k.ctx p).isNone)
  let room := y.missRoom die
  lacking.isEmpty || (room.1 && lacking.any (fun p =>
    !y.misses.any (fun m => m.die == die && m.ctx == k.ctx && m.vpage == p && m.askers.contains a) &&
      (room.2 || y.misses.any (fun m => m.die == die && m.ctx == k.ctx && m.vpage == p))))

/-- TRANSLATION_SET_COMPLETE (R36): no page is wanting any more; the word whose set it is issues again, and traps, parks or
proceeds, or is in the wait again that the miss of its code page had hidden (R307). -/
def execTranslationSetComplete (w sub : Nat) (s : State) : Host.Outcome State Fault Refusal :=
  machineStep s (
    match s.sys.warp? w with
    | none => idle s
    | some x =>
      match x.sub? (some sub), s.sys.block? x.block with
      | some b, some k =>
        match b.wait with
        | .translating pages =>
          if s.sys.setReady (.sub w (some sub)) k pages then
            .of (s.sys.setWarp (x.setSub (some sub)
              { b with wait := if b.under = .none then .translating [] else b.under, under := .none }))
          else idle s
        | _ => idle s
      | _, _ => idle s)

/-! ### The host fault ring (R43) -/

def Context.hostRing (c : Context) : Nat := (c.desc[3]).toNat
def Context.ringSize (c : Context) : Nat := (c.desc[6]).toNat

/-- What a reading of HEAD counts as: 0 as long as memory holds what stood there when the ring was started anew (log 28). -/
def Context.headRead (c : Context) (r : BitVec 32) : BitVec 32 := if r = c.ringStale then 0 else r

/-- The context after a reading of HEAD. -/
def Context.hasRead (c : Context) (r : BitVec 32) : Context := if r = c.ringStale then c else { c with ringStale := 0 }

/-- A reading of TAIL − HEAD above the ring's size stops the ring. -/
def ringError (s : State) (ctx : Nat) : Upd :=
  Upd.andThen s (.of (s.sys.setContext ctx { s.sys.context ctx with ringState := .error }))
    (fun t => raiseEvent t 4 ctx 0xFFFFFFFFFFFFFFFF 0)

/-- HOST_RING_WRITE (R43): the oldest held record of a context. A ring that no region opens to the context freezes it (R54, R55). -/
def execHostRingWrite (ctx : Nat) (s : State) : Host.Outcome State Fault Refusal :=
  machineStep s (
    let c0 := s.sys.context ctx
    let at_ := mainKey 2 c0.hostRing
    match s.sys.heldFaults.find? (fun f => f.ctx == ctx) with
    | none => idle s
    | some f =>
      if c0.hostRing = 0 || c0.ringState != .ok || c0.frozen || s.sys.ctl.held then idle s
      else
        let slot := at_ + 64 * (1 + c0.ringTail.toNat % Nat.max c0.ringSize 1)
        match s.sys.ctlFate ctx [(at_ + 8, 4, false), (at_, 4, true), (slot, 64, true)] with
        | .wait y => .of y
        | .broken _ => idle s
        | .frozen hit => freezeContext s (.proc f.die) ctx hit
        | .go _ =>
          let r := BitVec.ofNat 32 (s.mem.value (at_ + 8) 4)
          let c := c0.hasRead r
          let used := (c.ringTail - c0.headRead r).toNat
          if c.ringSize < used then ringError s ctx
          else if used = c.ringSize then .of (s.sys.setContext ctx { c with ringState := .full })
          else
            let y := s.sys.setContext ctx { c with ringTail := c.ringTail + 1 }
            let y1 := { y with heldFaults := y.heldFaults.erase f }
            recallFirst s (Upd.andThen s (hostPut slot (wordBytes f.record) { s with sys := y1 }) (fun t =>
              Upd.andThen t (hostPut at_ (leBytes 4 (c.ringTail + 1).toNat) t) (fun t1 =>
                raiseEvent t1 4 ctx (c.ringTail.zeroExtend 64) 0))))

/-- HOST_RING_HEAD_POLL (R43): HEAD in host memory holds `head`, and the control die reads it anew. A read that no region opens to the context
freezes it (R54, R55), and a read whose path is down is none (R163). -/
def execHostRingHeadPoll (ctx : Nat) (head : BitVec 32) (s : State) : Host.Outcome State Fault Refusal :=
  machineStep s (
    let c0 := s.sys.context ctx
    if c0.hostRing = 0 then idle s
    else if !s.sys.opens ctx (mainKey 2 c0.hostRing + 8) 4 false then
      freezeContext s .host ctx (mainKey 2 c0.hostRing + 8, false)
    else if s.sys.links.cxlDown then idle s
    else
      let c := c0.hasRead head
      let used := (c.ringTail - c0.headRead head).toNat
      let u : Upd := { sys := s.sys.setContext ctx c, stores := [.bytes (mainKey 2 c.hostRing + 8) (leBytes 4 head.toNat)] }
      if c.ringState != .full then u
      else Upd.andThen s u (fun t =>
        if c.ringSize < used then ringError t ctx
        else if used < c.ringSize then .of (t.sys.setContext ctx { c with ringState := .ok })
        else .of t.sys))

/-! ### Invalidations by system software (R32) -/

/-- The pages of a range are dropped one by one. -/
def Sys.dropPages (y : Sys) (ctx first n : Nat) : Sys :=
  (List.range n).foldl (fun z i => z.dropPage ctx (first + i)) y

/-- Every translation of a context, or of all, is dropped; refused ring writes are tried again (R428). -/
def Sys.dropContexts (y0 : Sys) (ctx : Option Nat) : Sys :=
  let y := y0.dropSets ctx (fun _ => true) (fun _ => true)
  let hit := fun c => ctx.isNone || ctx == some c
  let kept := fun (o : Option Nat) => o.filter (fun p => decide (p < 2 ^ 40))
  let again := fun b : Bin => { b with heldParked := kept b.heldParked, refillParked := kept b.refillParked }
  { y with tlb := y.tlb.filter (fun t => !(ctx.isNone || ctx.map y.ctxTag == some t.ctx))
           found := y.found.filter (fun f => !hit f.ctx)
           bins := y.bins.map (fun b => if hit b.ctx then { b with bins := b.bins.map again } else b) }

/-- The pages of a cached leaf: the first, and their number. -/
def TlbEntry.pages (t : TlbEntry) : Nat × Nat := (t.base * 2 ^ levelBits t.level / 65536, 2 ^ levelBits t.level / 65536)

/-- The pages of the cached leaves that cover one of some pages of a context. -/
def Sys.droppedPages (y : Sys) (ctx first n : Nat) : List (Nat × Nat) :=
  let tag := y.ctxTag ctx
  (((y.tlb.filter (fun t => t.ctx == tag)).map TlbEntry.pages).filter (fun r =>
    decide (r.1 < first + n) && decide (first < r.1 + r.2))).eraseDups

/-- An invalidation whose entries are dropped is under way; it may be complete at once (R32). `also`: the pages of the entries dropped. -/
def Sys.invalidating (y : Sys) (ctx : Option Nat) (first : Nat) (count : Option Nat) (also : List (Nat × Nat)) : Sys :=
  ({ y with invals := y.invals ++ [{ ctx, first, count, also, upto := y.nextId }] } : Sys).settleInvals

/-- INVALIDATE_PAGE (R32). -/
def execInvalidatePage (ctx va : Nat) (s : State) : Host.Outcome State Fault Refusal :=
  inputStep s (.of ((s.sys.dropPage ctx (va / 65536)).invalidating (some ctx) (va / 65536) (some 1)
    (s.sys.droppedPages ctx (va / 65536) 1)))

/-- INVALIDATE_RANGE (R32). -/
def execInvalidateRange (ctx va pages : Nat) (s : State) : Host.Outcome State Fault Refusal :=
  inputStep s (.of ((s.sys.dropPages ctx (va / 65536) pages).invalidating (some ctx) (va / 65536) (some pages)
    (s.sys.droppedPages ctx (va / 65536) pages)))

/-- INVALIDATE_CONTEXT (R32). -/
def execInvalidateContext (ctx : Nat) (s : State) : Host.Outcome State Fault Refusal :=
  inputStep s (.of ((s.sys.dropContexts (some ctx)).invalidating (some ctx) 0 none []))

/-- INVALIDATE_ALL (R32). -/
def execInvalidateAll (s : State) : Host.Outcome State Fault Refusal :=
  inputStep s (.of ((s.sys.dropContexts none).invalidating none 0 none []))

/-! ### At a clause boundary (R441 to R443, R451) -/

/-- The sub-warp stands at a clause boundary, and no wait of an instruction or a park holds it there. -/
def Sub.atBoundary (b : Sub) : Bool := b.place == .boundary && b.wait.retries && !b.stopped

/-- No handler may run: the context is frozen, its die halted, or the package held (R55, R453). -/
def Sys.noHandler (y : Sys) (k : Block) : Bool :=
  (y.context k.ctx).frozen || (y.die (dieOf k.core)).halted || y.ctl.held

/-- BLOCK_HALT (R441, R451): a fatal block-halt ends the warp; another makes it take BLOCK_HALT. -/
def execBlockHalt (w sub : Nat) (s : State) : Host.Outcome State Fault Refusal :=
  machineStep s (
    match s.sys.warp? w with
    | none => idle s
    | some x =>
      match x.sub? (some sub), s.sys.block? x.block, x.halt with
      | some b, some k, some h =>
        if !b.atBoundary || !k.started || s.sys.noHandler k then idle s
        else if h.fatal then endHalted s x
        else if x.handler.isSome then idle s
        else enterHandler s x b h.info b.pc b.header [] false
      | _, _, _ => idle s)

/-- Where an imprecise cause goes in a warp: the issuing sub-warp, else the one that has taken its lanes. -/
def Imprecise.target (m : Imprecise) (w : Warp) : Option Sub :=
  match w.sub? (some m.sub) with
  | some b => some b
  | none => w.subs.find? (fun b => (m.lanes &&& b.lset) != 0)

/-- The cause is no longer on its way. -/
def Sys.dropImprecise (y : Sys) (no : Nat) : Sys := { y with imprecise := y.imprecise.filter (fun m => m.no != no) }

/-- IMPRECISE_DELIVERY (R443): at the sub-warp's next clause boundary; pending in handler mode (R449); an orphan record
when the warp has exited. It sends no block-halt, and a block-halt already received comes first. -/
def execImpreciseDelivery (n : Nat) (s : State) : Host.Outcome State Fault Refusal :=
  machineStep s (
    match s.sys.imprecise.find? (fun m => m.no == n) with
    | none => idle s
    | some m =>
      let y := s.sys.dropImprecise n
      let s1 : State := { s with sys := y }
      match y.warp? m.warp with
      | none =>
        if y.saved.any (fun b => b.warps.any (fun x => x.warp.id == m.warp)) then idle s
        else logLost s1 m.who m.info.opc m.info
      | some w =>
        match m.target w, y.block? w.block with
        | some b, some k =>
          if !b.atBoundary || s.sys.noHandler k then idle s
          else match w.handler with
            | some d => if d.has b.id then pendCause s1 w d m.info.opc m.info else idle s
            | none =>
              if w.halt.isSome then idle s
              else Upd.andThen s1 (if m.halts then sendHalt s1 w m.info.cause else .of y)
                (fun t => enterHandler t w b m.info b.pc b.header [] m.halts)
        | _, _ => idle s)

end Sys2Proof.Machine
end

