-- ==== Sys2Proof/Machine/Control.lean ====
section
/-! DEFINITION. The registers of the control die that system software and firmware write, the fault log and the Sillage table
cleared, and the debug unit (R40, R65 to R67, R146 to R151, R162, R404, R412, R417, R433, R435, R452, R453, R456, R462, R466, R470). A
write of one of these registers comes from the physical function; an access of another function is REGISTER_WRITE's (log 105). -/

namespace Sys2Proof.Machine

/-- A mask of the bits hi:lo. -/
def maskBits (hi lo : Nat) : Word := BitVec.ofNat 64 (2 ^ (hi + 1) - 2 ^ lo)

/-- Bits hi:lo of a word are zero. -/
def zeroBits (v : Word) (hi lo : Nat) : Bool := bits v hi lo == 0

/-- The fields of `m` from a write, the others as they were. -/
def mixed (old v m : Word) : Word := (old &&& ~~~m) ||| (v &&& m)

def Sys.setControl (y : Sys) (f : Control → Control) : Sys := { y with ctl := f y.ctl }

/-- The control die answers system software with a status (R65). -/
def Sys.answered (y : Sys) (r : CtlStatus) : Sys := y.setControl (fun c => { c with status := r })

/-- A write of a control-die register: a value that the register accepts has its effect, with status OK; another has none, with status
INVALID. In recovery there is no register window (R470), and a package that is held in reset takes nothing (R472): nothing answers. -/
def ctlWrite (ok : Bool) (f : State → Upd) (s : State) : Upd :=
  if s.sys.ctl.recovery || s.sys.ctl.held then idle s
  else if ok then f { s with sys := s.sys.answered .ok }
  else .of (s.sys.answered .invalid)

/-! ### Launch queues (R417, R418) -/

/-- A value that QCFG accepts. -/
def qcfgOk (v : Word) : Bool :=
  zeroBits v 62 60 && zeroBits v 53 48 && decide (qcfgBase v < kind00End) && decide (bits v 59 56 ≤ 12) &&
    !(qcfgEn v && bits v 59 56 == 0)

/-- QCFG_WRITE (R417): a queue that comes into use, or moves, takes its TAIL and HEAD from its control line (log 26). Where the line cannot
be read the queue does not come into use (log 128). -/
def execQcfgWrite (q : Nat) (v : Word) (s : State) : Host.Outcome State Fault Refusal :=
  machineStep s (ctlWrite (decide (q < 4096) && qcfgOk v) (fun t =>
    let x := t.sys.ctl.queue q
    let line := mainKey 0 (qcfgBase v)
    let fresh := qcfgEn v && (!qcfgEn x.cfg || qcfgBase x.cfg != qcfgBase v)
    let unread := t.sys.setQueue q { x with cfg := v &&& ~~~(1#64 <<< 63) }
    if !fresh then .of (t.sys.setQueue q { x with cfg := v })
    else match t.sys.ctlFate (qcfgCtx v) [(line, 12, false)] with
      | .frozen hit => freezeContext { t with sys := unread } .host (qcfgCtx v) hit
      | .broken _ => .of unread
      | .wait y => .of { y with ctl := s.sys.ctl }
      | .go y => .of (y.setQueue q
          { cfg := v, head := BitVec.ofNat 32 (t.mem.value (line + 8) 4), tail := BitVec.ofNat 32 (t.mem.value line 4) })) s)

/-! ### Dies: DSRCFG, the region table, REMAPCFG (R65 to R67, R146, R151) -/

/-- The lines of a die that its cache holds, the oldest first. -/
def Sys.cachedLines (y : Sys) (die : Nat) : List Nat :=
  ((y.cached.filter (fun c => paDie c.1 == die)).map (fun c => c.1 / 256 * 256)).eraseDups

/-- A line leaves the cache, its dirty sectors going to the stack (R70). -/
def Sys.writeBack (y : Sys) (line : Nat) : Sys :=
  let hit := y.cached.filter (fun c => c.1 / 256 == line / 256 && c.2)
  let z := hit.foldl (fun z c => z.stackRead { sector := c.1, ctx := 0, vpage := 0 }) y
  { z with cached := z.cached.filter (fun c => c.1 / 256 != line / 256) }

/-- How many 16-way sets a die's cache has for a value of DSRCFG: 4,096 lines of 256 bytes for each MiB (R64, R70). -/
def cacheSets (v : Word) : Nat := (128 - 16 * bits v 3 0) * 4096 / 16

/-- The lines that find more than 15 later ones in their set, and so no way of it. DESIGN CHOICE (log 108): a line's set is its number modulo
the number of sets. -/
def crowded (sets : Nat) : List Nat → List Nat
  | [] => []
  | l :: r =>
    let rest := crowded sets r
    if 16 ≤ (r.filter (fun m => m / 256 % sets == l / 256 % sets)).length then l :: rest else rest

/-- The lines that a die's cache has no room for under a value of DSRCFG (R70). -/
def Sys.overflow (y : Sys) (die : Nat) (v : Word) : List Nat := crowded (cacheSets v) (y.cachedLines die)

/-- A value that DSRCFG accepts. -/
def dsrcfgOk (v : Word) : Bool :=
  zeroBits v 63 32 && zeroBits v 30 28 && zeroBits v 15 4 && decide (bits v 3 0 ≤ 6)

def dsrOwner (v : Word) : Nat := bits v 27 16

/-- The bit BUSY. -/
def dsrBusy : Word := 0x80000000

/-- Blocks of the old or the new owner are resident on the die. -/
def Sys.ownersOn (y : Sys) (die : Nat) (old new_ : Word) : Bool :=
  y.blocks.any (fun k => dieOf k.core == die && (k.ctx == dsrOwner old || k.ctx == dsrOwner new_))

/-- The die scratchpad is zeroed: its bytes and its poison. -/
def clearDieScratch (die : Nat) (s : State) : Upd :=
  let lo := dieKey die 0
  { sys := { s.sys with poison := s.sys.poison.filter (fun p => !overlaps p 4 lo (2 ^ 27)) },
    stores := [.clear lo (2 ^ 27)] }

/-- The fields DSP and OWNER of a value of DSRCFG. -/
def dsrFields (v : Word) : Word := v &&& (maskBits 27 16 ||| maskBits 3 0)

/-- The next stage of a change of DSRCFG to `w` (R67): with no owner's block on the die BUSY is set and the capacity given up is
written back; then the scratchpad is zeroed and the change is complete. -/
def dsrcfgGoOn (die : Nat) (w : Word) (s : State) : Upd :=
  let d := s.sys.die die
  let now := dsrFields d.dsrcfg
  if d.dsrcfg &&& dsrBusy = 0 then
    if s.sys.ownersOn die now w then idle s
    else
      let y := (s.sys.overflow die w).foldl Sys.writeBack s.sys
      .of (y.setDie die { y.die die with dsrcfg := now ||| dsrBusy })
  else
    Upd.andThen s (clearDieScratch die s) (fun u =>
      .of (u.sys.setDie die { u.sys.die die with dsrcfg := w, dsrNew := none }))

/-- DSRCFG_WRITE (R65, R67): a change is taken up, holding new work, and carried on in its stages. -/
def execDsrcfgWrite (die : Nat) (v : Word) (s : State) : Host.Outcome State Fault Refusal :=
  machineStep s (
    let d := s.sys.die die
    let ok := decide (die < 6) && dsrcfgOk v
    match d.dsrNew with
    | none => ctlWrite ok (fun t =>
        if dsrFields v = dsrFields d.dsrcfg then idle t else .of (t.sys.setDie die { d with dsrNew := some (dsrFields v) })) s
    | some w =>
      if !ok then ctlWrite false (fun t => idle t) s
      else if w = dsrFields v then dsrcfgGoOn die w s
      else idle s)

/-- The cells of a region of a die: the keys of its 64 MiB (R24, R146). -/
def regionKey (die i : Nat) : Nat := mainKey 0 (die * 2 ^ 37 + i * 2 ^ 26)

/-- The line of a byte after its region's hash version has changed: its slot stays (R146). -/
def rehashed (f old new_ key : Nat) : Nat :=
  let l := key / 256 % 256
  key / 65536 * 65536 + 256 * (l ^^^ (Config.frameHash old f).toNat ^^^ (Config.frameHash new_ f).toNat) + key % 256

/-- REGION_TABLE_WRITE (R146): NOREMAP and HVER. No data moves when HVER changes, so that the bytes of the region are read
back at permuted positions. -/
def execRegionTableWrite (die i : Nat) (v : Word) (s : State) : Host.Outcome State Fault Refusal :=
  let ok := decide (die < 6) && decide (i < 2048) && zeroBits v 63 32 && zeroBits v 15 8 && zeroBits v 5 5 && zeroBits v 3 2
  machineStep s (ctlWrite ok (fun t =>
    let d := t.sys.die die
    let g := d.region i
    let hver := bits v 1 0
    let d1 := { d with regions := Table.set d.regions i { g with noremap := v.getLsbD 4, hver } }
    let lo := regionKey die i
    let toward := fun key : Nat => rehashed (paFrame (keyPA key)) g.hver hver key
    let inside := fun key : Nat => decide (lo ≤ key) && decide (key < lo + 2 ^ 26)
    let y := t.sys.setDie die d1
    if hver = g.hver then .of y
    else
      { sys := { y with poison := y.poison.map (fun p => if inside p then toward p else p) },
        stores := .clear lo (2 ^ 26) :: (t.mem.filter (fun c => inside c.1)).map (fun c => .bytes (toward c.1) [c.2]) }) s)

/-- SHAPE_RECORD_WRITE (R147, R148): `Sys.placed` gives the lines of every frame mapped through the record their new slots. -/
def execShapeRecordWrite (i : Nat) (v : Word) (s : State) : Host.Outcome State Fault Refusal :=
  machineStep s (ctlWrite (decide (i < 64) && zeroBits v 63 16 && zeroBits v 11 6 && bits v 14 12 != 7) (fun t =>
    .of (t.sys.setControl (fun c => { c with shapes := c.shapes.setIfInBounds i v }))) s)

/-- REMAPCFG_WRITE (R151): firmware writes EN and THRESH, system software RESV. -/
def execRemapcfgWrite (die : Nat) (v : Word) (firmware : Bool) (s : State) : Host.Outcome State Fault Refusal :=
  machineStep s (ctlWrite (decide (die < 6) && zeroBits v 5 0 && decide (bits v 47 6 * 64 < kind00End)) (fun t =>
    let d := t.sys.die die
    .of (t.sys.setDie die { d with remapcfg := mixed d.remapcfg v (if firmware then maskBits 63 48 else maskBits 47 6) })) s)

/-- REMAPLOG_WRITE (R151): a write that sets a reserved bit has no effect. DESIGN CHOICE (log 123): the internal tail stays as it was. -/
def execRemaplogWrite (v : Word) (s : State) : Host.Outcome State Fault Refusal :=
  machineStep s (ctlWrite (zeroBits v 62 52 && zeroBits v 5 0) (fun t =>
    .of (t.sys.setControl (fun c => { c with remaplog := v }))) s)

/-! ### Other configuration (R162, R435, R456, R466) -/

/-- A timeout in its range (R162). -/
def timeoutOk (n : Nat) : Bool := decide (50 ≤ n) && decide (n ≤ 64000)

/-- CTOCFG_WRITE (R162). -/
def execCtocfgWrite (v : Word) (s : State) : Host.Outcome State Fault Refusal :=
  machineStep s (ctlWrite (zeroBits v 63 48 && timeoutOk (bits v 47 32) && timeoutOk (bits v 31 16) && timeoutOk (bits v 15 0))
    (fun t => .of (t.sys.setControl (fun c => { c with ctocfg := v }))) s)

/-- A logarithm that HANGCFG accepts. -/
def hangLogOk (n : Nat) : Bool := decide (16 ≤ n) && decide (n ≤ 48)

/-- HANGCFG_WRITE (R435). -/
def execHangcfgWrite (ctx : Nat) (v : Word) (s : State) : Host.Outcome State Fault Refusal :=
  machineStep s (ctlWrite (zeroBits v 61 54 && zeroBits v 47 42 && hangLogOk (bits v 53 48) && hangLogOk (bits v 41 36))
    (fun t => .of (t.sys.setContext ctx { t.sys.context ctx with hangcfg := v })) s)

/-- SAVECFG_WRITE (R456): the read-only bits keep their 0. -/
def execSavecfgWrite (ctx : Nat) (v : Word) (s : State) : Host.Outcome State Fault Refusal :=
  machineStep s (ctlWrite true (fun t =>
    .of (t.sys.setContext ctx { t.sys.context ctx with savecfg := v &&& maskBits 63 16 })) s)

/-- EVCFG_WRITE (R466): DROP and the read-only bits keep their values. -/
def execEvcfgWrite (v : Word) (s : State) : Host.Outcome State Fault Refusal :=
  machineStep s (ctlWrite true (fun t => .of (t.sys.setControl (fun c =>
    { c with evcfg := mixed c.evcfg v (maskBits 63 63 ||| maskBits 51 48 ||| maskBits 47 5) }))) s)

/-! ### Context descriptors (R8, R20, R40, R43, R404) -/

/-- A context after a word of its descriptor is written, the reserved bits of the Root kept 0 (R8): its creation clears the external counters
(R404, log 27). -/
def Context.described (c : Context) (i : Nat) (v : Word) : Context :=
  let created := i == 0 && v.getLsbD 0 && !(c.desc[0]).getLsbD 0
  let w := if i = 0 then v &&& maskBits 47 0 else v
  { c with desc := c.desc.setIfInBounds i w, counters := if created then [] else c.counters }

/-- The host ring starts anew, its TAIL 0, and HEAD taken as 0 until the host writes another value than the one that stands there
(R43, log 28). -/
def Context.ringRestarted (c : Context) (stale : BitVec 32) : Context := { c with ringTail := 0, ringState := .ok, ringStale := stale }

/-- CONTEXT_DESCRIPTOR_WRITE (R40): a write of the Host ring field restarts the ring (R43). Word 7 is reserved. -/
def execContextDescriptorWrite (ctx i : Nat) (v : Word) (s : State) : Host.Outcome State Fault Refusal :=
  machineStep s (ctlWrite (decide (i < 7)) (fun t =>
    let c := (t.sys.context ctx).described i v
    .of (t.sys.setContext ctx (if i = 3 then c.ringRestarted (BitVec.ofNat 32 (t.mem.value (mainKey 2 v.toNat + 8) 4)) else c))) s)

/-! ### Logs, counters and plain registers (R433, R452, R462) -/

/-- HOST_COUNTER_WRITE (R404, R462): a BAR0 register; once every host write accepted before it is visible. -/
def execHostCounterWrite (ctx : Nat) (c : BitVec 8) (v : Word) (s : State) : Host.Outcome State Fault Refusal :=
  machineStep s (
    if s.sys.unseen.any (fun u => u.origin == .host) || s.sys.reqs.any (fun r => r.origin == .host) then idle s
    else ctlWrite true (fun t => .of (t.sys.setContext ctx ((t.sys.context ctx).setCounter c.toNat v))) s)

/-- FAULT_LOG_CLEAR (R452): the records, and the count of those dropped. -/
def execFaultLogClear (ctx : Nat) (s : State) : Host.Outcome State Fault Refusal :=
  machineStep s (ctlWrite true (fun t =>
    .of (t.sys.setContext ctx { t.sys.context ctx with log := [], dropped := 0 })) s)

/-- SILLAGE_CLEAR (R433): whole or by core; idle cycles count from now on. -/
def execSillageClear (core : Option Nat) (s : State) : Host.Outcome State Fault Refusal :=
  machineStep s (ctlWrite true (fun t =>
    let y := t.sys
    let counted := fun e : Nat × List Pick × Nat => decide (y.time.cycle ≤ Table.getD y.portSeen e.1 y.portFrom)
    match core with
    | none => .of { y.setControl (fun c => { c with sillage := [] }) with
        portSeen := [], portFrom := y.time.cycle, portPicks := y.portPicks.filter counted }
    | some n =>
      .of { y.setControl (fun c => { c with sillage := c.sillage.filter (fun e => e.1 / 64 != n) }) with
        portPicks := y.portPicks.filter (fun e => e.1 / 6 != n || counted e)
        portSeen := (List.range 6).foldl (fun t p => Table.set t (6 * n + p) y.time.cycle) y.portSeen }) s)

/-- A value that a plain register accepts; a DESIGN CHOICE where the manual gives a range and no answer to a value outside it (log 29). -/
def PlainReg.accepts (r : PlainReg) (v : Word) : Bool :=
  match r with
  | .grpcfg g _ => decide (g < 16) && decide (1 ≤ v.toNat) && decide (v.toNat ≤ 65535)
  | .route id => decide (id < 64) && decide (v.toNat < 8)
  | .pwrcap => decide (1000 ≤ v.toNat) && decide (v.toNat ≤ 2400)
  | .packageId | .clockMaster => decide (v.toNat < 64)
  | .portMask p => decide (p < 8)
  | .region i _ => decide (i < 64)
  | .departed id => decide (id < 64) && zeroBits v 63 1
  | .other offset => decide (offset < 2 ^ 26) && Config.plainRegister offset
  | .remapHead | .eventHead | .capva _ | .hostMask _ | .mailbox => true

/-- A firewall region from its fields (R53): `v` holds the KIND in bits 1:0, read and write permission in bits 2 and 3, the classes in
bits 7:4. -/
def regionFrom (base limit : Nat) (v : Word) : FwRegion where
  base := base
  limit := limit
  kind := bits v 1 0
  read := v.getLsbD 2
  write := v.getLsbD 3
  classes := v.extractLsb' 4 4

/-- What the write of a plain register changes. -/
def Sys.plainWrite (y : Sys) (r : PlainReg) (v : Word) : Sys :=
  match r with
  | .remapHead => y.setControl (fun c => { c with remapHead := v.setWidth 32 })
  | .eventHead => y.setControl (fun c => { c with eventHead := v.setWidth 32 })
  | .capva ctx => y.setContext ctx { y.context ctx with capva := v }
  | .grpcfg g mask => y.setControl (fun c => { c with grpcfg := Table.set c.grpcfg g (mask, v.toNat) })
  | .route id => y.setControl (fun c => { c with routes := Table.set c.routes id v.toNat })
  | .pwrcap => y.setControl (fun c => { c with pwrcap := v.toNat })
  | .packageId => y.setControl (fun c => { c with packageId := v.toNat })
  | .hostMask fn => y.setControl (fun c => { c with hostMasks := Table.set c.hostMasks fn v })
  | .portMask p => y.setControl (fun c => { c with portMasks := Table.set c.portMasks p v })
  | .region i range => { y with fwRegions := y.fwRegions.setIfInBounds i (regionFrom range.1 range.2 v) }
  | .departed id => { y with links := { y.links with gone := y.links.gone.filter (· != id) ++ (if v.getLsbD 0 then [id] else []) } }
  | .clockMaster => { y with links := { y.links with master := v.toNat } }
  | .mailbox => y.setControl (fun c => { c with mailbox := v })
  | .other offset => y.setControl (fun c => { c with others := Table.set c.others offset v })

/-- REGISTER_WRITE (R53, R151, R406, R462, R466 to R468, R470, R472, R474): a register with no step of its own, of system software in BAR0 or
of firmware (log 105). An access of another function than the physical one is unsupported, and changes nothing. In recovery only the
mailbox is there. -/
def execRegisterWrite (physical : Bool) (r : PlainReg) (v : Word) (s : State) : Host.Outcome State Fault Refusal :=
  machineStep s (
    if !physical then idle s
    else if r = .mailbox then (if s.sys.ctl.held then idle s else .of (s.sys.plainWrite r v))
    else ctlWrite (PlainReg.accepts r v) (fun t => .of (t.sys.plainWrite r v)) s)

/-! ### The debug unit (R412, R453) -/

/-- DEBUG_UNIT_CLAIM (R412): the warps that halted for the debugger go on when the claim ends (log 16). -/
def execDebugUnitClaim (ctx : Nat) (claim : Bool) (s : State) : Host.Outcome State Fault Refusal :=
  machineStep s (
    let y := s.sys.setContext ctx { s.sys.context ctx with claimed := claim }
    let free := fun w : Warp => { w with subs := w.subs.map (fun b => if b.wait = .debugger then { b with wait := .none } else b) }
    let mine := fun w : Warp => ((y.block? w.block).map (fun k => k.ctx == ctx)).getD false
    .of (if claim then y else { y with warps := y.warps.map (fun w => if mine w then free w else w) }))

/-- DIE_HALT (R453). -/
def execDieHalt (die : Nat) (s : State) : Host.Outcome State Fault Refusal :=
  machineStep s (.of (s.sys.setDie die { s.sys.die die with halted := true }))

/-- DIE_RELEASE (R453): each warp resumes at its boundary. -/
def execDieRelease (die : Nat) (s : State) : Host.Outcome State Fault Refusal :=
  machineStep s (.of (s.sys.setDie die { s.sys.die die with halted := false }))

end Sys2Proof.Machine
end

