-- ==== Sys2Proof/Machine/Float.lean ====
section
/-! DEFINITION. Floating-point forms, MAJ 0x07 (R278 to R283). -/

namespace Sys2Proof.Machine

/-- A form of A and B that gives a value of its format. -/
def Env.fp2 (e : Env) (o : FpAB) (f : FpCtx → FpVal → FpVal → FpOut) : Except Hold Warp :=
  let c := e.w.fpCtx o.f o.rm
  e.fpPut o.d o.f.sz (fun i =>
    f c (c.read (e.laneA o.f.sz o.a i)) (c.read (e.laneB o.f.sz o.a o.f.sz o.b false i)))

/-- FADD (R280). -/
def execFadd (o : FpAB) (s : State) : Host.Outcome State Fault Refusal :=
  issueReg (.fadd o) s (fun e => e.fp2 o FpCtx.add)

/-- FSUB (R280). -/
def execFsub (o : FpAB) (s : State) : Host.Outcome State Fault Refusal :=
  issueReg (.fsub o) s (fun e => e.fp2 o FpCtx.sub)

/-- FMUL (R280). -/
def execFmul (o : FpAB) (s : State) : Host.Outcome State Fault Refusal :=
  issueReg (.fmul o) s (fun e => e.fp2 o FpCtx.mul)

/-- FFMA (R280). -/
def execFfma (o : FpABC) (s : State) : Host.Outcome State Fault Refusal :=
  issueReg (.ffma o) s (fun e =>
    let c := e.w.fpCtx o.f o.rm
    e.fpPut o.d o.f.sz (fun i => c.fma (c.read (e.laneA o.f.sz o.a i))
      (c.read (e.laneB o.f.sz o.a o.f.sz o.b false i)) (c.read (e.laneC o.f.sz o.c i))))

/-- FMIN (R280). -/
def execFmin (o : FpAB) (s : State) : Host.Outcome State Fault Refusal :=
  issueReg (.fmin o) s (fun e => e.fp2 o (fun c => c.pick false))

/-- FMAX (R280). -/
def execFmax (o : FpAB) (s : State) : Host.Outcome State Fault Refusal :=
  issueReg (.fmax o) s (fun e => e.fp2 o (fun c => c.pick true))

/-- FDIV (R280). -/
def execFdiv (o : FpAB) (s : State) : Host.Outcome State Fault Refusal :=
  issueReg (.fdiv o) s (fun e => e.fp2 o FpCtx.div)

/-- FSQRT (R280). -/
def execFsqrt (o : FpA) (s : State) : Host.Outcome State Fault Refusal :=
  issueReg (.fsqrt o) s (fun e =>
    let c := e.w.fpCtx o.f o.rm
    e.fpPut o.d o.f.sz (fun i => c.sqrt (c.read (e.laneA o.f.sz o.a i))))

/-- FCMP writes one 32-bit register at every size (R280, R281). -/
def execFcmp (o : FpABC) (s : State) : Host.Outcome State Fault Refusal :=
  issueReg (.fcmp o) s (fun e =>
    let c := e.w.fpCtx o.f o.rm
    e.fpPut o.d .w32 (fun i =>
      let r := fpCond o.c.toNat (c.read (e.laneA o.f.sz o.a i)) (c.read (e.laneB o.f.sz o.a o.f.sz o.b false i))
      (if r.1 then 1 else 0, r.2)))

/-- FCLASS raises no flag (R282). -/
def execFclass (o : FpA) (s : State) : Host.Outcome State Fault Refusal :=
  issueReg (.fclass o) s (fun e =>
    .ok (putLanes e.w e.b.exec .w32 false o.d.toNat
      (fun i => 1#64 <<< o.f.fmt.classOf (e.laneA o.f.sz o.a i))))

end Sys2Proof.Machine

namespace Sys2Proof
open Sys2Proof.Machine

/-- The floating-point format of a type of FCVT; `none` for an integer. -/
def CvtTy.fp : CvtTy → Option FSz
  | .f32 => some .f32
  | .f64 => some .f64
  | .f16 => some .f16
  | _ => none

def CvtTy.signed : CvtTy → Bool
  | .s32 | .s64 => true
  | _ => false

def CvtTy.lo (t : CvtTy) : Int := if t.signed then -(2 ^ (t.sz.bits - 1)) else 0

def CvtTy.hi (t : CvtTy) : Int := if t.signed then 2 ^ (t.sz.bits - 1) - 1 else 2 ^ t.sz.bits - 1

end Sys2Proof

namespace Sys2Proof.Machine

/-- One conversion of FCVT (R283, R248). -/
def fcvtLane (w : Warp) (dt st : CvtTy) (rm : RSel) (x : Word) : FpOut :=
  match st.fp, dt.fp with
  | some sf, some df =>
    let c := w.fpCtx df rm
    let v := sf.fmt.read (w.v1 && sf == .f32) x
    (match v with
    | .nan b => c.nan (if b then fNV else 0)
    | v => c.give v)
  | some sf, none =>
    let v := sf.fmt.read (w.v1 && sf == .f32) x
    let r := toIntRange (if w.v1 then .away else rm.mode w.fpctl) dt.lo dt.hi v
    (wrap dt.sz.bits r.1, r.2)
  | none, some df =>
    let c := w.fpCtx df rm
    let z := toI st.signed st.sz.bits x
    c.rnd (decide (z < 0)) z.natAbs 0
  | none, none => (0, 0)

/-- FCVT (R283). -/
def execFcvt (d : BitVec 8) (a : SrcA) (dt st : CvtTy) (rm : RSel) (s : State) :
    Host.Outcome State Fault Refusal :=
  issueReg (.fcvt d a dt st rm) s (fun e =>
    e.fpPut d dt.sz (fun i => fcvtLane e.w dt st rm (e.laneA st.sz a i)))

end Sys2Proof.Machine
end

