-- ==== Sys2Proof/Machine/Stream.lean ====
section
/-! DEFINITION. Streams and markers, MAJ 0x15, with the steps of the affine address engines (R77 to R80, R332 to R335). -/

namespace Sys2Proof.Machine

/-! ### Issue (R332, R335) -/

def Access.jobsOf (a : Access) (q : BitVec 2) : List QJob := a.jobs[q.toNat]?.getD []

def Access.setJobs (a : Access) (q : BitVec 2) (l : List QJob) : Access :=
  { a with jobs := a.jobs.setIfInBounds q.toNat l }

/-- The warp with one more job behind the others of a queue. -/
def Warp.addJob (w : Warp) (q : BitVec 2) (j : QJob) : Warp :=
  { w with access := w.access.map (fun a => a.setJobs q (a.jobsOf q ++ [j])) }

def QJob.isStream : QJob → Bool
  | .stream _ => true
  | .mark _ => false

/-- A stream of the queue still pushes. -/
def Warp.streaming (w : Warp) (q : BitVec 2) : Bool :=
  match w.access with
  | some a => (a.jobsOf q).any QJob.isStream
  | none => false

/-- A stream of one of some queues still pushes. -/
def Warp.streamingAny (w : Warp) (mask : BitVec 4) : Bool :=
  (List.range 4).any (fun n => mask.getLsbD n && w.streaming (BitVec.ofNat 2 n))

/-- STRM (R333): it waits while its queue's earlier stream pushes; then the slice continues past it. -/
def execStrm (q : BitVec 2) (a b c : SReg) (sz : Sz) (sext locl : Bool) (s : State) :
    Host.Outcome State Fault Refusal :=
  issueReg (.strm q a b c sz sext locl) s (fun e =>
    let x := e.w.sx e.o
    if e.w.streaming q then .error (.wait (.streams (1#4 <<< q.toNat)))
    else .ok (e.w.addJob q (.stream { q, base := x a, desc := x b, strides := x c, sz, sext, locl, pos := 0, high := none,
                                      pc := e.b.pc, parked := none })))

/-- STRMEND (R332). -/
def execStrmend (mask : BitVec 4) (s : State) : Host.Outcome State Fault Refusal :=
  issueReg (.strmend mask) s (fun e =>
    if e.w.streamingAny mask then .error (.wait (.streams mask)) else .ok e.w)

/-- QMARK (R332). -/
def execQmark (q : BitVec 2) (v : BitVec 16) (s : State) : Host.Outcome State Fault Refusal :=
  issueReg (.qmark q v) s (fun e => .ok (e.w.addJob q (.mark v)))

/-- The marker at the front of a queue's markers, and the entries behind it. -/
def firstMarker : List QEntry → Option (BitVec 16 × List QEntry)
  | [] => none
  | .marker v :: r => some (v, r)
  | _ :: r => firstMarker r

/-- QDISC (R335). -/
def execQdisc (d : SReg) (q : BitVec 2) (s : State) : Host.Outcome State Fault Refusal :=
  issue (.qdisc d q) s (fun e =>
    match firstMarker (e.w.queue q) with
    | some (v, rest) =>
      .ok (e.done ((e.w.setQueue q rest).setS d (BitVec.ofNat 64 (2 ^ 63 + v.toNat))))
    | none =>
      let w := e.w.setQueue q []
      if (e.w.access.map (·.ended)).getD false then .ok (e.done (w.setS d 0))
      else
        let since := if e.b.wait = .queue q 1 then e.b.since else e.y.time.now
        .error (.change (.of (e.y.setWarp (w.setSub e.o { e.b with wait := .queue q 1, since })))))

/-! ### Pushes (R333, R334) -/

def Stream.n0 (t : Stream) : Nat := bits t.desc 15 0 + 1
def Stream.n1 (t : Stream) : Nat := bits t.desc 31 16 + 1

/-- The exact address of lane i's element of the next group. -/
def Stream.addr (t : Stream) (i : Nat) : Int :=
  let half := fun (v : Word) (k : Nat) => ((v >>> k).setWidth 32).toInt
  (t.base.toNat : Int) + (t.pos / t.n0 : Nat) * half t.strides 32 + (t.pos % t.n0 : Nat) * half t.strides 0 +
    (i : Int) * half t.desc 32

/-- The elements of the next group. -/
def Stream.elems (t : Stream) : List Elem :=
  (List.range 32).map (fun i => { lane := i, idx := i, ea := t.addr i })

/-- The group's memory, or the change that takes place instead: a walk to wait for, a park, or a cause that ends the
access context. -/
inductive StreamSet where
  | go (y : Sys) (runs : List (List Run))
  | hold (u : Upd)

/-- A cause of a stream, with the PC of its STRM (R445). -/
def streamTrap (s : State) (w : Warp) (a : Access) (t : Stream) (i : TrapInfo) : Upd :=
  takeAccess s w { a with sub := { a.sub with pc := t.pc } } i

/-- The access context with the stream parked at its entry (R334). -/
def Warp.parkStream (w : Warp) (a : Access) (t : Stream) (page : Nat) : Warp :=
  { w with access := some (a.setJobs t.q (.stream { t with parked := some page } :: (a.jobsOf t.q).tail)) }

/-- The translation set of a group of main-memory elements (R36). -/
def streamSet (s : State) (w : Warp) (k : Block) (a : Access) (t : Stream) : StreamSet :=
  let core := k.core
  let die := dieOf core
  let es := t.elems
  let ts : List Touch := es.map (fun x => { lane := x.lane, va := x.ea.toNat, len := t.sz.bytes, acc := .read })
  let pages := (ts.map (·.page)).eraseDups
  let asker : Asker := .stream w.id t.q.toNat
  match s.sys.unknown asker (some core) die k.ctx ts with
  | [] =>
    let s1 : State := { s with sys := s.sys.forget asker }
    match setFate false (s.sys.fates asker .core (some core) die k.ctx ts) with
    | .proceed =>
      let y := pages.foldl (fun y p => y.touchCore core die k.ctx p) s.sys
      .go (y.forget asker) (es.map (fun x => mainRuns y (fun v => y.leafOf asker (some core) die k.ctx (v * 65536)) x.ea.toNat t.sz.bytes))
    | .refuse r lanes va keys =>
      let u := streamTrap s1 w a t { trapOf .protection (BitVec.ofNat 64 va) with tlanes := lanes, reason := r }
      if r = .firewall then
        .hold (Upd.andThen s1 u (fun s2 => freezeContext s2 (.part core w.part) k.ctx (keys.headD (0, false))))
      else .hold u
    | .broken r lanes va =>
      .hold (streamTrap s1 w a t { trapOf .memError (BitVec.ofNat 64 va) with tlanes := lanes, reason := r })
    | .fault ps lanes va =>
      if s.sys.noDest k.ctx die ps then
        .hold (streamTrap s1 w a t { trapOf .page (BitVec.ofNat 64 va) with tlanes := lanes })
      else
        let s2 : State := { s1 with sys := s1.sys.setWarp (w.parkStream a t (lowestPage ps)) }
        .hold (postFaults s2 k.ctx die { kind := 0, slot := w.slot, part := w.part, unit := core, pc := t.pc } ps)
  | missing => .hold (.of (missing.foldl (fun y p => y.miss asker die k.ctx p) s.sys))

/-- The group's elements with their memory. -/
def streamLocate (s : State) (w : Warp) (k : Block) (a : Access) (t : Stream) : StreamSet :=
  let es := t.elems
  if t.locl then
    let ws := s.sys.windows k none
    match localTrap ws t.sz.bytes es with
    | some i => .hold (streamTrap s w a t i)
    | none => .go s.sys (es.map (fun x => localRuns ws x.ea.toNat t.sz.bytes))
  else match mainTrap t.sz.bytes es with
    | some i => .hold (streamTrap s w a t i)
    | none => streamSet s w k a t

/-- The lines of a group's elements, with an address in each. -/
def runLines (runs : List (List Run)) : List (Nat × Nat) :=
  (runs.flatten.filterMap (fun r => r.key.map (fun k => (k / 64 * 64, r.va / 64 * 64)))).eraseDups

/-- The failure of a line of some runs on its way (R163). -/
def lostLine (lost : List (Nat × Reason)) (rs : List Run) : Option (Reason × Nat) :=
  rs.findSome? (fun r => r.key.bind (fun k => (lost.find? (fun x => x.1 == k / 64 * 64)).map (fun x => (x.2, r.va))))

/-- The entries of a group that was read (R333), the high one of a 64-bit group beside the low one: an element that failed at its home, or
with its line on the way (`lost`), marks its lane, with the reason and the address of the lowest (R334, R446). -/
def Stream.entries (t : Stream) (y : Sys) (m : Memory) (lost : List (Nat × Reason)) (runs : List (List Run)) : QEntry × Option QEntry :=
  let n := 8 * t.sz.bytes
  let fails := runs.map (fun rs => (lostLine lost rs).orElse (fun _ => y.runsFail rs))
  let bad := maskOf (fun i => (fails.getD i none).isSome)
  let first := (fails.findSome? id).getD (.none, 0)
  let vals : List Word := (runs.zip fails).map (fun x => if x.2.isSome then 0 else
    ext t.sext n (BitVec.ofNat 64 (leValue (runBytes m x.1))))
  let entry := fun f : Word → BitVec 32 =>
    let l : Lanes := Vector.ofFn (fun i : Fin 32 => f (vals.getD i 0))
    if bad = 0 then QEntry.data l else .failed l bad first.1 first.2 t.pc
  (entry (fun v => v.setWidth 32), if t.sz = .w64 then some (entry (fun v => (v >>> 32).setWidth 32)) else none)

/-- The stream once the last entry of a group has gone in: nothing when it was the last group. -/
def Stream.next (t : Stream) : List QJob :=
  if t.pos + 1 < t.n0 * t.n1 then [.stream { t with pos := t.pos + 1, high := none }] else []

/-- The entries of a queue that a stalled word of the warp has taken: they come to it one by one, and each leaves room for another push
(R77, R79, R365; DEDUCED, log 125). The word makes its pops of record when it issues. -/
def Warp.takenAhead (w : Warp) (q : BitVec 2) : Nat :=
  w.subs.foldl (fun m b => match b.wait with
    | .queue p n => if p = q then Nat.max m (Nat.min n (w.queue q).length) else m
    | _ => m) 0

/-- The job at the front of a queue that is not full pushes one entry (R77, R333); the elements outside the package are asked for first
(R156). -/
def pushJob (w : Warp) (k : Block) (a : Access) (q : BitVec 2) (s : State) : Upd :=
  let push := fun (jobs : List QJob) (x : QEntry) =>
    ({ w with access := some (a.setJobs q jobs) } : Warp).setQueue q (w.queue q ++ [x])
  if 16 + w.takenAhead q ≤ (w.queue q).length then idle s
  else match a.jobsOf q with
    | [] => idle s
    | .mark v :: rest => .of (s.sys.setWarp (push rest (.marker v)))
    | .stream t :: rest =>
      match t.high with
      | some x => .of (s.sys.setWarp (push (t.next ++ rest) x))
      | none =>
        match streamLocate s w k a t with
        | .hold u => recallFirst s u
        | .go y runs =>
          if !runs.all y.runsQuiet then .of (y.holdRead (.warp w.id) (runs.flatMap runRanges))
          else match y.asks (.stream w.id q.toNat) (.part k.core w.part) k.ctx (runLines runs) with
          | .error z => .of z
          | .ok (y, lost) =>
            let es := t.entries y s.mem lost runs
            let jobs := match es.2 with
              | some x => .stream { t with high := some x } :: rest
              | none => t.next ++ rest
            .of (((runs.foldl (fun z rs => z.runsRead k.ctx rs) y).setWarp (push jobs es.1)).mark k.ctx)

/-- STREAM_PUSH (R333). -/
def execStreamPush (w q : Nat) (s : State) : Host.Outcome State Fault Refusal :=
  machineStep s (
    match s.sys.warp? w with
    | none => idle s
    | some x =>
      match s.sys.block? x.block, x.access with
      | some k, some a =>
        if a.ended || a.parked || (s.sys.context k.ctx).frozen || s.sys.ctl.held || (s.sys.preempting k).isSome then idle s
        else pushJob x k a (BitVec.ofNat 2 q) s
      | _, _ => idle s)

/-- ACCESS_SLICE_END (R333): EXIT takes effect once every stream has pushed its last entry. -/
def execAccessSliceEnd (w : Nat) (s : State) : Host.Outcome State Fault Refusal :=
  machineStep s (
    match s.sys.warp? w with
    | none => idle s
    | some x =>
      match x.access with
      | some a =>
        if a.sub.wait = .exiting && !a.ended && a.jobs.toList.all (·.isEmpty) then
          .of (s.sys.setWarp { x with access := some { a with ended := true } })
        else idle s
      | none => idle s)

end Sys2Proof.Machine
end

