-- ==== Sys2Proof/Machine/Issuing.lean ====
section
/-! DEFINITION. The issue ports, the Sillage table, the visibility clock with its watermarks and frontiers, and the hang
detector (R4, R88, R97 to R100, R430 to R438, R472). -/

namespace Sys2Proof.Machine

/-! ### Eligible sub-warps (R430) -/

/-- A pop of `n` entries finds what it needs, or a marker in the way, or the access slice over (R79). -/
def Warp.popReady (w : Warp) (q : BitVec 2) (n : Nat) : Bool :=
  decide (n ≤ (w.queue q).length) || (w.queue q).any (fun x => match x with | .marker _ => true | _ => false) ||
    (w.access.map (·.ended)).getD false

/-- What a sub-warp waits for has come; its word tests it again when it issues. -/
def Sys.waitOver (y : Sys) (w : Warp) (k : Block) (o : Option Nat) (b : Sub) : Bool :=
  match b.wait with
  | .flags m => (waitFlags m).all (fun i => (w.flag i).count == 0)
  | .witness v => y.satisfied (coreReader k.core) v != .wait
  | .translating pages => y.setReady (.sub w.id o) k pages
  | .binRoom die bin => ((y.bin? k.ctx die bin).map Bin.room).getD true
  | .counter c least => decide (least.toNat ≤ ((y.context k.ctx).counter c.toNat).toNat)
  | .flagFull f => decide ((w.flag f).count < 63)
  | .copyRoom tag n => decide (y.copies w tag + n ≤ 255)
  | .scratch l => !y.rangesWait (.part k.core w.part) l
  | .tiles l => !l.any (y.tileOwned k)
  | .queue q n => w.popReady q n
  | .streams m => !w.streamingAny m
  | .clock => y.inStep
  | r => r.retries

/-- The word at which a sub-warp stands, where it can be read without a translation: the word inside its clause, or, where the page
of its header is known, the header, or the word to resume at in the header's clause. -/
def State.nextWord (s : State) (w : Warp) (k : Block) (b : Sub) : Option Word :=
  let at_ := fun (map key : Nat) => s.codeWord k.core (s.sys.placed map key)
  match b.place with
  | .inside c => some (at_ c.map (c.key + (b.pc - c.addr).toNat))
  | _ => (s.sys.vaBase (.sub w.id (some b.id)) (some k.core) (dieOf k.core) k.ctx b.header.toNat).map (fun h => at_ h.2 (h.1 + (b.pc - b.header).toNat))

/-- A competitor for the ports: the warp, the sub-warp, its class, and what port B and YLD need to know. -/
structure Rival where
  warp : Nat
  sub : Nat
  age : Nat
  cls : Nat
  ready : Nat
  boosted : Bool
  paired : Bool
  portB : Bool
  phase : Nat
  deriving DecidableEq, Repr

/-- Its next word is a header. -/
def Sub.atHeader (b : Sub) : Bool := match b.place with | .boundary => true | _ => false

/-- What the next word of a sub-warp that no wait holds would wait for: the flags of its clause's WAIT mask (R213), or an interlock, the tile
that an ACCRUN owns or the queue that is empty (R76, R79, R216, R430). -/
def State.stall (s : State) (w : Warp) (k : Block) (b : Sub) (word : Word) : Option Wait :=
  match (if b.atHeader then (headerOf word).map .clauseStart else (decode word).toOption) with
  | none => none
  | some i =>
    let e : Env := { s, w, b, o := some b.id, k, i }
    match i, e.precheck with
    | .clauseStart h, _ =>
      if h.inPage b.pc && !e.savesHere h && b.wait != .abandoned && (waitFlags h.wait).any (fun f => (w.flag f).count != 0)
      then some (.flags h.wait) else none
    | _, some (.wait r) => some r
    | _, some _ => none
    | _, none => match e.tiles with
      | .error (.wait r) => some r
      | _ => none

/-- A sub-warp that nothing has held until now, and what its next word would wait for. -/
def State.stalls (s : State) (w : Warp) (k : Block) (b : Sub) : Option Wait :=
  if s.sys.canIssue w k (some b.id) b && s.sys.waitOver w k (some b.id) b then (s.nextWord w k b).bind (s.stall w k b) else none

/-- A sub-warp that is eligible now. -/
def State.rival (s : State) (w : Warp) (k : Block) (b : Sub) : Option Rival :=
  let word := s.nextWord w k b
  let header := b.atHeader
  if s.sys.canIssue w k (some b.id) b && s.sys.waitOver w k (some b.id) b && (s.stalls w k b).isNone then
    let paired := !header && (word.map (fun v => v.getLsbD 63)).getD false
    let major := (word.map (fun v => bits v 62 56)).getD 0
    let yields := header && ((word.bind headerOf).map (·.yld)).getD false
    some { warp := w.id, sub := b.id, age := if yields then w.id + 2 ^ 64 else w.id, cls := k.prio, ready := b.ready,
           boosted := b.boosted, paired, portB := !header && !paired && 1 ≤ major && major ≤ 7, phase := bits w.phase 5 0 }
  else none

/-- The sub-warps of a partition that are eligible now. -/
def State.rivals (s : State) (core part : Nat) : List Rival :=
  (s.sys.warps.filter (fun w => w.part == part)).flatMap (fun w =>
    match s.sys.block? w.block with
    | some k => if k.core = core then w.subs.filterMap (s.rival w k) else []
    | none => [])

/-- The waits of a partition's sub-warps that begin in this cycle: each stands at a word that cannot issue (R213, R430). -/
def State.beginWaits (s : State) (core part : Nat) : Sys :=
  let of := fun w : Warp => match s.sys.block? w.block with
    | some k =>
      if k.core = core && w.part = part then
        { w with subs := w.subs.map (fun b => match s.stalls w k b with
          | some r => b.waitFor r s.sys.time.now
          | none => b) }
      else w
    | none => w
  { s.sys with warps := s.sys.warps.map of }

/-- One rival goes before another: those boosted by R432 first, the longest waiting of them; then by class and age. -/
def Rival.before (a b : Rival) : Bool :=
  if a.boosted != b.boosted then a.boosted
  else if a.boosted then decide (a.ready < b.ready)
  else decide (b.cls < a.cls) || (a.cls == b.cls && decide (a.age < b.age))

def firstRival : List Rival → Option Rival
  | [] => none
  | x :: r => some (r.foldl (fun a b => if b.before a then b else a) x)

/-- Port A keeps the sub-warp it issued from last while that is eligible and in the highest class (R431). -/
def portAChoice (last : Option (Nat × Nat)) (l : List Rival) : Option Rival :=
  match firstRival l with
  | none => none
  | some best =>
    if best.boosted then some best
    else match l.find? (fun r => last == some (r.warp, r.sub) && r.cls == best.cls && r.age < 2 ^ 64) with
      | some r => some r
      | none => some best

/-- The choices of both ports. -/
def portChoices (last : Option (Nat × Nat)) (l : List Rival) : List Rival :=
  match portAChoice last l with
  | none => []
  | some a =>
    if a.paired then [a]
    else match firstRival (l.filter (fun r => r.portB && !(r.warp == a.warp && r.sub == a.sub))) with
      | some b => [a, b]
      | none => [a]

/-- How many words a partition of a die may issue in this cycle: at most one every second cycle while issue is throttled (R472). -/
def Sys.issueLimit (y : Sys) (die n : Nat) : Nat :=
  if (y.die die).throttled || y.ctl.powerThrottle then (if y.time.cycle % 2 = 1 then 0 else Nat.min 1 n) else n

/-- Since when each sub-warp of a partition has been eligible without issuing (R432). -/
def Sys.readyAfter (y : Sys) (core part : Nat) (l chosen : List Rival) : Sys :=
  let upd := fun (w : Warp) (b : Sub) =>
    let is := fun r : Rival => r.warp == w.id && r.sub == b.id
    if l.any is && !chosen.any is then b else { b with ready := y.time.cycle, boosted := false }
  let mine := fun w : Warp => w.part == part && ((y.block? w.block).map (fun k => k.core == core)).getD false
  { y with warps := y.warps.map (fun w => if mine w then { w with subs := w.subs.map (upd w) } else w) }

/-- The sub-warp that was chosen has not issued its word: it stands there still, behind a wait of the word or a park (R433). -/
def Sys.unissued (y : Sys) (p : Pick) : Bool :=
  match (y.warp? p.warp).bind (fun w => w.sub? (some p.sub)) with
  | some b => b.pc == p.pc && b.place == p.place && (b.wait.retries || (match b.wait with | .ticket _ _ => true | _ => false))
  | none => false

/-- The cycles of a partition before this one are counted in the Sillage table (R433, R434): the cycle of its last selection by what became
of it, those after it as cycles with no warp resident. -/
def Sys.countCycles (y : Sys) (core part : Nat) : Sys :=
  let p := 6 * core + part
  let now := y.time.cycle
  let seen := Table.getD y.portSeen p y.portFrom
  if now ≤ seen then y
  else
    let last := Table.get? y.portPicks p
    let phase := match last with
      | some (picks, oldest) => ((picks.find? (fun x => !y.unissued x)).map (·.phase)).getD oldest
      | none => Table.getD y.portPhase p 0
    let y1 := match last with
      | some (picks, _) => y.sillageAdd core phase (if picks.all y.unissued then silIdlew else part) 1
      | none => y
    let empty := now - seen - (if last.isSome then 1 else 0)
    let y2 := if empty = 0 then y1 else y1.sillageAdd core phase silIdlen empty
    { y2 with portPhase := Table.set y2.portPhase p phase, portSeen := Table.set y2.portSeen p now,
              portPicks := Table.erase y2.portPicks p }

/-- An entry of the Sillage table as system software reads it (R433). -/
def Sys.sillageRead (y : Sys) (core phase : Nat) : Vector Nat 14 :=
  Table.getD ((List.range 6).foldl (fun z p => z.countCycles core p) y).ctl.sillage (64 * core + phase) (Vector.replicate 14 0)

/-- The selection of this cycle is noted, to be counted when what becomes of it is known. -/
def Sys.notePicks (y : Sys) (core part : Nat) (chosen : List Rival) : Sys :=
  let mine := y.warps.filter (fun w => w.part == part && ((y.block? w.block).map (fun k => k.core == core)).getD false)
  match mine with
  | [] => y
  | w :: rest =>
    let oldest := bits (rest.foldl (fun a b => if b.id < a.id then b else a) w).phase 5 0
    let picks := chosen.filterMap (fun r => ((y.warp? r.warp).bind (fun w => w.sub? (some r.sub))).map (fun b =>
      ({ warp := r.warp, sub := r.sub, pc := b.pc, place := b.place, phase := r.phase } : Pick)))
    { y with portPicks := Table.set y.portPicks (6 * core + part) (picks, oldest) }

/-- The access contexts of a partition's warps that can issue: their engine has ports of its own. -/
def Sys.accessReady (y : Sys) (core part : Nat) : List (Nat × Option Nat) :=
  (y.warps.filter (fun w => w.part == part)).filterMap (fun w =>
    match y.block? w.block, w.access with
    | some k, some a =>
      if k.core == core && y.canIssue w k none a.sub && y.waitOver w k none a.sub then some (w.id, none) else none
    | _, _ => none)

/-- ISSUE_SELECT (R431): the choices of this cycle, which then issue one after another. -/
def execIssueSelect (core part : Nat) (s : State) : Host.Outcome State Fault Refusal :=
  machineStep s (
    let p := 6 * core + part
    let l := s.rivals core part
    let choices := portChoices (Table.get? s.sys.portA p) l
    let chosen := choices.take (s.sys.issueLimit (dieOf core) choices.length)
    let y := (({ s with sys := s.sys.countCycles core part }.beginWaits core part).notePicks core part chosen).readyAfter core part l chosen
    let all := chosen.map (fun r => (r.warp, some r.sub)) ++ y.accessReady core part
    let picks := all.take (s.sys.issueLimit (dieOf core) all.length)
    .of { y with selected := y.selected ++ picks,
                 portA := match chosen with
                   | r :: _ => Table.set y.portA p (r.warp, r.sub)
                   | [] => Table.erase y.portA p })

/-- STARVATION_BOOST (R432). -/
def execStarvationBoost (w sub : Nat) (s : State) : Host.Outcome State Fault Refusal :=
  machineStep s (
    match s.sys.warp? w with
    | none => idle s
    | some x =>
      match x.sub? (some sub), s.sys.block? x.block with
      | some b, some k =>
        if s.sys.canIssue x k (some sub) b && s.sys.waitOver x k (some sub) b && b.ready + 1024 ≤ s.sys.time.cycle then
          .of (s.sys.setWarp (x.setSub (some sub) { b with boosted := true }))
        else idle s
      | _, _ => idle s)

/-! ### Waits as the hang detector sees them (R436) -/

/-- A record of the ticket at a physical address is on a halted die: in a bin there, held for one, or with its service task (R42, R436). -/
def Sys.ticketHalted (y : Sys) (ctx pa : Nat) : Bool :=
  let off := fun d => (y.die d).halted
  let names := fun l : List Word => (l.getD 4 0).toNat == pa
  y.bins.any (fun t => t.ctx == ctx && off t.die && t.bins.toList.any (fun b =>
    b.hwq.any (fun r => names r.words) || b.held.any (fun r => names r.words) || b.ring.any (fun r => r.ticket.toNat == pa))) ||
  y.posts.any (fun q => q.ctx == ctx && off q.die && names q.record) ||
  y.blocks.any (fun k => k.ctx == ctx && off (dieOf k.core) && (match k.job with
    | .task _ _ _ record => names record
    | .grid _ _ => false))

/-- A die holds something a sub-warp waits on, and the debugger has halted it. -/
def Sys.haltedHolder (y : Sys) (w : Warp) (k : Block) (b : Sub) : Bool :=
  let off := fun d => (y.die d).halted
  off (dieOf k.core) ||
  (match b.wait with
    | .barrier key inst _ _ _ =>
      let launch := (y.keyLaunch key).getD 0
      let here := fun p : Nat × Nat => y.barriers.any (fun i => i.key == key && i.inst == inst &&
        i.arrivals.any (fun a => a.block == p.1 && a.warp == p.2))
      (y.participants key).any (fun p => !here p &&
        (y.blocks.any (fun c => c.launch == launch && c.flat == p.1 && !c.isTask && off (dieOf c.core))))
    | .binRoom die _ => off die
    | .flags m => y.ops.any (fun p => p.warp == some w.id && p.flag.any (fun f => m.getLsbD f) &&
        (off (y.heapDie p) || y.posts.any (fun q => q.op == some p.id && off q.die)))
    | .ticket page _ => (y.armed? k.ctx page).any (fun t => y.ticketHalted k.ctx (y.ticketPA k.ctx t.no))
    | .witness v | .settle v _ =>
      (witScope v == 0 && off (clusterDie (witDom v))) || (witScope v == 1 && off (witDom v))
    | _ => false)

/-- How a sub-warp's wait counts. -/
inductive WaitKind where
  | internal | external | byHalt | neither
  deriving DecidableEq, Repr

/-- The kind of a sub-warp's wait. WAITX is external, as is a park through the host ring. -/
def Sys.waitKind (y : Sys) (w : Warp) (k : Block) (b : Sub) : WaitKind :=
  let inside := if y.haltedHolder w k b then WaitKind.byHalt else .internal
  match b.wait with
  | .flags m =>
    if (waitFlags m).all (fun i => (w.flag i).count == 0) then .neither
    else
      let on := y.ops.filter (fun p => p.warp == some w.id && p.flag.any (fun f => m.getLsbD f))
      if on.any (fun p => match p.instr with | .xred _ _ _ _ => true | _ => false) then .external else inside
  | .counter _ _ => .external
  | .ticket _ ring => if ring then .external else inside
  | .witness _ | .settle _ _ | .barrier _ _ _ _ _ | .mmq _ _ | .join _ | .binRoom _ _ => inside
  | _ => .neither

/-- The kind of a warp's wait: one sub-warp that waits externally makes it external; else it waits where every sub-warp of it does.
A frozen warp counts as neither (R55). -/
def Sys.warpWait (y : Sys) (w : Warp) : WaitKind :=
  match y.block? w.block with
  | none => .neither
  | some k =>
    let l := w.subs.map (y.waitKind w k)
    if (y.context k.ctx).frozen then .neither
    else if l.any (· == .external) then .external
    else if l.any (· == .byHalt) then .byHalt
    else if l.any (· == .neither) then .neither
    else .internal

/-- The warps of a context. -/
def Sys.warpsOf (y : Sys) (ctx : Nat) : List Warp :=
  y.warps.filter (fun w => ((y.block? w.block).map (fun k => k.ctx == ctx)).getD false)

/-- A context's hang counter after a tick (R436). -/
def Sys.hangAfter (y : Sys) (ctx : Nat) (c : Context) : Context :=
  let l := (y.warpsOf ctx).map y.warpWait
  let hang :=
    if c.event || l.any (fun k => k == .external || k == .byHalt) then 0
    else if !l.isEmpty && l.all (· == .internal) then c.hang + 1
    else c.hang
  { c with hang, event := false }

/-- The count of ticks that a sub-warp has spent in its external wait (R438): it starts with the wait, and stands still while the context is
frozen or a halt of a die makes the wait external. -/
def Sub.countExternal (b : Sub) (frozen : Bool) (kind : WaitKind) : Sub :=
  match kind with
  | .external => if frozen then b else { b with ext := (b.since, if b.ext.1 = b.since then b.ext.2 + 1 else 1) }
  | .byHalt => b
  | _ => { b with ext := (b.since, 0) }

def Sys.countExternal (y : Sys) (w : Warp) : Warp :=
  match y.block? w.block with
  | none => w
  | some k => { w with subs := w.subs.map (fun b => b.countExternal (y.context k.ctx).frozen (y.waitKind w k b)) }

/-! ### The visibility clock (R4, R88, R97, R98) -/

/-- The writes that are not yet visible: origin and tick. -/
def Sys.outstanding (y : Sys) : List (Origin × Nat) :=
  (y.reqs.filter (fun r => r.kind.writes)).map (fun r => (r.origin, r.tick)) ++ y.unseen.map (fun u => (u.origin, u.tick))

/-- The minimum of the watermarks of the origins for which `f` holds. -/
def watermark (now : Nat) (l : List (Origin × Nat)) (f : Origin → Bool) : Nat :=
  (l.filter (fun x => f x.1)).foldl (fun m x => Nat.min m (x.2 - 1)) (now - 1)

/-- The cluster domain and the die domain of an origin (R96). -/
def Origin.cluster : Origin → Option Nat
  | .part core _ | .accord core => some (clusterOf core)
  | .copy c | .long c => some c
  | _ => none

def Origin.dieDomain : Origin → Option Nat
  | .flacon d | .proc d => some d
  | o => o.cluster.map clusterDie

/-- The frontiers at a tick; none ever decreases (R99). -/
def Sys.frontiers (y : Sys) : Time :=
  let t := y.time
  let l := y.outstanding
  let cl := Vector.ofFn (fun i : Fin 60 => Nat.max t.clusterF[i] (watermark t.now l (fun o => o.cluster == some i.val)))
  let di := Vector.ofFn (fun i : Fin 6 => Nat.max t.dieF[i] (watermark t.now l (fun o => o.dieDomain == some i.val)))
  let dev := Nat.max t.deviceF (watermark t.now l (fun _ => true))
  let peers := (if y.links.left then [] else y.ctl.routes.filter (fun r => !y.links.gone.contains r.1)).map (fun r =>
    (r.1, Nat.max (Table.getD t.peerF r.1 0) (Nat.min (Config.peerFrontier r.1 t.now) (t.now - 1))))
  let sys := Nat.max t.systemF (peers.foldl (fun m p => Nat.min m p.2) dev)
  { t with clusterF := cl, dieF := di, deviceF := dev, systemF := sys, peerF := peers }

/-- VISIBILITY_TICK (R4): performed writes become visible two ticks after their stamp, the homes' holds of reads end (R89), snoops that the host has not answered in time end
(R464), every origin reports its watermark, and the hang counters move (R436). -/
def execVisibilityTick (s : State) : Host.Outcome State Fault Refusal :=
  machineStep s (
    let now := s.sys.time.now + 1
    let y := ({ s.sys with
      time := { s.sys.time with now }
      unseen := s.sys.unseen.filter (fun u => decide (now < u.tick + 2)) } : Sys).readsEnd.snoopsOver
    let y1 := ({ y with time := y.frontiers } : Sys).settleInvals
    .of { y1 with contexts := y1.contexts.map (fun e => (e.1, y1.hangAfter e.1 e.2)),
                  warps := y1.warps.map y1.countExternal })

/-! ### HANG (R437, R438) -/

/-- The sub-warp whose waiting instruction traps HANG: the lowest that waits as `f` says. -/
def Sys.hangSub (y : Sys) (w : Warp) (f : WaitKind → Bool) : Option Sub :=
  match y.block? w.block with
  | none => none
  | some k => w.subs.find? (fun b => f (y.waitKind w k b))

/-- KIND, OBJECT and HOLDERS of a waiter's record. -/
def Sys.waitRecord (y : Sys) (k : Block) (b : Sub) : Nat × Nat × Nat :=
  let bar := fun lvl : BarLevel => match lvl with
    | .blk => 3 | .coh => 4 | .clu => 5 | .die => 6 | .grid => 7
  match b.wait with
  | .flags m => (1, m.toNat, 0)
  | .witness v | .settle v _ => (2, v.toNat, 0)
  | .barrier key inst _ _ _ =>
    let here := fun i => y.barriers.any (fun x => x.key == key && x.inst == inst &&
      x.arrivals.any (fun a => a.block == k.flat && a.warp == i))
    let missing := (y.participants key).filter (fun p => p.1 == k.flat && !here p.2)
    (bar key.lvl, inst % 2 ^ 32 * 2 ^ 32 + key.n, sumOf (missing.map (fun p => 2 ^ p.2)))
  | .mmq c inst =>
    let here := fun i => y.mmqs.any (fun x => x.block == k.id && x.cohort == c && x.inst == inst &&
      x.arrivals.any (fun a => (y.warp? a.warp).any (fun v => v.index == i)))
    let missing := (List.range k.nwarps).filter (fun i => (y.cohort k c).testBit i && !here i)
    (8, c, sumOf (missing.map (fun i => 2 ^ i)))
  | .join _ => (9, 0, 0)
  | .binRoom die n => (10, ((y.bin? k.ctx die n).map (fun x => bits x.cfg[0] 55 3 * 8)).getD 0, 0)
  | .ticket p _ => (11, ((y.armed? k.ctx p).map (fun t => y.ticketPA k.ctx t.no)).getD 0, 0)
  | _ => (0, 0, 0)

/-- A sub-warp's arrival at an MMQ instance is withdrawn (R368). -/
def Sys.leaveMmq (y : Sys) (warp sub : Nat) : Sys :=
  let cut := y.mmqs.map (fun m => { m with arrivals := m.arrivals.filter (fun x => !(x.warp == warp && x.sub == sub)) })
  { y with mmqs := cut.filter (fun m => !m.arrivals.isEmpty) }

/-- A sub-warp's wait is abandoned. In handler mode there is no word to pass over at a clause boundary: its clause starts without the
wait (R449). -/
def Warp.abandon (w : Warp) (b : Sub) : Sub :=
  match w.handler, b.wait with
  | some d, .flags _ => { b with wait := if d.has b.id then .abandoned else .none }
  | _, _ => { b with wait := .none }

/-- A sub-warp traps HANG at its waiting instruction, with the KIND of its wait, and its wait is abandoned. WAITX has no KIND,
and its TVAL is a free value (log 6). -/
def hangTrap (w : Warp) (k : Block) (b : Sub) (ext : Bool) (s : State) : Upd :=
  let kind := (s.sys.waitRecord k b).1
  let y := if kind = 0 then s.sys.useFree 1 else s.sys
  let v := if kind = 0 then s.sys.freeAt 0 else BitVec.ofNat 64 kind
  let b1 := w.abandon b
  let w1 := w.setSub (some b.id) b1
  takePrecise { s with sys := (y.leaveMmq w.id b.id).setWarp w1 } w1 b1 { trapOf .hang v with ext }

/-- A warp traps HANG where it waits internally. -/
def trapHang (id : Nat) (s : State) : Upd :=
  match s.sys.warp? id with
  | none => .of s.sys
  | some w =>
    match s.sys.hangSub w (· == .internal), s.sys.block? w.block with
    | some b, some k => hangTrap w k b false s
    | _, _ => .of s.sys

/-- The records of the wait-for graph, by core, partition and slot. -/
def Sys.waitGraph (y : Sys) (ctx : Nat) : List (List Byte) :=
  let order := fun w : Warp =>
    ((y.block? w.block).map (fun k => (k.core * 8 + w.part) * 16 + w.slot)).getD 0
  let ws := (y.warpsOf ctx).foldr (insertBy order) []
  ws.filterMap (fun w =>
    match y.block? w.block, y.hangSub w (· == .internal) with
    | some k, some b =>
      let r := y.waitRecord k b
      some (leBytes 2 k.core ++ leBytes 1 w.part ++ leBytes 1 w.slot ++ leBytes 4 r.1 ++ leBytes 8 r.2.1 ++
        leBytes 8 b.pc.toNat ++ leBytes 8 r.2.2)
    | _, _ => none)

/-- The wait-for graph is written to the diagnostic area, and the host receives an event, whose TYPE and arguments the
manual does not give (log 6). -/
def writeGraph (ctx : Nat) (s : State) : Upd :=
  let base := bits (s.sys.context ctx).hangcfg 35 0 * 4096
  if base = 0 then .of s.sys
  else
    let l := s.sys.waitGraph ctx
    let n := Nat.min l.length 126
    let head := leBytes 4 n ++ leBytes 4 (if 126 < l.length then 1 else 0) ++ leBytes 8 s.sys.clk ++ leBytes 4 ctx ++
      List.replicate 44 0
    let y := s.sys
    let put := match y.ctlFate ctx [(mainKey 0 base, 4096, true)] with
      | .frozen hit => freezeContext s .host ctx hit
      | .go _ | .wait _ | .broken _ => hostPut (mainKey 0 base) (head ++ (l.take 126).flatten) s
    Upd.andThen s put (fun t =>
      raiseEvent { t with sys := t.sys.useFree 3 } ((y.freeAt 0).toNat % 2 ^ 16) ctx (y.freeAt 1) (y.freeAt 2))

/-- HANG_DETECT (R437). -/
def execHangDetect (ctx : Nat) (s : State) : Host.Outcome State Fault Refusal :=
  machineStep s (recallFirst s (
    let c := s.sys.context ctx
    if !c.hangcfg.getLsbD 63 || c.frozen || c.hang < 2 ^ bits c.hangcfg 53 48 then idle s
    else
      let ids := (s.sys.warpsOf ctx).map (·.id)
      Upd.andThen s (writeGraph ctx s) (fun t =>
        let y := t.sys.setContext ctx { t.sys.context ctx with hang := 0 }
        Upd.each { t with sys := y } trapHang ids)))

/-- EXTERNAL_TIMEOUT (R438). -/
def execExternalTimeout (w sub : Nat) (s : State) : Host.Outcome State Fault Refusal :=
  machineStep s (
    match s.sys.warp? w with
    | none => idle s
    | some x =>
      match s.sys.block? x.block, x.sub? (some sub) with
      | some k, some b =>
        let c := s.sys.context k.ctx
        let v := c.hangcfg
        if !v.getLsbD 62 || c.frozen || s.sys.waitKind x k b != .external || b.ext.1 != b.since || b.ext.2 < 2 ^ bits v 41 36
        then idle s
        else hangTrap x k b true s
      | _, _ => idle s)

end Sys2Proof.Machine
end

