-- ==== Sys2Proof/Machine/Launch.lean ====
section
/-! DEFINITION. Launches: queues, validation, claiming, placement, and the ends of blocks and grids (R61, R128, R165 to
R169, R417 to R426). -/

namespace Sys2Proof.Machine

/-! ### Queues (R418, R419) -/

/-- The records between head and tail. -/
def Queue.length (q : Queue) : Nat := (q.tail - q.head).toNat

/-- QUEUE_TAIL_REREAD (R418): more LPBs than the ring holds is a queue error. A control line that no region opens to the queue's context
freezes it (R54, R55), and one that its home cannot read is not read (log 128). -/
def execQueueTailReread (q : Nat) (s : State) : Host.Outcome State Fault Refusal :=
  machineStep s (
    let x := s.sys.ctl.queue q
    let ctx := qcfgCtx x.cfg
    let line := mainKey 0 (qcfgBase x.cfg)
    if !qcfgEn x.cfg || (s.sys.context ctx).frozen then idle s
    else match s.sys.ctlFate ctx [(line, 4, false)] with
    | .frozen hit => freezeContext s .host ctx hit
    | .wait y => .of y
    | .broken _ => idle s
    | .go y =>
      let x1 := { x with tail := BitVec.ofNat 32 (s.mem.value line 4) }
      if x1.length ≤ qcfgSize x.cfg then .of (y.setQueue q x1)
      else
        let off := { x1 with cfg := x.cfg &&& ~~~(1#64 <<< 63) }
        Upd.andThen s (.of (y.setQueue q off)) (fun t => raiseEvent t 3 ctx (BitVec.ofNat 64 q) 0))

/-- The queue has an LPB that may be taken. -/
def Sys.queueReady (y : Sys) (x : Queue) : Bool :=
  let c := y.context (qcfgCtx x.cfg)
  qcfgEn x.cfg && x.length != 0 && decide (x.length ≤ qcfgSize x.cfg) && !c.frozen && !c.held

/-- The queue that is served next: the highest PRIO, and the queues of one PRIO in their own round-robin order (R419). -/
def Sys.nextQueue (y : Sys) : Option Nat :=
  let ready := y.ctl.queues.filter (fun e => y.queueReady e.2)
  let top := (ready.map (fun e => qcfgPrio e.2.cfg)).foldl Nat.max 0
  let best := (ready.filter (fun e => qcfgPrio e.2.cfg == top)).map (·.1)
  match best.find? (fun n => decide (y.ctl.lastQueue.toList.getD top 0 < n)) with
  | some n => some n
  | none => best.head?

/-! ### Reaching tables (R422) -/

/-- Why a check gives no answer yet, with the reads that wait at their homes (R89), or the status it gives, with the key that the
firewall refused. -/
inductive Unfit where
  | wait (reads : List (Nat × Nat))
  | status (code : Nat)
  | firewall (key : Nat)
  deriving DecidableEq, Repr

def lpbFault : Nat := 8

/-- The leaf of an address and the key behind it, when validation can reach it. -/
def reach (s : State) (ctx va n : Nat) (write : Bool) : Except Unfit (Word × Nat) :=
  if va ≥ 2 ^ 56 then .error (.status lpbFault)
  else if !walkQuiet s ctx va then .error (.wait ((walkReads s ctx va).map (fun k => (k, 8))))
  else match walk s ctx va with
    | .leaf l e =>
      let key := s.sys.homeKey (pteKind e) (leafPA l e va)
      if pteSparse e != 0 || (write && !pteW e) then .error (.status lpbFault)
      else if !s.sys.opens ctx key n write then .error (.firewall key)
      else .ok (e, s.sys.placed (pteTag e) key)
    | .firewall pa => .error (.firewall (mainKey 0 pa))
    | _ => .error (.status lpbFault)

/-- Words of a table, from its first on. -/
def tableWords (s : State) (ctx va : Nat) : Nat → Except Unfit (List Word)
  | 0 => .ok []
  | n + 1 =>
    match reach s ctx va 8 false with
    | .error u => .error u
    | .ok (_, key) =>
      if !s.sys.quiet key 8 then .error (.wait [(key, 8)])
      else if (s.sys.accessFails key 8 true).isSome then .error (.status lpbFault)
      else match tableWords s ctx (va + 8) n with
        | .error u => .error u
        | .ok r => .ok (s.mem.word key :: r)

/-- A table that a word of the LPB names, when it names one and the address is aligned. -/
def lpbTable (s : State) (ctx : Nat) (w : Word) (align n : Nat) : Except Unfit (Option (List Word)) :=
  if w = 0 || w.toNat % align != 0 then .ok none
  else match tableWords s ctx w.toNat n with
    | .error u => .error u
    | .ok l => .ok (some l)

/-- The home caches after addresses have been reached, and, where `data` says so, read, one after another up to one that cannot be reached (R69, R149). -/
def reachFills (s : State) (ctx : Nat) (y : Sys) : List (Nat × Nat × Bool) → Sys
  | [] => y
  | (va, n, data) :: r =>
    let y1 := if va < 2 ^ 56 then walkFills s ctx va y else y
    match reach s ctx va n false with
    | .ok (_, key) => reachFills s ctx (if data then y1.fillFor key n false ctx (va / 65536) else y1) r
    | .error _ => y1

/-- The pieces of a range that lie within one sector each. -/
def sectorPieces (va n : Nat) : List (Nat × Nat × Bool) :=
  ((List.range (if n = 0 then 0 else (va + n - 1) / 64 - va / 64 + 1)).map (fun i =>
    let lo := Nat.max va ((va / 64 + i) * 64)
    (lo, Nat.min (va + n) ((va / 64 + i + 1) * 64) - lo, true)))

/-! ### Validation (R166, R168, R169, R174, R421, R422) -/

/-- Four words of an entry. -/
def quads : List Word → List (List Word)
  | a :: b :: c :: d :: r => [a, b, c, d] :: quads r
  | _ => []

/-- The present roles of a role table; none where R166 is broken. -/
def rolesOf (l : List Word) (warps : Nat) : Option (List Role) :=
  let es := quads l
  let present := fun e : List Word => (e.getD 2 0).getLsbD 63
  let ok := fun e : List Word =>
    let f := e.getD 2 0
    e.getD 3 0 == 0 && bits f 62 14 == 0 && bits f 7 6 == 0 &&
      (!present e || (1 ≤ bits f 13 8 && bits f 13 8 ≤ 32 && 1 ≤ bits f 5 0 && bits f 5 0 ≤ 48))
  let n := (es.takeWhile present).length
  let rs := (es.take n).map (fun e =>
    ({ entry := e.getD 0 0, access := e.getD 1 0, budget := 8 * bits (e.getD 2 0) 13 8, warps := bits (e.getD 2 0) 5 0 } : Role))
  if es.all ok && !(es.drop n).any present && sumOf (rs.map (·.warps)) == warps then some rs else none

/-- The mask of `n` warps from index `i` on. -/
def warpMask (i n : Nat) : Nat := (2 ^ n - 1) * 2 ^ i

/-- The role cohorts: cohort r is the warps of role r (R168). -/
def roleCohorts (i : Nat) : List Role → List Nat
  | [] => []
  | r :: rest => warpMask i r.warps :: roleCohorts (i + r.warps) rest

/-- The warps of a mask. -/
def maskWarps (m : Nat) : List Nat := (List.range 48).filter (fun w => m.testBit w)

/-- An entry of a cohort table satisfies R169. -/
def cohortOk (warps i : Nat) (e : Word) : Bool :=
  let m := bits e 47 0
  if !e.getLsbD 63 then e == 0
  else
    decide (4 ≤ i) && bits e 61 48 == 0 && m != 0 && m / 2 ^ warps == 0 &&
      (!e.getLsbD 62 || ((maskWarps m).length == 4 && ((maskWarps m).map (· % 6)).eraseDups.length == 4))

/-- The cohort table with the role cohorts filled in; none where R169 is broken. -/
def cohortsOf (l : List Word) (roles : List Role) (warps : Nat) : Option (List Word) :=
  let rc := (roleCohorts 0 roles).map (fun m => BitVec.ofNat 64 (2 ^ 63 + m))
  let all := rc ++ (l.drop rc.length)
  let counts := (List.range warps).map (fun w => (all.filter (fun e => e.getLsbD 63 && e.getLsbD w)).length)
  if (l.zipIdx.all (fun x => cohortOk warps x.2 x.1)) && counts.all (fun n => decide (n ≤ 4)) then some all else none

/-- An entry of a bin table has every field in range and no reserved bit set (R174). -/
def binEntryOk (e : List Word) : Bool :=
  let a := e.getD 0 0
  let b := e.getD 1 0
  let c := e.getD 2 0
  let d := e.getD 3 0
  if !a.getLsbD 0 then e.all (· == 0)
  else
    bits a 63 56 == 0 && bits a 2 1 == 0 && bits b 63 56 == 0 && bits b 5 5 == 0 && bits c 31 31 == 0 &&
      bits c 14 13 == 0 && bits c 7 0 == 0 && bits d 63 32 == 0 && bits d 15 7 == 0 &&
      6 ≤ bits b 4 0 && bits b 4 0 ≤ 20 && (bits b 55 6 * 64) % (64 * 2 ^ bits b 4 0) == 0 &&
      1 ≤ bits c 30 25 && bits c 30 25 ≤ 32 && bits d 6 0 ≤ 64

/-- The ring of a valid entry: its address and length in bytes, where the fields name one. -/
def entryRing (e : List Word) : Option (Nat × Nat) :=
  let b := e.getD 1 0
  if (e.getD 0 0).getLsbD 0 && 6 ≤ bits b 4 0 && bits b 4 0 ≤ 20 then some (bits b 55 6 * 64, 64 * 2 ^ bits b 4 0) else none

/-- The pages of a ring: all reached on KIND 00, or one on another KIND (R174). -/
def ringPages (s : State) (ctx : Nat) : List Nat → Except Unfit Bool
  | [] => .ok true
  | p :: r =>
    match reach s ctx (p * 65536) 64 true with
    | .error u => .error u
    | .ok (e, _) =>
      match ringPages s ctx r with
      | .error u => .error u
      | .ok b => .ok (b && pteKind e == 0)

/-- No two valid entries share a KEY. -/
def keysDistinct (es : List (List Word)) : Bool :=
  let keys := (es.filter (fun e => (e.getD 0 0).getLsbD 0)).map (fun e => bits (e.getD 0 0) 55 3)
  keys.eraseDups.length == keys.length

/-- The bin table satisfies R174; unreachable ring pages come first. -/
def binTableOk (s : State) (ctx : Nat) (l : List Word) : Except Unfit Bool :=
  let es := quads l
  let pages := (es.filterMap entryRing).flatMap (fun r => rangePages r.1 r.2)
  match ringPages s ctx pages with
  | .error u => .error u
  | .ok b => .ok (b && es.all binEntryOk && keysDistinct es)

/-- Bits 63:56 and 2:0 of an address are zero. -/
def entryOk (w : Word) : Bool := bits w 63 56 == 0 && bits w 2 0 == 0

/-- The fields of words 0 to 3, 6, 9 and 17 to 30 (R420, R421, R422). -/
def fieldsOk (w : List Word) : Bool :=
  let c := w.getD 3 0
  let n := w.getD 9 0
  let vb := bits c 13 8
  entryOk (w.getD 0 0) && entryOk (w.getD 1 0) && entryOk (w.getD 6 0) && entryOk (w.getD 17 0) &&
  bits c 63 41 == 0 && bits c 40 34 ≤ 64 && bits c 33 25 ≤ 256 && bits c 24 14 ≤ 1024 &&
  (if w.getD 4 0 = 0 then 1 ≤ vb && vb ≤ 32 else vb == 0) && 1 ≤ bits c 5 0 && bits c 5 0 ≤ 48 &&
  bits n 63 44 == 0 && bits n 31 22 == 0 && bits n 15 9 == 0 && bits n 7 2 == 0 &&
  bits (w.getD 18 0) 63 6 == 0 && ((w.drop 19).take 12).all (· == 0)

/-- The blocks of an empty core: how many of a need fit by the totals of R59, up to `n`. -/
def emptyFit (d : Need) : Nat → Nat
  | 0 => 0
  | k + 1 =>
    let m := k + 1
    if decide (m * (d.scr + d.spill * d.budgets.length) ≤ 0x400000) && decide (m * d.zt ≤ 256) &&
        (List.range 6).all (fun p => decide (m * sumOf (d.inPart p) ≤ 1536) && decide (m * (d.inPart p).length ≤ 16)) then m
    else emptyFit d k

/-- The grid of a checked LPB, before its tables. -/
def lpbGrid (launch ctx : Nat) (slot : Nat) (w : List Word) (prio : Nat) : Grid where
  launch := launch
  ctx := ctx
  slotPA := BitVec.ofNat 64 slot
  lpb := firstRegs 32 w
  binTable := []
  prio := Nat.min (bits (w.getD 9 0) 1 0) prio
  roles := [{ entry := w.getD 0 0, access := w.getD 1 0, budget := 8 * bits (w.getD 3 0) 13 8, warps := bits (w.getD 3 0) 5 0 }]
  cohorts := Vector.replicate 256 0
  ticketKey := 0
  state := .accepted
  judged := false
  exhausted := false
  installs := []
  claims := []
  assigned := []
  ended := []
  raised := []
  accept := 0

/-- The dies of a mask. -/
def maskDies (m : Nat) : List Nat := (List.range 6).filter (fun d => m.testBit d)

/-- The tables of the LPB: reached first, then checked (R422 code 5). -/
def lpbTables (s : State) (g : Grid) (w : List Word) : Except Unfit Grid :=
  match lpbTable s g.ctx (w.getD 4 0) 32 16, lpbTable s g.ctx (w.getD 5 0) 8 256, lpbTable s g.ctx (w.getD 16 0) 32 256 with
  | .ok r, .ok c, .ok b =>
    match (match b with
      | some l => binTableOk s g.ctx l
      | none => .ok (w.getD 16 0 == 0)) with
    | .error u => .error u
    | .ok binsOk =>
      let roles := match r with
        | some l => rolesOf l g.warps
        | none => if w.getD 4 0 = 0 then some g.roles else none
      match roles with
      | none => .error (.status 5)
      | some rs =>
        let cohorts := match c with
          | some l => cohortsOf l rs g.warps
          | none => if w.getD 5 0 = 0 then cohortsOf (List.replicate 256 0) rs g.warps else none
        match cohorts with
        | none => .error (.status 5)
        | some cs =>
          if !binsOk then .error (.status 5)
          else .ok { g with roles := rs, cohorts := firstRegs 256 cs, binTable := b.getD [] }
  | .error u, _, _ => .error u
  | _, .error u, _ => .error u
  | _, _, .error u => .error u

/-- Validation (R422): the grid, or the first status. -/
def validateLpb (s : State) (launch ctx slot prio : Nat) (w : List Word) : Except Unfit Grid :=
  let g0 := lpbGrid launch ctx slot w prio
  let stop := fun n : Nat => (Except.error (.status n) : Except Unfit Grid)
  if bits (w.getD 9 0) 43 32 != ctx then stop 1
  else if !fieldsOk w then stop 2
  else if g0.blocks = 0 || g0.blocks % g0.clusterSize != 0 then stop 3
  else if g0.diemask = 0 || (maskDies g0.diemask).any (fun d => (s.sys.die d).halted || s.sys.frozenBy (.proc d)) then stop 4
  else match lpbTables s g0 w with
    | .error u => .error u
    | .ok g =>
      let k := emptyFit g.need 96
      if k = 0 then stop 6
      else if g.coop && (maskDies g.diemask).length * 10 * (4 * k / g.clusterSize) * g.clusterSize < g.blocks then stop 7
      else match reach s ctx (w.getD 6 0).toNat 8 true with
        | .error u => .error u
        | .ok (e, key) =>
          if pteKind e != 0 || (s.sys.accessFails key 8 false).isSome then stop lpbFault else .ok { g with ticketKey := key }

/-- What the validation of an LPB reads, in order, when it comes to its tables: those that it names, the first word of each page of a ring, and the ticket counter's page. -/
def lpbReads (s : State) (ctx : Nat) (w : List Word) : List (Nat × Nat × Bool) :=
  let table := fun (a : Word) (align n : Nat) => if a = 0 || a.toNat % align != 0 then [] else sectorPieces a.toNat n
  let rings := match lpbTable s ctx (w.getD 16 0) 32 256 with
    | .ok (some l) => ((quads l).filterMap entryRing).flatMap (fun r => (rangePages r.1 r.2).map (fun p => (p * 65536, 64, false)))
    | _ => []
  table (w.getD 4 0) 32 128 ++ table (w.getD 5 0) 8 2048 ++ table (w.getD 16 0) 32 2048 ++ rings ++ [((w.getD 6 0).toNat, 8, false)]

/-- The home caches after an LPB has been read and judged; one that fails a check of words has had no table read. -/
def lpbFills (s : State) (ctx slot : Nat) (w : List Word) (judged : Except Unfit Grid) : Sys :=
  let y := s.sys.fillFor (mainKey 0 slot) 256 false ctx 0
  let tables := match judged with
    | .error (.status n) => decide (5 ≤ n)
    | _ => true
  if tables then reachFills s ctx y (lpbReads s ctx w) else y

/-! ### Taking an LPB (R419) -/

/-- The slot's word 31 and the control line's HEAD, written by the control die. -/
def lpbDone (slot line : Nat) (launch code : Nat) (head : BitVec 32) (s : State) : Upd :=
  Upd.andThen s (hostPut (mainKey 0 (slot + 248)) (leBytes 8 (launch * 2 ^ 32 + code)) s)
    (hostPut (line + 8) (leBytes 4 head.toNat))

/-- LPB_TAKE (R419): the LPB is read, validated, answered and passed. -/
def execLpbTake (q : Nat) (s : State) : Host.Outcome State Fault Refusal :=
  machineStep s (recallFirst s (
    let x := s.sys.ctl.queue q
    let ctx := qcfgCtx x.cfg
    let slot := slotPA x.cfg x.head.toNat
    let line := mainKey 0 (qcfgBase x.cfg)
    let key := mainKey 0 slot
    let own := [(key, 256, false), (key + 248, 8, true), (line + 8, 4, true)].find? (fun a => !s.sys.opens ctx a.1 a.2.1 a.2.2)
    if s.sys.nextQueue != some q || s.sys.ctl.held then idle s
    else match own with
    | some a => freezeContext s .host ctx (a.1, a.2.2)
    | none =>
      if !s.sys.quiet key 256 then .of (s.sys.holdRead .control [(key, 256)])
      else
      let launch := s.sys.ctl.launches.toNat
      let words := s.mem.words key 32
      let judged := if (s.sys.accessFails key 256 true).isSome then .error (.status lpbFault)
        else validateLpb s launch ctx slot (qcfgPrio x.cfg) words
      let head := x.head + 1
      let y0 := (lpbFills s ctx slot words judged).setQueue q { x with head }
      let y := { y0 with ctl := { y0.ctl with lastQueue := y0.ctl.lastQueue.setIfInBounds (qcfgPrio x.cfg) q, launches := y0.ctl.launches + 1 } }
      let reject := fun (code : Nat) (t : State) =>
        Upd.andThen t (lpbDone slot line launch code head t)
          (fun t1 => raiseEvent t1 2 ctx (BitVec.ofNat 64 launch) (BitVec.ofNat 64 code))
      match judged with
      | .error (.wait l) => .of (s.sys.holdRead .control l)
      | .error (.status code) => reject code { s with sys := y }
      | .error (.firewall k) =>
        let die := (maskDies (bits (words.getD 9 0) 21 16)).headD 0
        Upd.andThen s (.of y) (fun t => Upd.andThen t (freezeContext t (.proc die) ctx (k, false)) (reject lpbFault))
      | .ok g =>
        if s.sys.frozenFrame g.ticketKey then idle s
        else
        let y1 := { y with grids := y.grids ++ [{ g with accept := y.time.now }] }
        Upd.andThen s (.of y1) (fun t => Upd.andThen t (lpbDone slot line launch 0 head t)
          (hostPut g.ticketKey (leBytes 8 0)))))

/-- GRID_BROADCAST (R128, R422, R423): the ticket counter's reset and the input witness are settled. A bad witness never
is, and the grid never starts. -/
def execGridBroadcast (grid : Nat) (s : State) : Host.Outcome State Fault Refusal :=
  machineStep s (
    match s.sys.grid? grid with
    | none => idle s
    | some g =>
      let c := s.sys.context g.ctx
      let hostDone := !s.sys.unseen.any (fun u => u.origin == .host && decide (u.tick ≤ g.accept))
      if g.state != .accepted || g.judged || c.frozen || c.held || s.sys.ctl.held || !hostDone ||
          s.sys.settled controlReader (mkWit 2 0 g.accept) != .yes then idle s
      else match s.sys.settled controlReader g.lpb[8] with
        | .wait => idle s
        | .bad => .of (s.sys.setGrid { g with judged := true })
        | .yes =>
          let dies := maskDies g.diemask
          .of (s.sys.setGrid { g with
            state := .running, judged := true
            installs := if g.binTable.isEmpty then [] else dies
            raised := dies.map (fun d => (d, (s.sys.time.cycle, 0))) }))

/-! ### Claiming and placement (R423 to R425) -/

/-- The claims of flat indices from `t` up to `fin`, cut at the ends of launch clusters. They keep the wait and the raised class of
the turn that made them until they are placed (R429, log 24). -/
def claimsFrom (die size cycle : Nat) (wait : Nat × Nat) (t fin : Nat) : Nat → List Claim
  | 0 => []
  | n + 1 =>
    if fin ≤ t then []
    else
      let stop := Nat.min fin ((t / size + 1) * size)
      { die, flat := t, count := stop - t, cycle, since := wait.1, raised := wait.2 } ::
        claimsFrom die size cycle wait stop fin n

/-- BLOCK_CLAIM (R423): an atomic add to the ticket counter, where its page lies now (R51), for as many clusters as the die has
room for. While the page cannot be reached, nothing is claimed (log 93). The claim's request tag is the grid's context and page 0 (log 102). -/
def execBlockClaim (grid die : Nat) (s : State) : Host.Outcome State Fault Refusal :=
  machineStep s (recallFirst s (
    match s.sys.grid? grid with
    | none => idle s
    | some g =>
      let size := g.clusterSize
      if s.sys.turn die != some (.grid grid) then idle s
      else match reach s g.ctx (g.lpb[6]).toNat 8 true with
      | .error (.firewall k) => freezeContext s (.proc die) g.ctx (k, true)
      | .error (.wait l) => .of (s.sys.holdRead .control l)
      | .error (.status _) => idle s
      | .ok (_, key) =>
      if s.sys.frozenFrame key || (s.sys.accessFails key 8 true).isSome then idle s
      else if !s.sys.quiet key 8 then .of (s.sys.holdRead .control [(key, 8)])
      else
        let amount := size * s.sys.roomFor g die (16 / size)
        let t := s.mem.value key 8
        let claims := claimsFrom die size s.sys.time.cycle (Table.getD g.raised die (s.sys.time.cycle, 0)) t
          (Nat.min (t + amount) g.blocks) 17
        let flats := claims.flatMap (fun c => (List.range c.count).map (fun i => (c.flat + i, die)))
        let g1 := { g with
          claims := g.claims ++ claims
          assigned := g.assigned ++ flats
          exhausted := g.exhausted || decide (g.blocks ≤ t + amount)
          raised := Table.set g.raised die (s.sys.time.cycle, 0) }
        let y := walkFills s g.ctx (g.lpb[6]).toNat ((s.sys.served die (.grid grid)).setGrid g1)
        { sys := (y.fillFor key 8 true g.ctx 0).performed (.proc die) y.time.now key 8 0,
          stores := [.bytes key (leBytes 8 ((t + amount) % 2 ^ 64))] }))

/-- CLUSTER_PLACEMENT (R424): the claimed blocks whose turn it is are placed. -/
def execClusterPlacement (grid die : Nat) (s : State) : Host.Outcome State Fault Refusal :=
  machineStep s (
    match s.sys.grid? grid, s.sys.turn die with
    | some g, some (.claimed launch flat) =>
      match g.claims.find? (fun c => launch == grid && c.die == die && c.flat == flat) with
      | none => idle s
      | some c =>
        match s.sys.placeCluster g die c.flat c.count with
        | none => idle s
        | some y => .of (y.setGrid { g with claims := g.claims.erase c })
    | _, _ => idle s)

/-- The clusters of a cooperative grid from number `next` on, as many as a die takes, up to `n`. -/
def fillDie (g : Grid) (die : Nat) : Nat → Sys × Nat → Sys × Nat
  | 0, x => x
  | n + 1, (y, next) =>
    match y.placeCluster g die (next * g.clusterSize) g.clusterSize with
    | none => (y, next)
    | some y1 => fillDie g die n (y1, next + 1)

/-- COOP_PLACEMENT (R425): the whole grid, die by die in flat-index order. -/
def execCoopPlacement (grid : Nat) (s : State) : Host.Outcome State Fault Refusal :=
  machineStep s (
    match s.sys.grid? grid with
    | none => idle s
    | some g =>
      let dies := maskDies g.diemask
      let total := g.blocks / g.clusterSize
      let c := s.sys.context g.ctx
      if g.state != .running || !g.coop || g.exhausted || !g.installs.isEmpty || c.frozen || c.held ||
          !dies.all s.sys.diePlaces then idle s
      else
        let r := dies.foldl (fun x d => fillDie g d (total - x.2) x) (s.sys, 0)
        if r.2 < total then idle s
        else
          let mine := (r.1.blocks.filter (fun k => k.launch == grid && !k.isTask)).map (fun k => (k.flat, dieOf k.core))
          .of (r.1.setGrid { g with exhausted := true, assigned := mine }))

/-! ### Starts and ends (R60, R61, R167, R426) -/

/-- BLOCK_START (R167): the storage of the placed blocks of a cluster is zeroed, and their gangs start together. -/
def execBlockStart (grid cluster : Nat) (s : State) : Host.Outcome State Fault Refusal :=
  machineStep s (
    match s.sys.grid? grid with
    | none => idle s
    | some g =>
      let mine := s.sys.blocks.filter (fun k =>
        k.launch == grid && !k.isTask && k.flat / g.clusterSize == cluster && !k.started)
      if (s.sys.context g.ctx).frozen || s.sys.ctl.held then idle s
      else Upd.each s (fun k t => clearBlock { k with started := true } t) mine)

/-- The block's warps have exited, and its operations have completed; a task's own signal is not one of them. -/
def Sys.blockOver (y : Sys) (k : Block) : Bool :=
  k.started && !k.ending && !y.warps.any (fun w => w.block == k.id) &&
    !y.saved.any (fun b => b.block.id == k.id) && !y.ops.any (fun p => p.block == k.id && !p.isSignal)

/-- Barrier and MMQ instances of blocks that are gone. -/
def Sys.dropInstances (y : Sys) (owner : Nat) : Sys :=
  { y with barriers := y.barriers.filter (fun b => !((b.key.lvl == .blk || b.key.lvl == .coh || b.key.lvl == .clu) &&
             b.key.owner == owner)),
           mmqs := y.mmqs.filter (fun m => m.block != owner) }

/-- The blocks of a launch cluster leave together: the shared allocation of each stays until every one has ended. -/
def Sys.releaseCluster (y : Sys) (first : Nat) : Sys :=
  let mine := y.blocks.filter (fun k => k.first == first)
  let saved := y.saved.any (fun b => b.block.first == first)
  if mine.all (·.ending) && !saved then
    let y1 := { y with blocks := y.blocks.filter (fun k => k.first != first) }
    (mine.foldl (fun z k => z.dropInstances k.id) y1).dropInstances first
  else y

/-- A pre-emption request is over once it names no block on a core. -/
def Sys.tidyPreempts (y : Sys) : Sys :=
  { y with preempts := y.preempts.filter (fun p => y.blocks.any (fun k => unitNames p.unit k && !k.ending)) }

/-- An aborted grid is forgotten once none of its blocks is left. -/
def Sys.dropAborted (y : Sys) (launch : Nat) : Sys :=
  let left := y.blocks.any (fun k => !k.isTask && k.launch == launch) ||
    y.saved.any (fun b => !b.block.isTask && b.block.launch == launch)
  { y with grids := y.grids.filter (fun g => !(g.launch == launch && g.state == .aborted && !left)) }

/-- BLOCK_END (R61, R173, R426). An engine task ends here; a warp task has ended with its warp (R179). -/
def execBlockEnd (block : Nat) (s : State) : Host.Outcome State Fault Refusal :=
  machineStep s (
    match s.sys.block? block with
    | none => idle s
    | some k =>
      if !s.sys.blockOver k then idle s
      else
        let y := ((s.sys.setBlock { k with ending := true }).releaseCluster k.first).tidyPreempts
        match k.job with
        | .task _ _ _ _ => .of (if k.engineWarp.isSome then y.taskEnds k else y)
        | .grid launch flat =>
          match y.grid? launch with
          | none => .of y
          | some g => .of ((y.setGrid { g with ended := g.ended ++ [flat],
                                               accept := if g.ended.length < g.blocks then y.time.now else g.accept }).dropAborted launch))

/-- GRID_COMPLETE (R128, R426): the count of ended blocks has reached the block count, and every write their warps performed has had its two ticks to become
visible. The control die signals the completion counter. -/
def execGridComplete (grid : Nat) (s : State) : Host.Outcome State Fault Refusal :=
  machineStep s (
    match s.sys.grid? grid with
    | none => idle s
    | some g =>
      if g.state != .running || g.ended.length < g.blocks || s.sys.time.now < g.accept + 2 then idle s
      else
        let y := { s.sys with grids := s.sys.grids.filter (fun x => x.launch != grid) }
        let y1 := { y with barriers := y.barriers.filter (fun b =>
          !((b.key.lvl == .die || b.key.lvl == .grid) && b.key.owner == grid)) }
        let counter := g.lpb[7]
        if counter = 0 then .of y1
        else
          let die := (maskDies g.diemask).headD 0
          let p := procOp y1 (.dsig 0 none true false false) g.ctx (40 * die) 0
            (mkWit 2 0 y1.time.now) [counter, BitVec.ofNat 64 (grid % 2 ^ 32 * 2 ^ 32)]
          .of { y1 with ops := y1.ops ++ [p], nextId := y1.nextId + 1 })

end Sys2Proof.Machine
end

