-- ==== Sys2Proof/Machine/Preempt.lean ====
section
/-! DEFINITION. Pre-emption, restore and the context switch, and how a freeze is lifted (R80, R83, R368, R403, R415, R450, R454
to R460, R473). -/

namespace Sys2Proof.Machine

/-! ### The save area (R456 to R458) -/

/-- The save area of a context: its first byte and its length. -/
def Context.saveBase (c : Context) : Nat := bits c.savecfg 47 16 * 65536
def Context.saveSize (c : Context) : Nat := bits c.savecfg 63 48 * 65536

/-- The size of a warp frame (R457). -/
def Warp.frameSize (w : Warp) : Nat := 3072 + 136 * w.budget + (if w.access.isSome then 8704 else 0)

/-- The size of a block frame that holds everything (R458). -/
def Block.frameSize (k : Block) : Nat := k.scrSize + 16384 * k.zCount

/-- What is written of a bin table: of each bin the head and the tail of its ring, and the records in its hardware queue (R460; the layout
is log 78's). -/
def Bins.savedBytes (b : Bins) : List Byte :=
  b.bins.toList.flatMap (fun x => leBytes 4 x.head ++ leBytes 4 x.tail ++ x.hwq.flatMap (fun r => wordBytes r.words))

/-- The most that the save of a bin table can need. -/
def binsNeed : Nat := 64 * (8 + 32 * 64)

/-- The frames that a context's area holds: address and size. -/
def Sys.frames (y : Sys) (ctx : Nat) : List (Nat × Nat) :=
  (y.saved.filter (fun b => b.block.ctx == ctx)).flatMap (fun b =>
    b.warps.map (fun x => (x.frame, x.warp.frameSize)) ++
      (if b.out then [(b.frame, 4096 * b.grans.length + 16384 * b.tiles.length)] else [])) ++
  (y.savedContexts.filter (fun x => x.ctx == ctx)).flatMap (fun x =>
    x.dies.map (fun d => (d.2.2, 16 * 2 ^ 20 * bits d.2.1 3 0)) ++
      (if x.bins.isEmpty then [] else [(x.binAt, (x.bins.flatMap Bins.savedBytes).length)]))

/-- Where the next frame goes: behind the directory and every frame (log 30). -/
def Sys.nextFrame (y : Sys) (ctx : Nat) : Nat :=
  ((y.frames ctx).map (fun f => f.1 + f.2)).foldl Nat.max ((y.context ctx).saveBase + 4096)

/-- So many more bytes fit in the area. -/
def Sys.saveFits (y : Sys) (ctx need : Nat) : Bool :=
  let c := y.context ctx
  c.saveSize != 0 && decide (y.nextFrame ctx + need ≤ c.saveBase + c.saveSize)

/-- What the blocks of a unit need, saved whole. -/
def Sys.saveNeed (y : Sys) (l : List Block) : Nat :=
  sumOf (l.map (fun k => k.frameSize + sumOf ((y.warps.filter (fun w => w.block == k.id)).map Warp.frameSize)))

/-- The blocks that have been granted a pre-emption and are not all saved yet, with the blocks of a new request (R456). -/
def Sys.owing (y : Sys) (ctx : Nat) (more : List Block) : List Block :=
  y.blocks.filter (fun k => k.ctx == ctx && !k.ending && k.engineWarp.isNone &&
    (more.any (fun m => m.id == k.id) || y.preempts.any (fun p => unitNames p.unit k)))

/-- What a switch of a context still has to write besides its blocks. -/
def Sys.switchOwes (y : Sys) (ctx : Nat) : Nat :=
  match y.switching with
  | some w =>
    if w.out != ctx then 0
    else
      let x := (y.savedContexts.find? (fun x => x.ctx == ctx)).getD { ctx, bins := [], binAt := 0, dies := [] }
      sumOf (((List.range 6).filter (fun d => !x.dies.any (fun e => e.1 == d))).map (fun d => y.dieScratch d ctx)) +
        binsNeed * (y.bins.filter (fun b => b.ctx == ctx)).length
  | none => 0

/-- What a context's area must still take if the blocks of a request are saved, whole, beside all that is owed (R456). -/
def Sys.saveOwes (y : Sys) (ctx : Nat) (more : List Block) : Nat := y.saveNeed (y.owing ctx more) + y.switchOwes ctx

/-- What a control-die access to a context's save area comes to: the accesses are (location, length, whether it writes). One that no
region opens to the context freezes it (R54, R55); a context so frozen waits. Its reads wait at their homes for writes that are not visible
(R89), and go through the home caches (R149). -/
def saveGuard (ctx die : Nat) (l : List (Nat × Nat × Bool)) (s : State) (u : Upd) : Upd :=
  let reads := (l.filter (fun x => !x.2.2)).map (fun x => (x.1, x.2.1))
  match l.find? (fun x => !s.sys.opens ctx x.1 x.2.1 x.2.2) with
  | some x => if (s.sys.context ctx).frozen then idle s else freezeContext s (.proc die) ctx (x.1, x.2.2)
  | none =>
    if reads.any (fun x => !s.sys.quiet x.1 x.2) then .of (s.sys.holdRead .control reads)
    else recallFirst s { u with sys := reads.foldl (fun z x => z.fillFor x.1 x.2 false ctx 0) u.sys }

/-! ### Requests and stops (R414, R454) -/

/-- The context that a request names (R454). -/
def unitContext (u : PreemptUnit) (named : List Block) : Option Nat :=
  match u with
  | .context c => some c
  | _ => (named.head?).map (·.ctx)

/-- PREEMPT_REQUEST (R454, R456): NOSPACE where the frames would not fit, INVALID for a block that is part of a launch cluster, or for a unit
that names none (log 78). -/
def execPreemptRequest (unit : PreemptUnit) (s : State) : Host.Outcome State Fault Refusal :=
  inputStep s (
    let y := s.sys
    let named := y.blocks.filter (fun k => unitNames unit k && !k.ending && k.engineWarp.isNone)
    let whole := match unit with
      | .block _ => named.all (fun k => k.size == 1)
      | _ => true
    match unitContext unit named with
    | none => .of (y.answered .invalid)
    | some ctx =>
      if !whole then .of (y.answered .invalid)
      else if !y.saveFits ctx (y.saveOwes ctx named) then .of (y.answered .noSpace)
      else if named.isEmpty || y.preempts.any (fun p => p.unit == unit) then .of (y.answered .ok)
      else .of (({ y with preempts := y.preempts ++ [{ unit, cycle := y.time.cycle }] } : Sys).answered .ok))

/-- The header of the clause that a sub-warp would start permits pre-emption (R217). -/
def State.permitsHere (s : State) (w : Warp) (k : Block) (b : Sub) : Bool :=
  (((s.nextWord w k b).bind headerOf).map (·.pp)).getD false

/-- PREEMPT_TIMEOUT (R454): a sub-warp stops at its clause boundary, or at the word at which it waits. -/
def execPreemptTimeout (w sub : Nat) (s : State) : Host.Outcome State Fault Refusal :=
  machineStep s (
    match s.sys.warp? w with
    | none => idle s
    | some x =>
      match x.sub? (some sub), s.sys.block? x.block with
      | some b, some k =>
        match s.sys.preempting k with
        | none => idle s
        | some p =>
          let waited := s.sys.time.cycle - p.cycle
          let here := if b.wait = .none then
              b.place == .boundary && (s.permitsHere x k b || decide (2 ^ 21 ≤ waited))
            else b.wait != .debugger
          if waited < 2 ^ 20 || !here || b.stopped || !k.started || (s.sys.die (dieOf k.core)).halted || s.sys.ctl.held then
            idle s
          else .of (s.sys.setWarp { x.setSub (some sub) { b with stopped := true } with hint := none })
      | _, _ => idle s)

/-! ### Liveness records (R415) -/

/-- The scratch ranges of a record: first granule and length. -/
def liveRanges (l : List Word) : List (Nat × Nat) :=
  let a := l.getD 6 0
  let b := l.getD 7 0
  [(bits a 63 54, bits a 53 44), (bits a 43 34, bits a 33 24), (bits a 23 14, bits a 13 4), (bits b 63 54, bits b 53 44)]

/-- A record is in use and well formed, for an allocation of `n` granules. -/
def liveOk (n : Nat) (l : List Word) : Bool :=
  let b := l.getD 7 0
  b.getLsbD 0 && zeroBits b 26 1 && zeroBits (l.getD 6 0) 3 0 && decide (bits b 43 36 + bits b 35 27 ≤ 256) &&
    (liveRanges l).all (fun r => r.2 == 0 || decide (r.1 + r.2 ≤ n))

/-- The access that reads the record a hint named, or the table entry that no region opens (R54). -/
def hintAccess (s : State) (k : Block) (va : Nat) : List (Nat × Nat × Bool) :=
  match walk s k.ctx va with
  | .leaf l e =>
    if pteSparse e != 0 then [] else [(s.sys.placed (pteTag e) (s.sys.homeKey (pteKind e) (leafPA l e va)), 64, false)]
  | .firewall pa => [(mainKey 0 pa, 8, false)]
  | _ => []

/-- The record that a hint named, where it can be read and used (log 31). -/
def hintRecord (s : State) (k : Block) (va : Nat) : Option (List Word) :=
  match walk s k.ctx va with
  | .leaf l e =>
    let key := s.sys.placed (pteTag e) (s.sys.homeKey (pteKind e) (leafPA l e va))
    if pteSparse e != 0 || (s.sys.accessFails key 64 true).isSome then none
    else
      let ws := s.mem.words key 8
      if liveOk (k.scrSize / 4096) ws then some ws else none
  | _ => none

/-- V register v, and S register r, are live under a record; under none everything is. -/
def liveV (live : Option (List Word)) (v : Nat) : Bool :=
  match live with
  | none => true
  | some l => (l.getD (v / 64) 0).getLsbD (v % 64)

def liveS (live : Option (List Word)) (r : Nat) : Bool :=
  match live with
  | none => true
  | some l => (l.getD (4 + r / 64) 0).getLsbD (r % 64)

/-- The record as a frame holds it. -/
def frameRecord (live : Option (List Word)) : List Word :=
  live.getD [0xFFFFFFFFFFFFFFFF, 0xFFFFFFFFFFFFFFFF, 0xFFFFFFFFFFFFFFFF, 0xFFFFFFFFFFFFFFFF,
    0xFFFFFFFFFFFFFFFF, 0xFFFFFFFFFFFFFFFF, 0, BitVec.ofNat 64 (256 * 2 ^ 27 + 1)]

/-! ### Warp frames (R457) -/

/-- The 1,920 bytes of a control section that only the E12 interprets. -/
def controlSection (serial : Nat) : List Byte := (List.range 1920).map (Config.controlByte serial)

/-- The bytes of a queue entry. -/
def QEntry.bytes : QEntry → List Byte
  | .data l | .failed l _ _ _ _ => l.toList.flatMap (fun v => leBytes 4 v.toNat)
  | .marker v => leBytes 128 v.toNat

/-- The access sections of a frame: X0 to X31, the queue entries, and the state of queues and streams. -/
def Warp.accessBytes (w : Warp) (serial : Nat) : List Byte :=
  match w.access with
  | none => []
  | some a =>
    wordBytes a.xregs.toList ++
    w.queues.toList.flatMap (fun l => (List.range 16).flatMap (fun i => match l[i]? with
      | some e => e.bytes
      | none => List.replicate 128 0)) ++
    (List.range 256).map (fun i => Config.controlByte serial (1920 + i))

/-- A warp frame. What a record leaves out is written as zero. -/
def warpFrame (k : Block) (w : Warp) (live : Option (List Word)) (serial : Nat) : List Byte :=
  let b := w.subs.headD (newSub 0 0 0)
  let flags := (if live.isNone then 1 else 0) + (if w.handler.isSome then 2 else 0) + (if w.access.isSome then 4 else 0)
  leBytes 2 1 ++ leBytes 2 flags ++ leBytes 4 w.frameSize ++ leBytes 8 b.pc.toNat ++ leBytes 8 b.header.toNat ++
  leBytes 8 k.tskid.toNat ++ leBytes 4 (if k.isTask then 0 else w.index) ++ List.replicate 28 0 ++
  wordBytes (frameRecord live) ++ controlSection serial ++
  (List.range 128).flatMap (fun r => leBytes 8 (if liveS live r then (w.sn r).toNat else 0)) ++
  (List.range w.budget).flatMap (fun v => (List.range 32).flatMap (fun i => leBytes 4 (if liveV live v then (w.vl v i).toNat else 0))) ++
  (List.range w.budget).flatMap (fun v =>
    if liveV live v then leBytes 4 (w.shapes.toList.getD v 0x80).toNat ++ leBytes 4 (w.tops.toList.getD v 0).toNat
    else leBytes 4 0x80 ++ leBytes 4 0) ++
  w.accessBytes serial

/-- A sub-warp as it is saved: a word inside a clause is resumed from its header (R413, R459). -/
def Sub.saved (b : Sub) : Sub :=
  match b.place with
  | .inside c => { b with place := .resume c.addr }
  | _ => b

/-- The access context may be saved where it stands. -/
def Access.savable (a : Access) : Bool := a.ended || a.sub.place == .boundary || a.sub.wait != .none

/-- A warp as it is saved. -/
def Warp.saved (w : Warp) : Warp :=
  { w with subs := w.subs.map Sub.saved, hint := none, access := w.access.map (fun a => { a with sub := a.sub.saved }) }

/-! ### Block frames (R458) -/

/-- The granules and tiles that the records of a block's warps name. -/
def SavedBlock.named (b : SavedBlock) : List Nat × List Nat :=
  let n := b.block.scrSize / 4096
  if b.warps.any (fun x => x.live.isNone) then (List.range n, List.range b.block.zCount)
  else
    let ls := b.warps.filterMap (·.live)
    let tile := fun (l : List Word) (t : Nat) =>
      let v := l.getD 7 0
      decide (bits v 43 36 ≤ t) && decide (t < bits v 43 36 + bits v 35 27)
    ((List.range n).filter (fun g => ls.any (fun l => (liveRanges l).any (fun r => decide (r.1 ≤ g) && decide (g < r.1 + r.2)))),
     (List.range b.block.zCount).filter (fun t => ls.any (fun l => tile l t)))

/-- A block leaves its core: its frame is written, granules first, then tiles, each in ascending order (log 30). -/
def saveBlock (b : SavedBlock) (s : State) : Upd :=
  let k := (s.sys.block? b.block.id).getD b.block
  let n := b.named
  let at_ := s.sys.nextFrame k.ctx
  let lo := scratchKey k.core k.scrBase
  let grans := n.1.flatMap (fun g => s.mem.bytes (lo + 4096 * g) 4096)
  let tiles := n.2.flatMap (fun t => (k.accs (1024 * t) 1024).flatMap (fun v => leBytes 16 v.toNat))
  let bad := (s.sys.poison.filter (fun p => n.1.any (fun g => overlaps p 4 (lo + 4096 * g) 4096))).map (fun p => p - lo)
  let b1 : SavedBlock := { b with block := { k with acc := [] }, out := true, grans := n.1, tiles := n.2, frame := at_, poison := bad }
  let y := { s.sys with saved := s.sys.saved.map (fun x => if x.block.id == k.id then b1 else x),
                        blocks := s.sys.blocks.filter (fun x => x.id != k.id) }
  if (grans ++ tiles).isEmpty then .of y else hostPut (mainKey 0 at_) (grans ++ tiles) { s with sys := y }

/-- A block none of whose warps is saved, among the saved ones: it needs nothing (R454, R458). -/
def bareSaved (k : Block) : SavedBlock := { block := k, warps := [], out := false, grans := [], tiles := [], frame := 0, poison := [] }

/-- The blocks of a launch cluster that leave together: those with saved warps, and those whose warps have all exited, which take nothing with
them (R454, R458). -/
def Sys.leavers (y : Sys) (first : Nat) : List SavedBlock :=
  y.saved.filter (fun b => b.block.first == first && !b.out) ++
    ((y.blocks.filter (fun k => k.first == first && !y.saved.any (fun b => b.block.id == k.id))).map bareSaved)

/-- Some warp of a launch cluster has been saved, and no other is left on its cores. -/
def Sys.clusterStopped (y : Sys) (first : Nat) : Bool :=
  y.saved.any (fun b => b.block.first == first && !b.out) &&
    !y.warps.any (fun w => y.blocks.any (fun k => k.first == first && k.id == w.block))

/-- The blocks of a launch cluster leave once every warp of them has been saved or has exited. -/
def saveCluster (first : Nat) (s : State) : Upd :=
  if !s.sys.clusterStopped first then .of s.sys
  else
    let l := s.sys.leavers first
    let y := { s.sys with saved := s.sys.saved ++ l.filter (fun b => b.warps.isEmpty) }
    Upd.andThen s (Upd.each { s with sys := y } saveBlock l) (fun t => .of t.sys.tidyPreempts)

/-- The frames that `saveCluster` writes behind `at_`, as accesses. -/
def clusterFrames (l : List SavedBlock) (at_ : Nat) : List (Nat × Nat × Bool) :=
  match l with
  | [] => []
  | b :: r =>
    let n := b.named
    let size := 4096 * n.1.length + 16384 * n.2.length
    (if size = 0 then [] else [(mainKey 0 at_, size, true)]) ++ clusterFrames r (at_ + size)

/-- A warp joins the saved ones of its block. -/
def Sys.addSaved (y : Sys) (k : Block) (x : SavedWarp) : Sys :=
  if y.saved.any (fun b => b.block.id == k.id) then
    { y with saved := y.saved.map (fun b => if b.block.id == k.id then { b with warps := b.warps ++ [x] } else b) }
  else
    { y with saved := y.saved ++ [{ block := k, warps := [x], out := false, grans := [], tiles := [], frame := 0, poison := [] }] }

/-- MMQ arrivals of a warp are withdrawn (R368). -/
def Sys.withdrawMmq (y : Sys) (id : Nat) : Sys :=
  let cut := y.mmqs.map (fun m => { m with arrivals := m.arrivals.filter (fun x => x.warp != id) })
  { y with mmqs := cut.filter (fun m => !m.arrivals.isEmpty) }

/-- The warp may be written now (R393, R455): it stands still, none of its operations is outstanding, and for the last warp
of its launch cluster none of any block of it. -/
def Sys.maySave (y : Sys) (w : Warp) (k : Block) : Bool :=
  let mine := y.blocks.filter (fun b => b.first == k.first)
  let last := !y.warps.any (fun v => v.id != w.id && mine.any (fun b => b.id == v.block))
  w.subs.all (·.stopped) && (w.access.map Access.savable).getD true && w.flags.toList.all (fun f => f.count == 0) &&
    !y.ops.any (fun p => p.warp == some w.id) && !y.selected.any (fun c => c.1 == w.id) &&
    (!last || !y.ops.any (fun p => mine.any (fun b => b.id == p.block))) && !y.ctl.held

/-- The machine without the warp, which has joined the saved ones of its block. -/
def Sys.withSaved (y : Sys) (k : Block) (w : Warp) (live : Option (List Word)) (at_ : Nat) : Sys :=
  let z := ((y.useFree 1).addSaved k { warp := w.saved, live, frame := at_, serial := y.free }).withdrawMmq w.id
  { z with warps := z.warps.filter (fun v => v.id != w.id) }

/-- What the save of a warp accesses: the record that its hint named, its frame, and the frames of its cluster, where it is the last of it. -/
def saveAccesses (s : State) (w : Warp) (k : Block) : List (Nat × Nat × Bool) :=
  let at_ := s.sys.nextFrame k.ctx
  let y := s.sys.withSaved k w (w.hint.bind (hintRecord s k)) at_
  ((w.hint.map (hintAccess s k)).getD []) ++ (mainKey 0 at_, w.frameSize, true) ::
    (if y.clusterStopped k.first then clusterFrames (y.leavers k.first) (at_ + w.frameSize) else [])

/-- No operation of a launch cluster's blocks is outstanding (R393). -/
def Sys.clusterIdle (y : Sys) (first : Nat) : Bool :=
  !y.ops.any (fun p => y.blocks.any (fun b => b.first == first && b.id == p.block))

/-- The blocks whose last resident warp has exited after others were saved: they leave as they would have with the last saved one. -/
def saveRest (b : SavedBlock) (s : State) : Upd :=
  let y := s.sys
  let first := b.block.first
  if b.out || !y.clusterStopped first || !y.clusterIdle first || y.ctl.held then idle s
  else saveGuard b.block.ctx (dieOf b.block.core) (clusterFrames (y.leavers first) (y.nextFrame b.block.ctx)) s (saveCluster first s)

/-- PREEMPT_SAVE (R455): the warp's frame is written; the block follows with its last warp, or once its last warp has exited. -/
def execPreemptSave (w : Nat) (s : State) : Host.Outcome State Fault Refusal :=
  machineStep s (
    match s.sys.warp? w with
    | none =>
      match s.sys.saved.find? (fun b => b.warps.any (fun x => x.warp.id == w)) with
      | some b => saveRest b s
      | none => idle s
    | some x =>
      match s.sys.block? x.block with
      | none => idle s
      | some k =>
        if !s.sys.maySave x k then idle s
        else if (x.hint.map (walkQuiet s k.ctx)).getD true == false then
          .of (walkHold s .control k.ctx (x.hint.getD 0))
        else
          let live := x.hint.bind (hintRecord s k)
          let at_ := s.sys.nextFrame k.ctx
          saveGuard k.ctx (dieOf k.core) (saveAccesses s x k) s
            (Upd.andThen s (hostPut (mainKey 0 at_) (warpFrame k x live s.sys.free) { s with sys := s.sys.withSaved k x live at_ })
              (saveCluster k.first)))

/-! ### Restore (R459) -/

/-- A wait after restore: what tests its condition at issue, a parked word and an MMQ issue again (R368, R454); a word that waited on a
witness goes on at the step at which it waited (R307). -/
def Wait.restored (r : Wait) : Wait :=
  match r with
  | .barrier _ _ _ _ _ | .settle _ _ | .join _ | .exiting | .handlerBusy | .witness _ => r
  | _ => .none

/-- The translation set goes with the wait that stands behind it. -/
def Sub.restored (b : Sub) (now cycle : Nat) : Sub :=
  let wait := (match b.wait, b.under with
    | r, .none => r
    | _, r => r).restored
  { b with wait, under := .none, set := if wait = .none then [] else b.set, since := now, ready := cycle, boosted := false, stopped := false }

/-- The jobs of an access context after restore: a parked stream tries again. -/
def QJob.restored (j : QJob) : QJob :=
  match j with
  | .stream t => .stream { t with parked := none }
  | .mark v => .mark v

/-- A warp from its frame: S, V and shape sections as memory holds them, what its record left out at its first value. -/
def SavedWarp.load (x : SavedWarp) (m : Memory) (now cycle : Nat) : Warp :=
  let w := x.warp
  let at_ := mainKey 0 x.frame
  let vAt := at_ + 3072
  let shapeAt := vAt + 128 * w.budget
  let live := fun v : Nat => decide (v < w.budget) && liveV x.live v
  { w with
    sregs := Vector.ofFn (fun r : Fin 128 => if liveS x.live r.val then m.word (at_ + 2048 + 8 * r.val) else 0)
    vregs := Vector.ofFn (fun v : Fin 256 => if live v.val then
      Vector.ofFn (fun i : Fin 32 => BitVec.ofNat 32 (m.value (vAt + 128 * v.val + 4 * i.val) 4)) else zeroLanes)
    shapes := Vector.ofFn (fun v : Fin 256 => if live v.val then m.byte (shapeAt + 8 * v.val) else 0x80)
    tops := Vector.ofFn (fun v : Fin 256 => if live v.val then BitVec.ofNat 32 (m.value (shapeAt + 8 * v.val + 4) 4) else 0)
    subs := w.subs.map (fun b => b.restored now cycle)
    access := w.access.map (fun a => { a with
      sub := a.sub.restored now cycle, jobs := a.jobs.map (fun l => l.map QJob.restored) }) }

/-- The room that a block left is free again, with no request under way to its storage (R60); the tiles of an ended block are not its own any
more (R73). -/
def Sys.roomBack (y : Sys) (b : SavedBlock) : Bool :=
  let k := b.block
  let used := y.scratchUsed k.core ++ y.scratchPending k.core
  let free := fun a n : Nat => n == 0 || freeRange used a n
  free k.scrBase k.scrSize && b.warps.all (fun x => free x.warp.spillBase x.warp.spillSize) &&
    (k.zCount == 0 || k.ending || freeRange (y.tilesUsed k.core) k.zBase k.zCount) &&
    b.warps.all (fun x => !(y.warpsOn k.core).any (fun w => w.part == x.warp.part && w.slot == x.warp.slot)) &&
    (List.range 6).all (fun p =>
      let here := y.budgetsIn k.core p ++ (b.warps.filter (fun x => x.warp.part == p)).map (fun x => x.warp.budget)
      decide (sumOf here ≤ 1536) && decide (here.length ≤ 16)) && y.diePlaces (dieOf k.core)

/-- The accumulators of a block from its frame. -/
def SavedBlock.accs (b : SavedBlock) (m : Memory) : List (Nat × List (BitVec 128)) :=
  let at_ := mainKey 0 b.frame + 4096 * b.grans.length
  b.tiles.zipIdx.map (fun t => (1024 * t.1,
    (List.range 1024).map (fun i => BitVec.ofNat 128 (m.value (at_ + 16384 * t.2 + 16 * i) 16))))

/-- A block returns to its core (R459). No record names its spill stacks, which read as at warp start (R60, log 45). -/
def loadBlock (b : SavedBlock) (s : State) : Upd :=
  let k0 := { b.block with acc := [], badAcc := b.block.badAcc.filter (fun i => b.tiles.contains (i / 1024)) }
  let k := (b.accs s.mem).foldl (fun k t => { k.putAccs t.1 t.2 with badAcc := k.badAcc }) k0
  let lo := scratchKey k.core k.scrBase
  let y0 := s.sys.dropCodeFor k
  let inside := fun p : Nat => overlaps p 4 lo k.scrSize ||
    b.warps.any (fun x => overlaps p 4 (scratchKey k.core x.warp.spillBase) x.warp.spillSize)
  let spills := b.warps.map (fun x => Store.clear (scratchKey k.core x.warp.spillBase) x.warp.spillSize)
  let y := { y0 with
    blocks := y0.blocks ++ [k]
    warps := y0.warps ++ b.warps.map (fun x => x.load s.mem y0.time.now y0.time.cycle)
    saved := y0.saved.filter (fun x => x.block.id != k.id)
    poison := y0.poison.filter (fun p => !inside p) ++ b.poison.map (fun p => lo + p) }
  let grans := b.grans.zipIdx.map (fun g => Store.bytes (lo + 4096 * g.1) (s.mem.bytes (mainKey 0 b.frame + 4096 * g.2) 4096))
  { sys := y, stores := .clear lo k.scrSize :: grans ++ spills }

/-- How a wait at a barrier stands when its warp is back (R403). -/
def settleWait (id : Nat) (s : State) : Upd :=
  match s.sys.warp? id with
  | none => .of s.sys
  | some w =>
    Upd.each s (fun sub t =>
      match t.sys.warp? id with
      | none => .of t.sys
      | some v =>
        match v.sub? (some sub) with
        | some b =>
          match b.wait with
          | .barrier key inst d settle again =>
            match v.barSlot key with
            | some slot =>
              match slot.result with
              | .done r => .of (t.sys.setWarp (v.release b d settle again r t.sys.time.now))
              | .unequal => endInstance t key inst .unequal v
              | _ => .of t.sys
            | none => .of t.sys
          | _ => .of t.sys
        | none => .of t.sys) (w.subs.map (·.id))

/-- The control section of a saved warp is as the E12 wrote it. -/
def SavedWarp.intact (x : SavedWarp) (m : Memory) : Bool := m.bytes (mainKey 0 x.frame + 128) 1920 == controlSection x.serial

/-- A warp that is back resumes, or ends as an unhandled ILLEGAL, whose TVAL the manual does not give (R457). -/
def resumeSaved (x : SavedWarp) (ok : Bool) (s : State) : Upd :=
  match s.sys.warp? x.warp.id with
  | none => .of s.sys
  | some w =>
    if ok then settleWait w.id s
    else
      let b := w.subs.headD (newSub 0 0 0)
      unhandled { s with sys := s.sys.useFree 1 } w (trapOf .illegal (s.sys.freeAt 0)) b.pc 0

/-- The pre-empted blocks of a launch cluster, where all of them have left (log 32). -/
def Sys.savedCluster (y : Sys) (block : Nat) : List SavedBlock :=
  match y.saved.find? (fun b => b.block.id == block) with
  | none => []
  | some b =>
    let mine := y.saved.filter (fun x => x.block.first == b.block.first)
    if mine.all (·.out) then mine else []

/-- The restore of the blocks of a launch cluster whose room is free. -/
def restoreCluster (l : List SavedBlock) (s : State) : Upd :=
  let checked := l.flatMap (fun b => b.warps.map (fun x => (x, x.intact s.mem)))
  Upd.andThen s (Upd.each s loadBlock l) (fun t => Upd.each t (fun x u => resumeSaved x.1 x.2 u) checked)

/-- The frames that a restore reads, as accesses. -/
def restoreReads (l : List SavedBlock) : List (Nat × Nat × Bool) :=
  l.flatMap (fun b => (mainKey 0 b.frame, 4096 * b.grans.length + 16384 * b.tiles.length, false) ::
    b.warps.map (fun x => (mainKey 0 x.frame, x.warp.frameSize, false)))

/-- A launch cluster is restored from frames that its context may read (R54). -/
def guardedRestore (l : List SavedBlock) (s : State) : Upd :=
  match l with
  | [] => idle s
  | b :: _ => saveGuard b.block.ctx (dieOf b.block.core) (restoreReads l) s (restoreCluster l s)

/-- PREEMPT_RESTORE (R459). -/
def execPreemptRestore (block : Nat) (s : State) : Host.Outcome State Fault Refusal :=
  inputStep s (
    let l := s.sys.savedCluster block
    let may := l.all (fun b => s.sys.roomBack b && !(s.sys.context b.block.ctx).held && !(s.sys.context b.block.ctx).frozen)
    if !may then idle s else guardedRestore l s)

/-! ### The context switch (R460) -/

/-- The dies of a context: those with a block of it, resident or saved, a command or a bin table of it, or a scratchpad that it owns or that a
switch has saved. -/
def Sys.diesOf (y : Sys) (ctx : Nat) : List Nat :=
  (y.blocks.filter (fun k => k.ctx == ctx)).map (fun k => dieOf k.core) ++
  (y.saved.filter (fun b => b.block.ctx == ctx)).map (fun b => dieOf b.block.core) ++
  (y.ops.filter (fun p => p.ctx == ctx)).map (fun p => dieOf p.core) ++
  (y.bins.filter (fun b => b.ctx == ctx)).map (fun b => b.die) ++
  (List.range 6).filter (fun d => y.dieScratch d ctx != 0) ++
  (y.savedContexts.filter (fun x => x.ctx == ctx)).flatMap (fun x => x.bins.map (fun b => b.die) ++ x.dies.map (·.1))

/-- A die of the context is halted by the debugger (R460). -/
def Sys.onHaltedDie (y : Sys) (ctx : Nat) : Bool := (y.diesOf ctx).any (fun d => (y.die d).halted)

/-- Nothing of the context is on a core, and none of its operations is outstanding. -/
def Sys.contextQuiet (y : Sys) (ctx : Nat) : Bool :=
  !y.blocks.any (fun k => k.ctx == ctx) && !y.ops.any (fun p => p.ctx == ctx) && !y.reqs.any (fun r => r.ctx == ctx)

/-- The dies whose scratchpad a context owns. -/
def Sys.ownedDies (y : Sys) (ctx : Nat) : List Nat := (List.range 6).filter (fun d => y.dieScratch d ctx != 0)

/-- The entry that holds what a switch saves of a context. -/
def Sys.savedContext (y : Sys) (ctx : Nat) : SavedContext :=
  (y.savedContexts.find? (fun x => x.ctx == ctx)).getD { ctx, bins := [], binAt := 0, dies := [] }

def Sys.setSavedContext (y : Sys) (x : SavedContext) : Sys :=
  { y with savedContexts := y.savedContexts.filter (fun z => z.ctx != x.ctx) ++
      (if x.bins.isEmpty && x.dies.isEmpty then [] else [x]) }

/-- The bytes of a range are copied to another. -/
def copyRange (m : Memory) (src dst n : Nat) : List Store :=
  .clear dst n :: (m.filter (fun c => decide (src ≤ c.1) && decide (c.1 < src + n))).map (fun c => .bytes (dst + (c.1 - src)) [c.2])

/-- A die scratchpad is saved whole behind the other frames. -/
def saveDie (ctx die : Nat) (s : State) : Upd :=
  let at_ := s.sys.nextFrame ctx
  let n := s.sys.dieScratch die ctx
  let x := s.sys.savedContext ctx
  let y := s.sys.setSavedContext { x with dies := x.dies ++ [(die, (s.sys.die die).dsrcfg, at_)] }
  saveGuard ctx die [(mainKey 0 at_, n, true)] s (
    if (y.accessFails (mainKey 0 at_) n false).isSome then .of y
    else { sys := y.performed .host y.time.now (mainKey 0 at_) n 0, stores := copyRange s.mem (dieKey die 0) (mainKey 0 at_) n })

/-- The context's bin tables are uninstalled, and the records in their queues and the ends of their rings are written to its area. -/
def saveBins (ctx : Nat) (s : State) : Upd :=
  let x := s.sys.savedContext ctx
  let mine := s.sys.bins.filter (fun b => b.ctx == ctx)
  let at_ := s.sys.nextFrame ctx
  let bs := mine.flatMap Bins.savedBytes
  let y := s.sys.setSavedContext { x with bins := mine, binAt := at_ }
  if mine.isEmpty then .of s.sys
  else saveGuard ctx 0 [(mainKey 0 at_, bs.length, true)] s
    (hostPut (mainKey 0 at_) bs { s with sys := { y with bins := y.bins.filter (fun b => b.ctx != ctx) } })

/-- A die scratchpad is restored whole, with its split and owner. -/
def loadDie (d : Nat × Word × Nat) (s : State) : Upd :=
  Upd.andThen s (clearDieScratch d.1 s) (fun t =>
    { sys := t.sys.setDie d.1 { t.sys.die d.1 with dsrcfg := d.2.1 },
      stores := copyRange s.mem (mainKey 0 d.2.2) (dieKey d.1 0) (16 * 2 ^ 20 * bits d.2.1 3 0) })

/-- The step of the switch that comes after another. -/
def switchNext : SwitchPhase → Option SwitchPhase
  | .stop => some .preempt
  | .preempt => some .drain
  | .drain => some .saveBins
  | .saveBins => some .saveScratch
  | .saveScratch => some .settle
  | .settle => some .install
  | .install => some .restore
  | .restore => none

/-- The last of the switch's steps: bins and scratchpads first, then the blocks as their room comes free, then the queues. -/
def switchRestore (w : Switch) (s : State) : Upd :=
  let x := s.sys.savedContext w.inn
  let y := s.sys.setSavedContext { ctx := w.inn, bins := [], binAt := 0, dies := [] }
  let reads := (if x.bins.isEmpty then [] else [(mainKey 0 x.binAt, (x.bins.flatMap Bins.savedBytes).length, false)]) ++
    x.dies.map (fun d => (mainKey 0 d.2.2, 16 * 2 ^ 20 * bits d.2.1 3 0, false))
  saveGuard w.inn 0 reads s
    (Upd.andThen s (Upd.each { s with sys := { y with bins := y.bins ++ x.bins } } loadDie x.dies) (fun t =>
      match t.sys.saved.find? (fun b => b.block.ctx == w.inn) with
      | none =>
        .of (({ t.sys with switching := none }.setContext w.inn { t.sys.context w.inn with held := false }).answered .ok)
      | some b =>
        let l := t.sys.savedCluster b.block.id
        if l.isEmpty || !l.all t.sys.roomBack then .of t.sys else guardedRestore l t))

/-- Everything that a phase saves has been saved. -/
def Sys.binsSaved (y : Sys) (ctx : Nat) : Bool := !y.bins.any (fun b => b.ctx == ctx)
def Sys.diesSaved (y : Sys) (ctx : Nat) : Bool :=
  (y.ownedDies ctx).all (fun d => (y.savedContext ctx).dies.any (fun x => x.1 == d))

/-- CONTEXT_SWITCH (R460). A switch for which the area has no room does not begin, with status NOSPACE; a step that a halted die of its
context keeps from beginning leaves everything as it is, with status BUSY. -/
def execContextSwitch (out inn : Nat) (phase : SwitchPhase) (s : State) : Host.Outcome State Fault Refusal :=
  machineStep s (
    let y := s.sys
    let now := y.time.now
    let go := fun (u : Upd) => ({ u with sys := { u.sys with switching := some { out, inn, phase, tick := now } } } : Upd)
    let dies := sumOf ((y.ownedDies out).map (fun d => y.dieScratch d out))
    let mine := y.blocks.filter (fun k => k.ctx == out && !k.ending && k.engineWarp.isNone)
    let need := y.saveNeed mine + dies + binsNeed * (y.bins.filter (fun b => b.ctx == out)).length
    let busy := y.onHaltedDie out || (phase == .restore && y.onHaltedDie inn)
    if y.ctl.held || y.ctl.recovery then idle s
    else match y.switching with
      | none =>
        if phase != .stop then idle s
        else if busy then .of (y.answered .busy)
        else if !y.saveFits out need then .of (y.answered .noSpace)
        else go (.of (y.setContext out { y.context out with held := true }))
      | some w =>
        if w.out != out || w.inn != inn || (switchNext w.phase != some phase && !(w.phase == .restore && phase == .restore)) then
          idle s
        else if busy then .of (y.answered .busy)
        else match phase with
          | .stop => idle s
          | .preempt =>
            if mine.isEmpty then go (idle s)
            else go (.of { y with preempts := y.preempts ++ [{ unit := .context out, cycle := y.time.cycle }] })
          | .drain => if y.contextQuiet out then go (idle s) else idle s
          | .saveBins =>
            let u := saveBins out s
            if u.sys.binsSaved out then go u else u
          | .saveScratch =>
            let u := Upd.each s (saveDie out) ((y.ownedDies out).filter (fun d => !(y.savedContext out).dies.any (fun x => x.1 == d)))
            if u.sys.diesSaved out then go u else u
          | .settle => if y.settled controlReader (mkWit 2 0 w.tick) = .yes then go (idle s) else idle s
          | .install => go (.of (if out = inn then y.dropContexts (some out) else y))
          | .restore => switchRestore w { s with sys := { y with switching := some { w with phase := .restore } } })

/-! ### Freezes lifted (R473) -/

/-- The freezes that still hold. -/
def Sys.freezesLeft (y : Sys) : List Freeze := y.freezes.filter (fun f => !f.released)

/-- The n-th freeze is released; a context, a host function or a port that no other freeze holds is served again. -/
def Sys.release (y : Sys) (n : Nat) (f : Freeze) : Sys :=
  let y1 := { y with freezes := y.freezes.set n { f with released := true } }
  if y1.freezesLeft.any (fun g => g.held == f.held) then y1
  else match f.held with
    | .function fn => y1.setControl (fun c => { c with hostFrozen := c.hostFrozen.filter (fun i => i != fn) })
    | .ingress p => { y1 with links := { y1.links with frozenPorts := y1.links.frozenPorts.filter (fun i => i != p) } }
    | .context ctx => y1.setContext ctx { y1.context ctx with frozen := false }

/-- The freeze that a step lifts. -/
def Sys.freezeAt (y : Sys) (n : Nat) : Option Freeze := (y.freezes[n]?).bind (fun f => if f.released then none else some f)

/-- FREEZE_RESUME (R473). -/
def execFreezeResume (n : Nat) (s : State) : Host.Outcome State Fault Refusal :=
  inputStep s (
    match s.sys.freezeAt n with
    | none => idle s
    | some f => .of (s.sys.release n f))

/-- The blocks of a context are discarded unsaved: its warps end, its commands that have not started are dropped, and each
block goes when what it has issued is over; its warp tasks end (R179). -/
def Sys.discardBlocks (y : Sys) (ctx : Nat) : Sys :=
  let mine := fun id : Nat => (y.blocks.any (fun k => k.id == id && k.ctx == ctx))
  let begun := fun p : Op => match p.stage with
    | .running | .done => true
    | _ => false
  let tasks := y.blocks.filter (fun k => k.ctx == ctx && y.warps.any (fun w => w.block == k.id)) ++
    (y.saved.map (·.block)).filter (fun k => k.ctx == ctx)
  let y1 := { tasks.foldl Sys.taskEnds y with
    warps := y.warps.filter (fun w => !mine w.block)
    ops := y.ops.filter (fun p => p.ctx != ctx || begun p)
    saved := y.saved.filter (fun b => b.block.ctx != ctx)
    blocks := (y.blocks.filter (fun k => k.ctx != ctx || k.started)) }
  { y1 with selected := y1.selected.filter (fun c => (y1.warp? c.1).isSome) }

/-- FREEZE_ABORT (R473): the context's grids are aborted, with the event's code for firmware. -/
def execFreezeAbort (n : Nat) (s : State) : Host.Outcome State Fault Refusal :=
  inputStep s (
    match s.sys.freezeAt n with
    | none => idle s
    | some f =>
      let y := s.sys.release n f
      match f.held with
      | .context ctx =>
        let grids := (y.grids.filter (fun g => g.ctx == ctx)).map (·.launch)
        Upd.andThen s (Upd.each { s with sys := y } (fun g t => abortGrid t g 0xFF) grids) (fun t =>
          .of ((grids.foldl Sys.dropAborted (t.sys.discardBlocks ctx)).tidyPreempts))
      | _ => .of y)

end Sys2Proof.Machine
end

