-- ==== Sys2Proof/Machine/Host.lean ====
section
/-! DEFINITION. The host link, the peers and the paths to them, extents and the domain clock (R54, R55, R130, R158 to R163, R461
to R469). -/

namespace Sys2Proof.Machine

/-! ### Accesses by the host (R54, R55, R130, R461, R464, R465) -/

/-- The key of a byte of device memory that the host names. -/
def hostKey (pa : Nat) : Nat := mainKey 0 (pa % 2 ^ 42)

/-- CXL.mem is served: the part has booted, and the link is up. -/
def Sys.hostServed (y : Sys) : Bool := y.ctl.booted && !y.ctl.held && !y.links.cxlDown

/-- The host port answers an access. -/
def Sys.answerHost (y : Sys) (fn pa : Nat) (status : HostStatus) (data : List Byte) : Sys :=
  { y with hostAnswer := some { fn, pa, status, data } }

/-- What stands against a host access before its home is asked: a frozen function, or an access that no region permits. -/
def hostGate (fn key n : Nat) (write : Bool) (refused : HostStatus) (s : State) (u : Upd) : Upd :=
  if s.sys.ctl.hostFrozen.contains fn then .of (s.sys.answerHost fn (keyPA key) refused [])
  else if !s.sys.permits .hostFn (s.sys.hostMask fn) key n write then
    Upd.andThen s (freezeHost fn key write s) (fun t => .of (t.sys.answerHost fn (keyPA key) refused []))
  else u

/-- CXL_MEM_WRITE (R130, R465): the write of part or all of a sector is accepted, stamped, performed and completed; while a migration has frozen
its frame, or a read waits at its home, it waits on the link. A frozen function's ends with a CXL error response (R55), as does one
that its home cannot perform (log 112). -/
def execCxlMemWrite (fn pa : Nat) (data : List Byte) (s : State) : Host.Outcome State Fault Refusal :=
  machineStep s (
    let key := hostKey pa
    let n := data.length
    if !s.sys.hostServed || n = 0 || 64 < pa % 64 + n then idle s
    else hostGate fn key n true .error s (
      if s.sys.frozenFrame key || s.sys.readWaits key n 0 then idle s
      else if (s.sys.accessFails key n false).isSome then .of (s.sys.answerHost fn (keyPA key) .error [])
      else { sys := ((s.sys.fillFor key n true 0 0).performed .host s.sys.time.now key n 0).answerHost fn (keyPA key) .ok []
             stores := [.bytes key data] }))

/-- CXL_MEM_READ (R89, R130, R155, R464): a read of a sector is served once every performed write to it is visible; it returns the sector's
bytes, with CXL poison where it is poisoned, and the host may then hold it. A frozen function's read returns poison (R55), and one that
its home cannot perform ends with a CXL error response (log 112). -/
def execCxlMemRead (fn pa : Nat) (s : State) : Host.Outcome State Fault Refusal :=
  machineStep s (
    let key := hostKey pa / 64 * 64
    if !s.sys.hostServed then idle s
    else hostGate fn key 64 false .poisoned s (
      if (s.sys.accessFails key 64 false).isSome then .of (s.sys.answerHost fn (keyPA key) .error [])
      else if !s.sys.quiet key 64 then .of (s.sys.holdRead .host [(key, 64)])
      else
        let y := s.sys.fillFor key 64 false 0 0
        if y.poisoned key 64 then .of (y.answerHost fn (keyPA key) .poisoned (s.mem.bytes key 64))
        else .of { y.answerHost fn (keyPA key) .ok (s.mem.bytes key 64) with
          hostHeld := if y.hostHeld.contains key then y.hostHeld else y.hostHeld ++ [key], holder := Table.set y.holder key fn }))

/-- HOST_SNOOP (R463): the line is never held, and nothing changes. -/
def execHostSnoop (_line : Nat) (s : State) : Host.Outcome State Fault Refusal := machineStep s (idle s)

/-! ### Paths (R163, R467) -/

/-- The path of a request. -/
def Sys.onPath (y : Sys) (p : Path) (key : Nat) : Bool :=
  match p with
  | .cxl => keyKind key == 1 || keyKind key == 2
  | .expander => keyKind key == 1
  | .port n => keyKind key == 3 && Table.get? y.ctl.routes (keyPA key / 2 ^ 42) == some n

/-- The path is down, or up again. -/
def Links.mark (l : Links) (p : Path) (down : Bool) : Links :=
  match p with
  | .cxl => { l with cxlDown := down }
  | .expander => { l with expanderDown := down }
  | .port n => { l with portDown := l.portDown.setIfInBounds n down, retries := l.retries.setIfInBounds n 0 }

/-- Every outstanding request on a path fails with LINK (R163). -/
def Sys.failPath (y : Sys) (p : Path) : Sys :=
  (y.reqs.filter (fun r => y.onPath p r.key)).foldl (fun z r => z.failReq r .link) y

/-- A path goes down. -/
def Sys.pathDown (y : Sys) (p : Path) : Sys := { (y.failPath p) with links := y.links.mark p true }

/-- LINK_DOWN (R163). -/
def execLinkDown (path : Path) (s : State) : Host.Outcome State Fault Refusal :=
  machineStep s (.of (s.sys.pathDown path))

/-- A path that stays down: a port of a package that has left its domain (R468). -/
def Links.stuck (l : Links) (p : Path) : Bool :=
  match p with
  | .port _ => l.left
  | _ => false

/-- LINK_RESTORE (R163, R468). -/
def execLinkRestore (path : Path) (s : State) : Host.Outcome State Fault Refusal :=
  inputStep s (
    if s.sys.links.stuck path then idle s else .of { s.sys with links := s.sys.links.mark path false })

/-- FLIT_CRC_FAIL (R467): the flit is replayed; the 16th failure in succession takes the port down. -/
def execFlitCrcFail (port : Nat) (s : State) : Host.Outcome State Fault Refusal :=
  machineStep s (
    let l := s.sys.links
    let n := l.retries.toList.getD port 0 + 1
    if 16 ≤ n then .of (s.sys.pathDown (.port port))
    else .of { s.sys with links := { l with retries := l.retries.setIfInBounds port n } })

/-! ### The domain clock (R93, R468) -/

/-- CLOCK_SYNC (R468): the clock of a package that is not the master steps forward to the master's count, and never back; from then on
requests go out to other packages. The step is no time in which a request waits for its completion (R163), or a snoop for its response
(R464). -/
def execClockSync (count : BitVec 52) (s : State) : Host.Outcome State Fault Refusal :=
  machineStep s (
    let t := s.sys.time
    let ahead := (count.toNat + 2 ^ 52 - s.sys.clk) % 2 ^ 52
    if s.sys.links.left || s.sys.links.master == s.sys.ctl.packageId || 2 ^ 51 ≤ ahead then idle s
    else .of { s.sys with
      time := { t with now := t.now + ahead }
      reqs := s.sys.reqs.map (fun r => { r with left := r.left + ahead })
      snooping := s.sys.snooping.map (fun q => { q with tick := q.tick + ahead })
      links := { s.sys.links with synced := true } })

/-- SKEW_LOSS (R468): every port goes down, and the package leaves the domain. -/
def execSkewLoss (s : State) : Host.Outcome State Fault Refusal :=
  machineStep s (
    let y := (List.range 8).foldl (fun y p => y.pathDown (.port p)) s.sys
    .of { y with links := { y.links with left := true } })

/-! ### Extents (R146, R158 to R161) -/

/-- The regions of an extent. -/
def regionsFrom (first count : Nat) : List Nat := ((List.range count).map (fun i => first + i)).filter (fun i => decide (i < 2048))

/-- The regions of a run that stand in a state. -/
def Sys.regionsIn (y : Sys) (die first count st : Nat) : List Nat :=
  (regionsFrom first count).filter (fun i => ((y.die die).region i).state == st)

def Sys.setRegions (y : Sys) (die : Nat) (l : List Nat) (st : Nat) : Sys :=
  y.setDie die (l.foldl (fun d i => { d with regions := Table.set d.regions i { d.region i with state := st } }) (y.die die))

/-- A key lies in one of the regions of a die. -/
def inRegions (die : Nat) (l : List Nat) (key : Nat) : Bool :=
  decide (key < 2 ^ 48) && paDie (keyPA key) == die && l.contains (paFrame (keyPA key) / 1024)

/-- The lines of regions leave the home cache without a write-back. -/
def Sys.dropLines (y : Sys) (die : Nat) (l : List Nat) : Sys :=
  { y with cached := y.cached.filter (fun c => !inRegions die l c.1) }

/-- The host is told that regions of a die are online, or withdrawn. -/
def Sys.acknowledge (y : Sys) (die : Nat) (l : List Nat) (up : Bool) : Sys :=
  y.setControl (fun c => { c with extentAck := some (die, l, up) })

/-- EXTENT_ADD (R158): the withdrawn regions are written with zero at their homes, and set online, and the host is acknowledged. -/
def execExtentAdd (die first count : Nat) (s : State) : Host.Outcome State Fault Refusal :=
  inputStep s (
    let l := s.sys.regionsIn die first count 0
    let y := ((s.sys.setRegions die l 1).dropLines die l).acknowledge die l true
    if 6 ≤ die then idle s
    else recallFirst s
      { sys := { y with poison := y.poison.filter (fun p => !inRegions die l p) },
        stores := l.map (fun i => .clear (regionKey die i) (2 ^ 26)) })

/-- EXTENT_RELEASE_ORDERLY (R160): the regions become releasing; then, once the requests that their homes had accepted are performed, the
dirty sectors are written back, the lines invalidated, the regions withdrawn, and the host is acknowledged. -/
def execExtentReleaseOrderly (die first count : Nat) (s : State) : Host.Outcome State Fault Refusal :=
  inputStep s (
    let y := s.sys
    match y.regionsIn die first count 1 with
    | [] =>
      let l := y.regionsIn die first count 2
      let lines := (y.cachedLines die).filter (inRegions die l)
      if l.isEmpty || y.reqs.any (fun r => r.arrived && inRegions die l r.key) then idle s
      else .of (((lines.foldl Sys.writeBack y).setRegions die l 0).acknowledge die l false)
    | l => .of (y.setRegions die l 2))

/-- EXTENT_RELEASE_FORCED (R161): pending writes and dirty sectors are discarded, and the host learns how many. -/
def execExtentReleaseForced (die first count : Nat) (s : State) : Host.Outcome State Fault Refusal :=
  inputStep s (
    let l := s.sys.regionsIn die first count 1 ++ s.sys.regionsIn die first count 2
    let y := s.sys.setRegions die l 0
    let lost := y.reqs.filter (fun r => inRegions die l r.key && r.kind.writes)
    let y1 := lost.foldl (fun z r => z.failReq r .withdrawn) y
    let dirty := (y1.cached.filter (fun c => c.2 && inRegions die l c.1)).length
    if l.isEmpty then idle s
    else Upd.andThen s (.of (y1.dropLines die l)) (fun t =>
      raiseEvent t 7 0 (BitVec.ofNat 64 (die * 2048 + first)) (BitVec.ofNat 64 dirty)))

end Sys2Proof.Machine
end

