-- ==== Sys2Proof/Machine/Integer.lean ====
section
/-! DEFINITION. Integer and compare forms, MAJ 0x01 and 0x02 (R257 to R269). -/

namespace Sys2Proof.Machine

/-! ### The functions of R260 to R268, on patterns of `n` bits -/

/-- An exact function of two integers, clamped or wrapped to `n` bits (R259, R261). -/
def intBin (sg sat : Bool) (n : Nat) (f : Int → Int → Int) (a b : Word) : Word :=
  let r := f (toI sg n a) (toI sg n b)
  wrap n (if sat then satOf sg r n else r)

/-- The high half of the 2n-bit product (R260). -/
def mulHigh (n : Nat) (x y : Int) : Int := (x * y) / 2 ^ n

def clzBits (n : Nat) (a : Word) : Word :=
  BitVec.ofNat 64 (if low n a = 0 then n else n - 1 - (low n a).toNat.log2)

def ctzBits (n : Nat) (a : Word) : Word :=
  BitVec.ofNat 64 (((List.range n).find? (fun j => a.getLsbD j)).getD n)

def popcBits (n : Nat) (a : Word) : Word :=
  BitVec.ofNat 64 ((List.range n).countP (fun j => a.getLsbD j))

def brevBits (n : Nat) (a : Word) : Word :=
  BitVec.ofNat 64 ((List.range n).foldl (fun v j => 2 * v + (a.getLsbD j).toNat) 0)

/-! The shifts of R264; the amount `k` is unsigned. -/

def shlBits (n : Nat) (a k : Word) : Word := if k.toNat ≥ n then 0 else low n (a <<< k.toNat)

def shrBits (n : Nat) (a k : Word) : Word := if k.toNat ≥ n then 0 else low n a >>> k.toNat

def sarBits (n : Nat) (a k : Word) : Word :=
  wrap n (toI true n a / 2 ^ (if k.toNat < n then k.toNat else n - 1))

def rotBits (n : Nat) (a k : Word) : Word :=
  let j := k.toNat % n
  low n (low n a <<< j) ||| (low n a >>> (n - j))

def fshfBits (n : Nat) (a k c : Word) : Word :=
  let x := (low n a).toNat * 2 ^ n + (low n c).toNat
  BitVec.ofNat 64 (x / 2 ^ (if k.toNat < n then k.toNat else n) % 2 ^ n)

/-- BFE (R265). -/
def bfeBits (sg : Bool) (n : Nat) (a b : Word) : Word :=
  let p := b.toNat % 256
  let l := b.toNat / 256 % 256
  let f := (low n a).toNat / 2 ^ p % 2 ^ l
  if l = 0 then 0
  else if sg && f ≥ 2 ^ (l - 1) then wrap n ((f : Int) - 2 ^ l)
  else wrap n f

/-- BFI (R265). -/
def bfiBits (n : Nat) (a b c : Word) : Word :=
  let p := b.toNat % 256
  let l := b.toNat / 256 % 256
  let mask := BitVec.ofNat 64 (((2 ^ l - 1) * 2 ^ p) % 2 ^ n)
  (low n a &&& ~~~mask) ||| (BitVec.ofNat 64 ((low n c).toNat * 2 ^ p % 2 ^ n) &&& mask)

/-- One byte of PRMB's result (R266). -/
def prmbByte (pool : Word) (s : Nat) : Nat :=
  let x := pool.toNat / 2 ^ (8 * (s % 8)) % 256
  if s ≥ 8 then (if x ≥ 128 then 255 else 0) else x

def prmbBits (a b c : Word) : Word :=
  let pool := BitVec.ofNat 64 ((low 32 a).toNat + (low 32 c).toNat * 2 ^ 32)
  BitVec.ofNat 64 ((List.range 4).foldl (fun v j => v + prmbByte pool (b.toNat / 2 ^ (4 * j) % 16) * 2 ^ (8 * j)) 0)

/-- LEA and SLEA (R268, R272): `b` has `m` bits and is extended by `sg`. -/
def leaBits (sg : Bool) (n m : Nat) (shift : BitVec 2) (a b : Word) : Word :=
  wrap n (toI false n a + toI sg m b * 2 ^ shift.toNat)

/-! ### Common shapes -/

/-- Each active lane of D receives a function of A and B (R258, R259). -/
def Env.map2 (e : Env) (o : OpAB) (zx : Bool) (bsz : Sz) (f : Nat → Word → Word → Word) : Warp :=
  putLanes e.w e.b.exec o.sz o.sg o.d.toNat
    (fun i => f i (e.laneA o.sz o.a i) (e.laneB bsz o.a o.sz o.b zx i))

/-- The same with C. -/
def Env.map3 (e : Env) (o : OpABC) (bsz : Sz) (f : Word → Word → Word → Word) : Warp :=
  putLanes e.w e.b.exec o.sz o.sg o.d.toNat
    (fun i => f (e.laneA o.sz o.a i) (e.laneB bsz o.a o.sz o.b true i) (e.laneC o.sz o.c i))

/-- Each active lane of D receives a function of A alone. -/
def Env.map1 (e : Env) (o : OpA) (f : Word → Word) : Warp :=
  putLanes e.w e.b.exec o.sz o.sg o.d.toNat (fun i => f (e.laneA o.sz o.a i))

/-- An arithmetic form of A and B, `.sat` in FLG bit 1. -/
def Env.arith2 (e : Env) (o : OpAB) (f : Int → Int → Int) : Warp :=
  e.map2 o false o.sz (fun _ => intBin o.sg (o.fl.getLsbD 0) o.sz.bits f)

/-- A bitwise form: an immediate is zero-extended (R196). -/
def Env.logic2 (e : Env) (o : OpAB) (f : Word → Word → Word) : Warp :=
  e.map2 o true o.sz (fun _ a b => low o.sz.bits (f a b))

/-- IADDC and ISUBB (R262): `f` gives the limb and the carry or borrow. -/
def Env.limbCarry (e : Env) (o : OpABC) (f : Nat → Nat → Nat → Int × Nat) : Warp :=
  let r := fun i => f (e.laneA .w32 o.a i).toNat (e.laneB .w32 o.a .w32 o.b false i).toNat ((e.laneC .w32 o.c i).toNat % 2)
  putLanes (putLanes e.w e.b.exec .w32 false o.d.toNat (fun i => wrap 32 (r i).1)) e.b.exec .w32 false
    (o.d.toNat + 1) (fun i => BitVec.ofNat 64 (r i).2)

/-- The active lanes whose divisor is zero (R267). -/
def Env.zeroDivisors (e : Env) (o : OpAB) : LaneMask :=
  maskOf (fun i => e.b.active i && e.laneB o.sz o.a o.sz o.b false i == 0)

/-- IDIV and IREM: no lane is written when a divisor is zero (R267). -/
def Env.divide (e : Env) (o : OpAB) (f : Int → Int → Int) : Except Hold Warp :=
  let z := e.zeroDivisors o
  if z = 0 then .ok (e.arith2 o f)
  else .error (.trap { trapOf .divzero (BitVec.ofNat 64 ((lanesOf z).headD 0)) with tlanes := z })

/-- ICMP: the mask of the active lanes for which the condition holds (R269). -/
def Env.compare (e : Env) (o : OpAB) (sg zx : Bool) (c : Int → Int → Bool) : Warp :=
  let n := o.sz.bits
  let m := maskOf (fun i => e.b.active i &&
    c (toI sg n (e.laneA o.sz o.a i)) (toI sg n (e.laneB o.sz o.a o.sz o.b zx i)))
  e.w.setSn o.d.toNat (m.zeroExtend 64)

/-! ### Integer forms -/

/-- IADD (R260). -/
def execIadd (o : OpAB) (s : State) : Host.Outcome State Fault Refusal :=
  issueReg (.iadd o) s (fun e => .ok (e.arith2 o (fun x y => x + y)))

/-- ISUB (R260). -/
def execIsub (o : OpAB) (s : State) : Host.Outcome State Fault Refusal :=
  issueReg (.isub o) s (fun e => .ok (e.arith2 o (fun x y => x - y)))

/-- IMUL (R260). -/
def execImul (o : OpAB) (s : State) : Host.Outcome State Fault Refusal :=
  issueReg (.imul o) s (fun e => .ok (e.arith2 o (fun x y => x * y)))

/-- IMULH (R260). -/
def execImulh (o : OpAB) (s : State) : Host.Outcome State Fault Refusal :=
  issueReg (.imulh o) s (fun e => .ok (e.arith2 o (mulHigh o.sz.bits)))

/-- IMAD (R260). -/
def execImad (o : OpABC) (s : State) : Host.Outcome State Fault Refusal :=
  issueReg (.imad o) s (fun e => .ok (e.map3 o o.sz (fun a b c =>
    let r := toI o.sg o.sz.bits a * toI o.sg o.sz.bits b + toI o.sg o.sz.bits c
    wrap o.sz.bits (if o.fl.getLsbD 0 then satOf o.sg r o.sz.bits else r))))

/-- IMADW (R263). -/
def execImadw (o : OpABC) (s : State) : Host.Outcome State Fault Refusal :=
  issueReg (.imadw o) s (fun e => .ok (putLanes e.w e.b.exec .w64 false o.d.toNat (fun i =>
    wrap 64 (toI o.sg 32 (e.laneA .w32 o.a i) * toI o.sg 32 (e.laneB .w32 o.a .w32 o.b false i) +
      toI false 64 (e.laneC .w64 o.c i)))))

/-- IADDC (R262). -/
def execIaddc (o : OpABC) (s : State) : Host.Outcome State Fault Refusal :=
  issueReg (.iaddc o) s (fun e => .ok (e.limbCarry o (fun a b c => (((a + b + c : Nat) : Int), (a + b + c) / 2 ^ 32))))

/-- ISUBB (R262). -/
def execIsubb (o : OpABC) (s : State) : Host.Outcome State Fault Refusal :=
  issueReg (.isubb o) s (fun e => .ok (e.limbCarry o (fun a b c => ((a : Int) - b - c, if a < b + c then 1 else 0))))

/-- IMIN (R260). -/
def execImin (o : OpAB) (s : State) : Host.Outcome State Fault Refusal :=
  issueReg (.imin o) s (fun e => .ok (e.arith2 o (fun x y => if x ≤ y then x else y)))

/-- IMAX (R260). -/
def execImax (o : OpAB) (s : State) : Host.Outcome State Fault Refusal :=
  issueReg (.imax o) s (fun e => .ok (e.arith2 o (fun x y => if x ≤ y then y else x)))

/-- IABS: signed whatever FLG bit 0 holds (R260, R261). -/
def execIabs (o : OpA) (s : State) : Host.Outcome State Fault Refusal :=
  issueReg (.iabs o) s (fun e => .ok (e.map1 o (fun a =>
    let r : Int := (toI true o.sz.bits a).natAbs
    wrap o.sz.bits (if o.fl.getLsbD 0 then satS r o.sz.bits else r))))

/-- AND (R260). -/
def execIand (o : OpAB) (s : State) : Host.Outcome State Fault Refusal :=
  issueReg (.iand o) s (fun e => .ok (e.logic2 o (fun a b => a &&& b)))

/-- OR (R260). -/
def execIor (o : OpAB) (s : State) : Host.Outcome State Fault Refusal :=
  issueReg (.ior o) s (fun e => .ok (e.logic2 o (fun a b => a ||| b)))

/-- XOR (R260). -/
def execIxor (o : OpAB) (s : State) : Host.Outcome State Fault Refusal :=
  issueReg (.ixor o) s (fun e => .ok (e.logic2 o (fun a b => a ^^^ b)))

/-- ANDN (R260). -/
def execIandn (o : OpAB) (s : State) : Host.Outcome State Fault Refusal :=
  issueReg (.iandn o) s (fun e => .ok (e.logic2 o (fun a b => a &&& ~~~b)))

/-- SHL (R264). -/
def execShl (o : OpAB) (s : State) : Host.Outcome State Fault Refusal :=
  issueReg (.shl o) s (fun e => .ok (e.logic2 o (shlBits o.sz.bits)))

/-- SHR (R264). -/
def execShr (o : OpAB) (s : State) : Host.Outcome State Fault Refusal :=
  issueReg (.shr o) s (fun e => .ok (e.logic2 o (shrBits o.sz.bits)))

/-- SAR (R264). -/
def execSar (o : OpAB) (s : State) : Host.Outcome State Fault Refusal :=
  issueReg (.sar o) s (fun e => .ok (e.logic2 o (sarBits o.sz.bits)))

/-- ROT (R264). -/
def execRot (o : OpAB) (s : State) : Host.Outcome State Fault Refusal :=
  issueReg (.rot o) s (fun e => .ok (e.logic2 o (rotBits o.sz.bits)))

/-- FSHF (R264). -/
def execFshf (o : OpABC) (s : State) : Host.Outcome State Fault Refusal :=
  issueReg (.fshf o) s (fun e => .ok (e.map3 o o.sz (fshfBits o.sz.bits)))

/-- BFE (R265). -/
def execBfe (o : OpAB) (s : State) : Host.Outcome State Fault Refusal :=
  issueReg (.bfe o) s (fun e => .ok (e.map2 o true .w32 (fun _ => bfeBits o.sg o.sz.bits)))

/-- BFI (R265). -/
def execBfi (o : OpABC) (s : State) : Host.Outcome State Fault Refusal :=
  issueReg (.bfi o) s (fun e => .ok (e.map3 o .w32 (bfiBits o.sz.bits)))

/-- CLZ (R260). -/
def execClz (o : OpA) (s : State) : Host.Outcome State Fault Refusal :=
  issueReg (.clz o) s (fun e => .ok (e.map1 o (clzBits o.sz.bits)))

/-- CTZ (R260). -/
def execCtz (o : OpA) (s : State) : Host.Outcome State Fault Refusal :=
  issueReg (.ctz o) s (fun e => .ok (e.map1 o (ctzBits o.sz.bits)))

/-- POPC (R260). -/
def execPopc (o : OpA) (s : State) : Host.Outcome State Fault Refusal :=
  issueReg (.popc o) s (fun e => .ok (e.map1 o (popcBits o.sz.bits)))

/-- BREV (R260). -/
def execBrev (o : OpA) (s : State) : Host.Outcome State Fault Refusal :=
  issueReg (.brev o) s (fun e => .ok (e.map1 o (brevBits o.sz.bits)))

/-- PRMB (R266). -/
def execPrmb (o : OpABC) (s : State) : Host.Outcome State Fault Refusal :=
  issueReg (.prmb o) s (fun e => .ok (e.map3 o .w32 prmbBits))

/-- SEL: C is an S register (R260). -/
def execSel (o : OpABC) (s : State) : Host.Outcome State Fault Refusal :=
  issueReg (.sel o) s (fun e => .ok (putLanes e.w e.b.exec o.sz o.sg o.d.toNat (fun i =>
    if (e.w.sn o.c.toNat).getLsbD i then e.laneA o.sz o.a i else e.laneB o.sz o.a o.sz o.b false i)))

/-- IDIV (R267). -/
def execIdiv (o : OpAB) (s : State) : Host.Outcome State Fault Refusal :=
  issueReg (.idiv o) s (fun e => e.divide o Int.tdiv)

/-- IREM (R267). -/
def execIrem (o : OpAB) (s : State) : Host.Outcome State Fault Refusal :=
  issueReg (.irem o) s (fun e => e.divide o Int.tmod)

/-- LEA: B is read as 32 bits (R268). -/
def execLea (o : OpAB) (s : State) : Host.Outcome State Fault Refusal :=
  issueReg (.lea o) s (fun e => .ok (e.map2 o false .w32 (fun _ => leaBits o.sg o.sz.bits 32 o.fl)))

/-! ### Compare -/

/-- ICMP.EQ (R269). -/
def execIcmpEq (o : OpAB) (s : State) : Host.Outcome State Fault Refusal :=
  issueReg (.icmpEq o) s (fun e => .ok (e.compare o false false (fun x y => x == y)))

/-- ICMP.NE (R269). -/
def execIcmpNe (o : OpAB) (s : State) : Host.Outcome State Fault Refusal :=
  issueReg (.icmpNe o) s (fun e => .ok (e.compare o false false (fun x y => x != y)))

/-- ICMP.LT (R269). -/
def execIcmpLt (o : OpAB) (s : State) : Host.Outcome State Fault Refusal :=
  issueReg (.icmpLt o) s (fun e => .ok (e.compare o true false (fun x y => decide (x < y))))

/-- ICMP.LE (R269). -/
def execIcmpLe (o : OpAB) (s : State) : Host.Outcome State Fault Refusal :=
  issueReg (.icmpLe o) s (fun e => .ok (e.compare o true false (fun x y => decide (x ≤ y))))

/-- ICMP.GT (R269). -/
def execIcmpGt (o : OpAB) (s : State) : Host.Outcome State Fault Refusal :=
  issueReg (.icmpGt o) s (fun e => .ok (e.compare o true false (fun x y => decide (x > y))))

/-- ICMP.GE (R269). -/
def execIcmpGe (o : OpAB) (s : State) : Host.Outcome State Fault Refusal :=
  issueReg (.icmpGe o) s (fun e => .ok (e.compare o true false (fun x y => decide (x ≥ y))))

/-- ICMP.LTU (R269). -/
def execIcmpLtu (o : OpAB) (s : State) : Host.Outcome State Fault Refusal :=
  issueReg (.icmpLtu o) s (fun e => .ok (e.compare o false true (fun x y => decide (x < y))))

/-- ICMP.LEU (R269). -/
def execIcmpLeu (o : OpAB) (s : State) : Host.Outcome State Fault Refusal :=
  issueReg (.icmpLeu o) s (fun e => .ok (e.compare o false true (fun x y => decide (x ≤ y))))

/-- ICMP.GTU (R269). -/
def execIcmpGtu (o : OpAB) (s : State) : Host.Outcome State Fault Refusal :=
  issueReg (.icmpGtu o) s (fun e => .ok (e.compare o false true (fun x y => decide (x > y))))

/-- ICMP.GEU (R269). -/
def execIcmpGeu (o : OpAB) (s : State) : Host.Outcome State Fault Refusal :=
  issueReg (.icmpGeu o) s (fun e => .ok (e.compare o false true (fun x y => decide (x ≥ y))))

end Sys2Proof.Machine
end

