-- ==== Sys2Proof/Machine/Lane.lean ====
section
/-! DEFINITION. Lane forms, MAJ 0x06 (R274 to R277). -/

namespace Sys2Proof.Machine

/-- The combination of some values, exact (R276). `sg` chooses how MIN and MAX order patterns. -/
def scanCombine (op : ScanOp) (sg : Bool) (n : Nat) (l : List Word) : Int :=
  let ints := l.map (toI sg n)
  match op with
  | .add => ints.foldl (fun x y => x + y) 0
  | .min => ints.foldl (fun x y => if y < x then y else x) (if sg then 2 ^ (n - 1) - 1 else 2 ^ n - 1)
  | .max => ints.foldl (fun x y => if y > x then y else x) (if sg then -(2 ^ (n - 1)) else 0)
  | .and => ((l.foldl (fun x y => x &&& y) (low n (BitVec.allOnes 64))).toNat : Int)
  | .or => ((l.foldl (fun x y => x ||| y) 0#64).toNat : Int)
  | .xor => ((l.foldl (fun x y => x ^^^ y) 0#64).toNat : Int)

/-- The value lane i receives from the lanes of J (R276). -/
def scanValue (o : OpScan) (l : List Word) : Word :=
  let n := o.sz.bits
  let r := scanCombine o.op o.sg n l
  wrap n (if o.sat then satOf o.sg r n else r)

/-- LPERM reads every source lane before it writes (R275). -/
def execLperm (o : OpAB) (s : State) : Host.Outcome State Fault Refusal :=
  issueReg (.lperm o) s (fun e => .ok (e.map2 o false .w32 (fun _ _ b => e.laneA o.sz o.a (b.toNat % 32))))

/-- LSCAN (R276). -/
def execLscan (o : OpScan) (s : State) : Host.Outcome State Fault Refusal :=
  issueReg (.lscan o) s (fun e => .ok (putLanes e.w e.b.exec o.sz o.sg o.d.toNat (fun i =>
    scanValue o (((lanesOf e.b.exec).filter (fun j => j < i || (!o.ex && j == i))).map (e.laneA o.sz o.a)))))

/-- LRED (R276). -/
def execLred (o : OpScan) (s : State) : Host.Outcome State Fault Refusal :=
  issueReg (.lred o) s (fun e => .ok (putLanes e.w e.b.exec o.sz o.sg o.d.toNat (fun _ =>
    scanValue o ((lanesOf e.b.exec).map (e.laneA o.sz o.a)))))

/-- BALLOT: one 32-bit register at every width (R277). -/
def execBallot (o : OpA) (s : State) : Host.Outcome State Fault Refusal :=
  issueReg (.ballot o) s (fun e =>
    let m := maskOf (fun i => e.b.active i && e.laneA o.sz o.a i != 0)
    .ok (e.w.writeV o.d.toNat e.b.exec (Vector.replicate 32 m)))

end Sys2Proof.Machine
end

