-- ==== Sys2Proof/Machine/Digest.lean ====
section
/-! DEFINITION. SHA3-256 (FIPS 202), which R470 and R471 name. A state of 25 lanes of 64 bits; lane x + 5 y. -/

namespace Sys2Proof.Machine

abbrev Keccak := List (BitVec 64)

def Keccak.at_ (a : Keccak) (x y : Nat) : BitVec 64 := a.getD (x % 5 + 5 * (y % 5)) 0

/-- The 25 lanes of a function of x and y. -/
def Keccak.make (f : Nat → Nat → BitVec 64) : Keccak := (List.range 25).map (fun i => f (i % 5) (i / 5))

/-- The offsets of the step rho, by lane. -/
def rhoOffsets : List Nat :=
  [0, 1, 62, 28, 27, 36, 44, 6, 55, 20, 3, 10, 43, 25, 39, 41, 45, 15, 21, 8, 18, 2, 61, 56, 14]

/-- The constants of the step iota. -/
def iotaConstants : List (BitVec 64) :=
  [0x0000000000000001, 0x0000000000008082, 0x800000000000808A, 0x8000000080008000, 0x000000000000808B, 0x0000000080000001,
   0x8000000080008081, 0x8000000000008009, 0x000000000000008A, 0x0000000000000088, 0x0000000080008009, 0x000000008000000A] ++
  [0x000000008000808B, 0x800000000000008B, 0x8000000000008089, 0x8000000000008003, 0x8000000000008002, 0x8000000000000080,
   0x000000000000800A, 0x800000008000000A, 0x8000000080008081, 0x8000000000008080, 0x0000000080000001, 0x8000000080008008]

/-- The step theta. -/
def Keccak.theta (a : Keccak) : Keccak :=
  let c := (List.range 5).map (fun x => a.at_ x 0 ^^^ a.at_ x 1 ^^^ a.at_ x 2 ^^^ a.at_ x 3 ^^^ a.at_ x 4)
  let d := fun x : Nat => c.getD ((x + 4) % 5) 0 ^^^ (c.getD ((x + 1) % 5) 0).rotateLeft 1
  Keccak.make (fun x y => a.at_ x y ^^^ d x)

/-- The steps rho and pi: lane (x, y) comes from lane (x + 3 y, x). -/
def Keccak.rhoPi (a : Keccak) : Keccak :=
  Keccak.make (fun x y => (a.at_ (x + 3 * y) x).rotateLeft (rhoOffsets.getD ((x + 3 * y) % 5 + 5 * x) 0))

/-- The step chi. -/
def Keccak.chi (a : Keccak) : Keccak :=
  Keccak.make (fun x y => a.at_ x y ^^^ (~~~(a.at_ (x + 1) y) &&& a.at_ (x + 2) y))

/-- A round. -/
def Keccak.round (a : Keccak) (rc : BitVec 64) : Keccak :=
  match a.theta.rhoPi.chi with
  | [] => []
  | l :: r => (l ^^^ rc) :: r

/-- The permutation. -/
def Keccak.permute (a : Keccak) : Keccak := iotaConstants.foldl Keccak.round a

/-- A block of 136 bytes is absorbed. -/
def Keccak.absorb (a : Keccak) (b : List Byte) : Keccak :=
  Keccak.permute (Keccak.make (fun x y =>
    let i := x + 5 * y
    if i < 17 then a.at_ x y ^^^ BitVec.ofNat 64 (leValue ((b.drop (8 * i)).take 8)) else a.at_ x y))

/-- The last block of a message, padded for SHA-3. -/
def sha3Pad (b : List Byte) : List Byte :=
  let n := 136 - b.length
  if n = 1 then b ++ [0x86] else b ++ [0x06] ++ List.replicate (n - 2) 0 ++ [0x80]

/-- The blocks of a message absorbed in turn; `fuel` bounds their number. -/
def sha3From (a : Keccak) (m : List Byte) : Nat → Keccak
  | 0 => a
  | n + 1 => if m.length < 136 then a.absorb (sha3Pad m) else sha3From (a.absorb (m.take 136)) (m.drop 136) n

/-- SHA3-256. -/
def sha3 (m : List Byte) : List Byte :=
  let a := sha3From (List.replicate 25 0) m (m.length / 136 + 1)
  ((a.take 4).flatMap (fun v => leBytes 8 v.toNat))

end Sys2Proof.Machine
end

