-- ==== Sys2Proof/Machine/Manage.lean ====
section
/-! DEFINITION. Page migration and background remapping, refresh, scrubbing, monitors, boot and attestation, and the resets (R50
to R52, R66, R85, R114, R149 to R154, R159, R470 to R475). -/

namespace Sys2Proof.Machine

/-! ### Page migration (R50 to R52) -/

/-- The normal 64 KiB leaf of KIND 00 of a page: the key of its entry and the entry. -/
def smallLeaf (s : State) (ctx vpage : Nat) : Option (Nat × Word) :=
  match walk s ctx (vpage * 65536), leafKey s ctx (vpage * 65536) with
  | .leaf 0 e, some k => if pteSparse e = 0 && pteKind e = 0 then some (k, e) else none
  | _, _ => none

def Sys.migration? (y : Sys) (ctx vpage : Nat) : Option Migration :=
  y.migrations.find? (fun m => m.ctx == ctx && m.vpage == vpage)

def Sys.setMigration (y : Sys) (m : Migration) : Sys :=
  { y with migrations := y.migrations.map (fun x => if x.ctx == m.ctx && x.vpage == m.vpage then m else x) }

def Sys.dropMigration (y : Sys) (m : Migration) : Sys :=
  { y with migrations := y.migrations.filter (fun x => !(x.ctx == m.ctx && x.vpage == m.vpage)) }

/-- The physical address that no region lets the page's walk read. -/
def walkRefused (s : State) (ctx vpage : Nat) : Option Nat :=
  match walk s ctx (vpage * 65536) with
  | .firewall pa => some pa
  | _ => none

/-- The first step: the source frame is frozen. Another leaf than a normal one of 64 KiB and KIND 00 is rejected with a status to the
requester (R52), and a copy that no region permits is not made (R54): it is checked as an engine's, and the freeze log names the host port as
its requester (DESIGN CHOICE, log 106). -/
def startMigration (ctx vpage dst : Nat) (background : Bool) (s : State) : Upd :=
  let y := walkFills s ctx (vpage * 65536) s.sys
  let t : State := { s with sys := y }
  match walkRefused s ctx vpage, smallLeaf s ctx vpage with
  | some pa, _ => freezeContext t .host ctx (mainKey 0 pa, false)
  | none, none => .of (y.answered .rejected)
  | none, some (k, e) =>
    let src := pteFrame e
    let open_ := y.openRegions ctx
    let busy := y.migrations.any (fun m => (m.ctx == ctx && m.vpage == vpage) || m.src == src || m.dst == dst)
    if busy then .of (y.answered .busy)
    else if dst % 65536 != 0 || kind00End ≤ dst || dst = src then .of (y.answered .invalid)
    else if !y.permits .engine open_ (mainKey 0 src) 65536 false then freezeContext t .host ctx (mainKey 0 src, false)
    else if !y.permits .engine open_ (mainKey 0 dst) 65536 true then freezeContext t .host ctx (mainKey 0 dst, true)
    else .of (({ y with migrations := y.migrations ++
      [{ ctx, vpage, src, dst, pte := e, leafKey := k, phase := .freeze, background, stale := false }] } : Sys).answered .ok)

/-- The migration's frames both lie in regions that are online (R158). -/
def Sys.framesOnline (y : Sys) (m : Migration) : Bool := y.online m.src && y.online m.dst

/-- The copy: each line to its place in the destination frame, with its poison; the source is read for the page's context (R149). -/
def copyFrame (m : Migration) (s : State) : Upd :=
  let map := pteTag m.pte
  let line := fun i : Nat =>
    (s.sys.placed map (mainKey 0 (m.src + 256 * i)), s.sys.placed map (mainKey 0 (m.dst + 256 * i)))
  let moved := (List.range 256).map line
  let bad := moved.flatMap (fun x =>
    (s.sys.poison.filter (fun p => decide (x.1 ≤ p) && decide (p < x.1 + 256))).map (fun p => x.2 + (p - x.1)))
  let y := ((s.sys.fillFor (mainKey 0 m.src) 65536 false m.ctx m.vpage).performed .host s.sys.time.now (mainKey 0 m.dst) 65536 0)
  { sys := { y with poison := (y.poison ++ bad).eraseDups },
    stores := moved.map (fun x => .bytes x.2 (s.mem.bytes x.1 256)) }

/-! ### The remap reserve and log (R150, R151) -/

/-- A remap reserve as the migration engine reads it (R46): the key of its header, count, capacity and frame array. -/
structure Reserve where
  key : Nat
  count : Nat
  cap : Nat
  frames : Nat
  deriving DecidableEq, Repr

/-- The reserve of a die, where there is one that can be read (R158). It is the die's, and no context's: no region is asked for it, for the
remap log or for the event ring (R54; DESIGN CHOICE, log 127). -/
def State.reserve (s : State) (die : Nat) : Option Reserve :=
  let pa := bits (s.sys.die die).remapcfg 47 6 * 64
  let k := mainKey 0 pa
  if pa = 0 || (s.sys.accessFails k 64 true).isSome then none
  else some { key := k, count := s.mem.value k 4, cap := s.mem.value (k + 4) 4, frames := s.mem.value (k + 8) 8 }

/-- The locations that the engine reads of a reserve. -/
def State.reserveReads (s : State) (die : Nat) : List (Nat × Nat) :=
  match s.reserve die with
  | none => []
  | some r => [(r.key, 64), (mainKey 0 r.frames, 8 * r.count)]

/-- The home caches after a reading of a reserve (R149; its request tag is log 102's). -/
def reserveFills (s : State) (die : Nat) (y : Sys) : Sys :=
  (s.reserveReads die).foldl (fun z x => z.fillFor x.1 x.2 false 0 0) y

/-- A frame is pushed onto a die's reserve; a full one takes no more (log 33). -/
def pushReserve (die frame : Nat) (s : State) : Upd :=
  match s.reserve die with
  | none => idle s
  | some r =>
    if r.cap ≤ r.count then idle s
    else Upd.andThen s (hostPut (mainKey 0 (r.frames + 8 * r.count)) (leBytes 8 frame) s) (hostPut r.key (leBytes 4 (r.count + 1)))

/-- The hash version of a frame's region. -/
def Sys.hverOf (y : Sys) (pa : Nat) : Nat := ((y.die (paDie pa)).region (paFrame pa / 1024)).hver

/-- The frame that the engine picks from a reserve: the uppermost whose region's hash version differs from the source's; its
place, and the frame (log 33). -/
def pickReserve (s : State) (die src : Nat) : Option (Nat × Nat) :=
  match s.reserve die with
  | none => none
  | some r =>
    ((List.range r.count).reverse).findSome? (fun i =>
      let k := mainKey 0 (r.frames + 8 * i)
      let f := s.mem.value k 8
      if (s.sys.accessFails k 8 true).isNone && s.sys.hverOf f != s.sys.hverOf src then some (i, f) else none)

/-- A frame is taken out of a reserve: the top entry takes its place. -/
def takeReserve (die i : Nat) (s : State) : Upd :=
  match s.reserve die with
  | none => idle s
  | some r =>
    let top := s.mem.value (mainKey 0 (r.frames + 8 * (r.count - 1))) 8
    Upd.andThen s (hostPut (mainKey 0 (r.frames + 8 * i)) (leBytes 8 top) s) (hostPut r.key (leBytes 4 (r.count - 1)))

def Control.remapSize (c : Control) : Nat := 2 ^ (bits c.remaplog 51 48 + 6)

/-- The ring has room for one more record, those of the migrations under way counted. -/
def Sys.remapRoom (y : Sys) : Bool :=
  let c := y.ctl
  c.remaplog.getLsbD 63 &&
    decide ((c.remapTail - c.remapHead).toNat + (y.migrations.filter (·.background)).length < c.remapSize)

/-- A migration's record in the remap log, with its event. Its room was found when the migration started: one that starts before EN is cleared
writes its record still (DESIGN CHOICE, log 123). -/
def logRemap (m : Migration) (s : State) : Upd :=
  let c := s.sys.ctl
  let key := mainKey 2 (bits c.remaplog 47 6 * 64 + 64 * (c.remapTail.toNat % c.remapSize))
  let rec_ := leBytes 2 m.ctx ++ leBytes 1 (paDie m.src) ++ List.replicate 5 0 ++ leBytes 8 (m.vpage * 65536) ++ leBytes 8 m.src ++
    leBytes 8 m.dst ++ leBytes 8 s.sys.clk ++ List.replicate 24 0
  let y := s.sys.setControl (fun c => { c with remapTail := c.remapTail + 1 })
  Upd.andThen s (hostPut key rec_ { s with sys := y }) (fun t => raiseEvent t 8 m.ctx (c.remapTail.zeroExtend 64) 0)

/-- A migration ends without a switch: the destination goes back to its requester (R52). -/
def endUnswitched (m : Migration) (s : State) : Upd :=
  let u : Upd := .of (s.sys.dropMigration m)
  if m.background then Upd.andThen s u (pushReserve (paDie m.src) m.dst) else u

/-- The switch: the leaf takes the new frame, unless it has been written meanwhile (R52). A leaf that no region opens to the context's writes is
not rewritten, and freezes it (R54, R55). -/
def switchPage (m : Migration) (s : State) : Upd :=
  match smallLeaf s m.ctx m.vpage with
  | some (k, e) =>
    if k = m.leafKey && e = m.pte && !m.stale then
      if !s.sys.opens m.ctx k 8 true then Upd.andThen s (freezeContext s .host m.ctx (k, true)) (endUnswitched m)
      else
      let u := hostPut k (leBytes 8 (leafWith e m.dst 0).toNat) s
      let u1 := Upd.andThen s u (fun t => .of (t.sys.setMigration { m with phase := .switch }))
      if m.background then Upd.andThen s u1 (logRemap m) else u1
    else endUnswitched m s
  | none => endUnswitched m s

/-- The invalidation: the page is dropped everywhere, and the engines that keep its leaf take the new one (R34, R51). -/
def Sys.invalidateMoved (y : Sys) (m : Migration) : Sys :=
  let now := leafWith m.pte m.dst 0
  let fix := fun l : PageLeaf => if l.vpage == m.vpage then { l with pte := now } else l
  let y1 := y.dropPage m.ctx m.vpage
  { y1 with ops := y1.ops.map (fun p => if p.ctx == m.ctx then { p with set := p.set.map fix } else p) }

/-- Every write and atomic that the source home accepted before the freeze is performed, and visible (R50). -/
def Sys.sourceDrained (y : Sys) (m : Migration) : Bool :=
  y.quiet (mainKey 0 m.src) 65536 &&
    !y.reqs.any (fun r => r.arrived && r.kind.writes && !r.bounced && overlaps r.key r.size (mainKey 0 m.src) 65536)

/-- No request that was translated through the old leaf is under way but those bounced. -/
def Sys.sourceIdle (y : Sys) (m : Migration) : Bool :=
  !y.reqs.any (fun r => r.key / 65536 == mainKey 0 m.src / 65536 && !r.bounced)

/-- PAGE_MIGRATION (R50): one of its six steps. A frame in a region that is no longer online ends it at the copy, without a switch
(log 113). -/
def execPageMigration (ctx va dst : Nat) (phase : MigPhase) (s : State) : Host.Outcome State Fault Refusal :=
  machineStep s (recallFirst s (
    let vpage := va / 65536
    if s.sys.ctl.held then idle s
    else match s.sys.migration? ctx vpage with
      | none =>
        if phase != .freeze then idle s
        else if !walkQuiet s ctx va then .of (walkHold s .control ctx va)
        else startMigration ctx vpage dst false s
      | some m =>
        let at_ := fun (p : MigPhase) (u : Upd) => if m.phase = p then u else idle s
        if m.dst != dst then idle s
        else match phase with
          | .freeze => idle s
          | .drain => at_ .freeze (if s.sys.sourceDrained m then .of (s.sys.setMigration { m with phase := .drain }) else idle s)
          | .copy => at_ .drain (
              if s.sys.framesOnline m then copyFrame m { s with sys := s.sys.setMigration { m with phase := .copy } }
              else endUnswitched m s)
          | .switch => at_ .copy (
              if walkQuiet s ctx va then switchPage m { s with sys := walkFills s ctx va s.sys } else .of (walkHold s .control ctx va))
          | .invalidate => at_ .switch (.of ((s.sys.invalidateMoved m).setMigration { m with phase := .invalidate }))
          | .release => at_ .invalidate (
              if !s.sys.sourceIdle m then idle s
              else
                let u : Upd := .of (s.sys.dropMigration m)
                if m.background then Upd.andThen s u (pushReserve (paDie m.src) m.src) else u)))

/-! ### The end of an epoch (R149, R150) -/

/-- A sampled page may be remapped: its region's conflicts exceed the threshold, and the region takes part (R150). -/
def remapCandidate (s : State) (die : Nat) (q : Nat × Nat) : Bool :=
  match smallLeaf s q.1 q.2 with
  | none => false
  | some (_, e) =>
    let d := s.sys.die die
    let g := d.region (paFrame (pteFrame e) / 1024)
    paDie (pteFrame e) == die && !g.noremap && decide (bits d.remapcfg 62 48 < g.conf)

/-- One candidate is migrated in the background; `false` ends remapping for the epoch. -/
def remapOne (die : Nat) (q : Nat × Nat) (s : State) : Upd × Bool :=
  match smallLeaf s q.1 q.2 with
  | none => (idle s, true)
  | some (_, e) =>
    if !s.sys.remapRoom then (idle s, false)
    else
      let t : State := { s with sys := reserveFills s die s.sys }
      match pickReserve s die (pteFrame e) with
      | none => (idle t, false)
      | some (i, f) =>
        let u := startMigration q.1 q.2 f true t
        let v : Upd := { u with sys := { u.sys with ctl := { u.sys.ctl with status := s.sys.ctl.status } } }
        if u.sys.migrations.length = s.sys.migrations.length then (v, true)
        else (Upd.andThen s v (takeReserve die i), true)

/-- The candidates of a die in turn. -/
def remapPages (die : Nat) (s : State) : List (Nat × Nat) → Upd
  | [] => .of s.sys
  | q :: r =>
    match remapOne die q s with
    | (u, false) => u
    | (u, true) => Upd.andThen s u (fun t => remapPages die t r)

/-- A die after an epoch. -/
def Die.epoch (d : Die) : Die :=
  let half := fun g : Region => { g with conf := g.conf / 2 }
  { d with regionAll := half d.regionAll, regions := d.regions.map (fun e => (e.1, half e.2)), samples := [] }

/-- What the end of an epoch reads for the dies that remap: their reserves and the tables of the pages sampled. -/
def State.epochReads (s : State) : List (Nat × Nat) :=
  (List.range 6).flatMap (fun die =>
    let d := s.sys.die die
    if d.remapcfg.getLsbD 63 then
      s.reserveReads die ++ d.samples.eraseDups.flatMap (fun q => (walkReads s q.1 (q.2 * 65536)).map (fun k => (k, 8)))
    else [])

/-- EPOCH_END (R149, R150); the homes hold its reads while a write to them is not visible (R89). -/
def execEpochEnd (s : State) : Host.Outcome State Fault Refusal :=
  machineStep s (recallFirst s (
    let n := s.sys.time.now / 2 ^ 20
    if n ≤ s.sys.ctl.epoch then idle s
    else if s.epochReads.any (fun x => !s.sys.quiet x.1 x.2) then .of (s.sys.holdRead .control s.epochReads)
    else
      let u := Upd.each s (fun die t =>
        let d := t.sys.die die
        if d.remapcfg.getLsbD 63 then remapPages die t ((d.samples.eraseDups.filter (remapCandidate t die)).take 64)
        else .of t.sys) (List.range 6)
      Upd.andThen s u (fun t =>
        .of (({ t.sys with dies := t.sys.dies.map Die.epoch } : Sys).setControl (fun c => { c with epoch := n })))))

/-! ### Refresh, scrubbing and monitors (R85, R152, R472) -/

/-- The cycles between the refreshes of two subarrays of a bank (R152): the 64 subarrays of a bank in 32 ms at 1.1 GHz, or in 16 ms where
the stack is hot (log 115). -/
def Sys.refreshGap (y : Sys) (stack : Nat) : Nat := if y.hot.contains stack then 275000 else 550000

/-- REFRESH (R152): the next subarray of the bank, once its time has come; no data changes. -/
def execRefresh (stack chan bank : Nat) (s : State) : Host.Outcome State Fault Refusal :=
  machineStep s (
    let key := (stack * 32 + chan) * 64 + bank
    let now := s.sys.time.cycle
    match Table.get? s.sys.refresh key with
    | none => .of { s.sys with refresh := Table.set s.sys.refresh key (1, now) }
    | some (n, last) =>
      if now < last + s.sys.refreshGap stack then idle s
      else .of { s.sys with refresh := Table.set s.sys.refresh key ((n + 1) % 64, now) })

/-- The die whose memory holds a place: a core scratchpad, a die scratchpad or a home cache. -/
def placeDie (place : Nat) : Nat :=
  if 2 ^ 51 ≤ place then (place - 2 ^ 51) / 2 ^ 27
  else if 2 ^ 50 ≤ place then dieOf ((place - 2 ^ 50) / 2 ^ 22)
  else paDie (keyPA place)

/-- The die of a warp. -/
def Sys.warpDie (y : Sys) (warp : Nat) : Option Nat :=
  ((y.warp? warp).bind (fun w => y.block? w.block)).map (fun k => dieOf k.core)

/-- The die of the word in which an error shows, where there is such a word. -/
def Sys.scrubDie (y : Sys) (place : ScrubPlace) : Option Nat :=
  match place with
  | .memory k | .stack k => some (placeDie k)
  | .vreg w _ _ | .shape w _ | .sreg w _ | .xreg w _ | .queue w _ _ _ => y.warpDie w
  | .acc b _ => (y.block? b).map (fun k => dieOf k.core)

/-- A unit of memory is poisoned. -/
def Sys.poisonUnitAt (y : Sys) (key : Nat) : Sys :=
  { y with poison := if y.poison.contains (poisonUnit key) then y.poison else y.poison ++ [poisonUnit key] }

/-- A register of a warp has an uncorrectable error. -/
def Sys.badRegister (y : Sys) (warp : Nat) (b : BadReg) : Sys :=
  match y.warp? warp with
  | some w => y.setWarp { w with bad := if w.bad.contains b then w.bad else w.bad ++ [b] }
  | none => y

/-- An entry of a queue has an uncorrectable error in a lane. -/
def QEntry.broken (e : QEntry) (lane : Nat) : QEntry :=
  match e with
  | .data l => .failed l (1#32 <<< lane) .none 0 0
  | .failed l m r va pc => .failed l (m ||| (1#32 <<< lane)) r va pc
  | .marker v => .failed (zeroLanes.setIfInBounds 0 (v.setWidth 32)) (1#32 <<< lane) .none 0 0

/-- The machine with an uncorrectable error in a word (R85, R154): memory is poisoned, but a clean sector of a home cache is fetched again,
and an error of the stack shows only while the cache does not hold the sector. -/
def Sys.uncorrectable (y : Sys) (place : ScrubPlace) : Sys :=
  match place with
  | .memory k =>
    if 2 ^ 50 ≤ k then y.poisonUnitAt k
    else match Table.get? y.cached (poisonUnit k) with
      | some true => y.poisonUnitAt k
      | some false => { y with cached := Table.erase y.cached (poisonUnit k) }
      | none => y
  | .stack k => if 2 ^ 48 ≤ k || (Table.get? y.cached (poisonUnit k)).isSome then y else y.poisonUnitAt k
  | .vreg w r lane => y.badRegister w (.v r (1#32 <<< lane))
  | .shape w r => y.badRegister w (.f r)
  | .sreg w r => y.badRegister w (.s r)
  | .xreg w r => y.badRegister w (.x r)
  | .queue w q i lane =>
    match y.warp? w with
    | some x =>
      match (x.queue q)[i]? with
      | some e => y.setWarp (x.setQueue q ((x.queue q).set i (e.broken lane)))
      | none => y
    | none => y
  | .acc b i =>
    match y.block? b with
    | some k => y.setBlock { k with badAcc := if k.badAcc.contains i then k.badAcc else k.badAcc ++ [i] }
    | none => y

/-- MEMORY_SCRUB (R85, R154): an error that scrubbing, or a read, has found in a word of an on-chip memory or a sector of a stack. A corrected
one changes nothing and is counted. -/
def execMemoryScrub (place : ScrubPlace) (found : ScrubFind) (s : State) : Host.Outcome State Fault Refusal :=
  machineStep s (
    match s.sys.scrubDie place, found with
    | some n, .corrected => .of (s.sys.setDie n { s.sys.die n with corrected := (s.sys.die n).corrected + 1 })
    | some _, .uncorrectable => .of (s.sys.uncorrectable place)
    | _, _ => idle s)

/-- THERMAL_THROTTLE (R472). -/
def execThermalThrottle (die : Nat) (s : State) : Host.Outcome State Fault Refusal :=
  machineStep s (.of (s.sys.setDie die { s.sys.die die with throttled := true }))

/-- THERMAL_EVENT (R472): the sensor is the die's (log 34). -/
def execThermalEvent (die : Nat) (reading : Word) (s : State) : Host.Outcome State Fault Refusal :=
  machineStep s (raiseEvent s 9 0 (BitVec.ofNat 64 die) reading)

/-- STACK_HOT_REFRESH (R472). -/
def execStackHotRefresh (stack : Nat) (s : State) : Host.Outcome State Fault Refusal :=
  machineStep s (.of { s.sys with hot := if s.sys.hot.contains stack then s.sys.hot else s.sys.hot ++ [stack] })

/-- POWER_CAP_THROTTLE (R472). -/
def execPowerCapThrottle (watts : Nat) (s : State) : Host.Outcome State Fault Refusal :=
  machineStep s (
    if watts ≤ s.sys.ctl.pwrcap then idle s else .of (s.sys.setControl (fun c => { c with powerThrottle := true })))

/-- MONITOR_FALLS_BELOW_THRESHOLD (R472). -/
def execMonitorFallsBelowThreshold (m : Monitor) (s : State) : Host.Outcome State Fault Refusal :=
  machineStep s (
    match m with
    | .die d => .of (s.sys.setDie d { s.sys.die d with throttled := false })
    | .power => .of (s.sys.setControl (fun c => { c with powerThrottle := false }))
    | .stack n => .of { s.sys with hot := s.sys.hot.filter (fun k => k != n) })

/-! ### Boot, measurement and attestation (R159, R470, R471, R474) -/

/-- A measurement register extended with a digest (R471). -/
def Control.extend (c : Control) (k : Nat) (digest : List Byte) : Control :=
  let old := (c.measure.toList.getD k 0)
  { c with measure := c.measure.setIfInBounds k (BitVec.ofNat 256 (leValue (sha3 (leBytes 32 old.toNat ++ digest)))) }

/-- Every region of a die is online. -/
def Die.allOnline (d : Die) : Die := { d with regionAll := { d.regionAll with state := 1 }, regions := [] }

/-- The header word of a capability (R474). -/
def capHeader (next len ver id : Nat) : Word := BitVec.ofNat 64 (next * 2 ^ 32 + len % 256 * 2 ^ 24 + ver % 256 * 2 ^ 16 + id)

/-- The headers of the capabilities from ID `id` on, `n` of them, the first of them at byte `at_` of the page: offset and word. A capability's
length, its version and the room behind it come from a free value each (log 114). -/
def capHeaders (y : Sys) (id at_ : Nat) : Nat → List (Nat × Word)
  | 0 => []
  | n + 1 =>
    let v := (y.freeAt id).toNat
    let len := 1 + v % 255
    let next := at_ + 8 * (len + v / 256 % 256)
    (at_, capHeader (if n = 0 then 0 else next) len (v / 65536) id) :: capHeaders y (id + 1) next n

/-- The capability page (R474): the headers of the capabilities 1 to 7 in a chain; every other byte is a free value (log 114). -/
def capStores (y : Sys) (page : Nat) : List Store :=
  .bytes (mainKey 0 page) ((y.useFree 8).freeBytes 65536) ::
    (capHeaders y 1 0 7).map (fun h => .bytes (mainKey 0 (page + h.1)) (leBytes 8 h.2.toNat))

/-- BOOT (R470): a good image is measured and started; it adds every region of every die as an extent (R159), and writes the
capability page, whose place is a free value (R474, log 6). Else the part stays in recovery. -/
def execBoot (image signature : List Byte) (s : State) : Host.Outcome State Fault Refusal :=
  machineStep s (
    let y := s.sys
    if y.ctl.booted || y.ctl.held then idle s
    else if !Config.imageSigned image signature || Config.imageVersion image < Config.rollbackCounter then
      .of (y.setControl (fun c => { c with recovery := true }))
    else
      let page := (y.freeAt 0).toNat % (6 * 2 ^ 21) * 65536
      let y1 := ({ y with dies := y.dies.map Die.allOnline }.setControl (fun c =>
        { c.extend 0 (sha3 image) with booted := true, recovery := false, capPage := page })).useFree (8 + 65536)
      { sys := { y1 with poison := y1.poison.filter (fun p => decide (2 ^ 48 ≤ p)), cached := [] },
        stores := .clear 0 (2 ^ 48) :: capStores y page })

/-- MEASUREMENT_EXTEND (R471): firmware extends registers 1 to 7. -/
def execMeasurementExtend (k : Nat) (digest : List Byte) (s : State) : Host.Outcome State Fault Refusal :=
  machineStep s (
    if k = 0 || 8 ≤ k || !s.sys.ctl.booted then idle s else .of (s.sys.setControl (fun c => c.extend k digest)))

/-- What an attestation report holds before its signature (R471). -/
def Sys.reportBody (y : Sys) (nonce : List Byte) : List Byte :=
  Config.identity ++ y.ctl.measure.toList.flatMap (fun m => leBytes 32 m.toNat) ++ nonce ++ leBytes 8 y.clk

/-- ATTESTATION_REQUEST (R471): a signed report for a 32-byte nonce. -/
def execAttestationRequest (nonce : List Byte) (s : State) : Host.Outcome State Fault Refusal :=
  machineStep s (
    if nonce.length != 32 || !s.sys.ctl.booted then idle s
    else
      let body := s.sys.reportBody nonce
      .of (s.sys.setControl (fun c => { c with
        report := body ++ (Config.attestationSignature Config.devicePublicKey body).toList })))

/-! ### Resets (R66, R114, R475) -/

/-- Who a report names for a write of no operation: its origin's partition. -/
def Req.who (r : Req) : Who :=
  match r.origin with
  | .part c p => { ctx := r.ctx, tskid := 0, flat := 0, index := 0, slot := 0, part := p, core := c }
  | _ => { ctx := r.ctx, tskid := 0, flat := 0, index := 0, slot := 0, part := 0, core := 0 }

/-- A write that a reset leaves unperformed is discarded and reported (R114). -/
def reportLost (r : Req) (s : State) : Upd :=
  let t : TrapInfo := { trapOf .impreciseStore (BitVec.ofNat 64 r.va) with tlanes := idxMask r.lanes }
  match s.sys.op? r.op with
  | none => logLost s r.who 0 t
  | some p => logLost s (p.who s.sys) p.pc { t with opc := p.pc }

/-- The writes and atomics under way that `f` picks are reported. -/
def reportAll (f : Req → Bool) (s : State) : Upd := Upd.each s reportLost (s.sys.reqs.filter (fun r => r.kind.writes && f r))

/-- A package reset: the writes not yet performed are discarded and reported (R114), and memory of the package is lost; host, attached and
peer memory is not the package's. The free values that have been used stay used. -/
def resetWith (f : Control → Control) (s : State) : Upd :=
  Upd.andThen s (reportAll (fun _ => true) s) (fun t =>
    { sys := ({ Sys.reset with free := t.sys.free } : Sys).setControl f,
      stores := [.clear 0 (2 ^ 48), .clear (2 ^ 50) (2 ^ 52)] })

/-- PACKAGE_COLD_RESET (R475): everything is lost, and boot runs again. -/
def execPackageColdReset (s : State) : Host.Outcome State Fault Refusal := machineStep s (resetWith id s)

/-- PACKAGE_WARM_RESET (R475): the firmware image stays (log 35). -/
def execPackageWarmReset (s : State) : Host.Outcome State Fault Refusal :=
  machineStep s (resetWith (fun c => { c with booted := s.sys.ctl.booted, recovery := s.sys.ctl.recovery }) s)

/-- THERMAL_TRIP (R472): the package is held in reset until firmware releases it by a reset. -/
def execThermalTrip (s : State) : Host.Outcome State Fault Refusal :=
  machineStep s (resetWith (fun c => { c with held := true }) s)

/-- A requester of a die. -/
def Origin.onDie (o : Origin) (die : Nat) : Bool :=
  match o with
  | .part core _ | .accord core => dieOf core == die
  | .copy c | .long c => clusterDie c == die
  | .flacon d | .proc d => d == die
  | _ => false

/-- What a reset die takes with it: its blocks, warps, commands, bins, translations and caches. -/
def Sys.withoutDie (y : Sys) (die : Nat) : Sys :=
  let gone := fun k : Block => dieOf k.core == die
  let goneId := fun id : Nat => y.blocks.any (fun k => k.id == id && gone k)
  let place := fun t : TlbEntry => match t.place with
    | .core c => dieOf c == die
    | .die d => d == die
  let y1 := { y with
    warps := y.warps.filter (fun w => !goneId w.block)
    blocks := y.blocks.filter (fun k => !gone k)
    saved := y.saved.filter (fun b => b.out || !gone b.block)
    ops := y.ops.filter (fun p => dieOf p.core != die)
    reqs := (y.reqs.filter (fun r : Req => !r.origin.onDie die)).map (fun r : Req => if placeDie r.key = die then { r with arrived := false } else r)
    unseen := y.unseen.filter (fun u => u.key < 2 ^ 50 || placeDie u.key != die)
    reading := y.reading.filter (fun q => (decide (2 ^ 48 ≤ q.key) && decide (q.key < 2 ^ 50)) || placeDie q.key != die)
    hostHeld := y.hostHeld.filter (fun t => paDie (keyPA t) != die)
    holder := y.holder.filter (fun e => paDie (keyPA e.1) != die)
    snooping := y.snooping.filter (fun q => paDie (keyPA q.sector) != die)
    late := y.late.filter (fun t => paDie (keyPA t) != die)
    bins := y.bins.filter (fun b => b.die != die)
    posts := y.posts.filter (fun p => p.die != die)
    mmqs := y.mmqs.filter (fun m => !goneId m.block)
    tlb := y.tlb.filter (fun t => !place t)
    misses := y.misses.filter (fun m => m.die != die)
    found := y.found.filter (fun f => f.die != die)
    heldFaults := y.heldFaults.filter (fun f => f.die != die)
    icache := y.icache.filter (fun e => dieOf e.1 != die)
    cached := y.cached.filter (fun c => paDie c.1 != die)
    wanted := y.wanted.filter (fun q => paDie (keyPA q.sector) != die)
    returned := y.returned.filter (fun q => paDie (keyPA q) != die)
    poison := y.poison.filter (fun p => decide (p < 2 ^ 50) || placeDie p != die)
    portA := y.portA.filter (fun e => dieOf (e.1 / 6) != die)
    portPhase := y.portPhase.filter (fun e => dieOf (e.1 / 6) != die)
    portPicks := y.portPicks.filter (fun e => dieOf (e.1 / 6) != die)
    contexts := y.contexts.map (fun (e : Nat × Context) => (e.1, { e.2 with heap := e.2.heap.filter (fun b => b.owner != die) })) }
  { y1 with selected := y1.selected.filter (fun c => (y1.warp? c.1).isSome), time := { y1.time with
      cycleBase := y1.time.cycleBase.setIfInBounds die y1.time.cycle } }

/-- The sectors that only the die's cache held are lost: their bytes are free values (log 6). -/
def lostSectors (die : Nat) (s : State) : Upd :=
  let l := (s.sys.cached.filter (fun c => c.2 && paDie c.1 == die)).map (fun c => c.1)
  Upd.each s (fun t u => { sys := u.sys.useFree 65, stores := [.bytes t (u.sys.freeBytes 64)] }) l

/-- COMPUTE_DIE_RESET (R475): all state of the die is lost (R66), its blocks abort, and the clock runs on. -/
def execComputeDieReset (die : Nat) (s : State) : Host.Outcome State Fault Refusal :=
  machineStep s (
    if 6 ≤ die then idle s
    else
      let grids := ((s.sys.blocks.filter (fun k => dieOf k.core == die && !k.isTask)).map (·.launch)).eraseDups
      let u1 := reportAll (fun r => r.origin.onDie die) s
      let u2 := Upd.andThen s u1 (fun t => Upd.each t (fun g v => abortGrid v g 0xFF) grids)
      let u3 := Upd.andThen s u2 (lostSectors die)
      Upd.andThen s u3 (fun t =>
        let y := (t.sys.withoutDie die).setDie die Die.reset
        { sys := (grids.foldl Sys.dropAborted y).tidyPreempts,
          stores := [.clear (dieKey die 0) (2 ^ 27), .clear (scratchKey (40 * die) 0) (40 * 2 ^ 22)] }))

end Sys2Proof.Machine
end

