-- ==== Sys2Proof/Machine/Move.lean ====
section
/-! DEFINITION. Moves, MAJ 0x03 (R270). -/

namespace Sys2Proof.Machine

/-- MOV (R270). -/
def execMov (o : OpA) (s : State) : Host.Outcome State Fault Refusal :=
  issueReg (.mov o) s (fun e => .ok (e.map1 o (fun a => a)))

/-- MOVI (R270). -/
def execMovi (d : BitVec 8) (imm : BitVec 16) (sz : Sz) (s : State) : Host.Outcome State Fault Refusal :=
  issueReg (.movi d imm sz) s (fun e => .ok (putLanes e.w e.b.exec sz false d.toNat (fun _ => low sz.bits (immS imm))))

/-- STOV: writes nothing when lane j is inactive (R270). -/
def execStov (d : BitVec 8) (a : SReg) (j : UImm) (sz : Sz) (sg : Bool) (s : State) :
    Host.Outcome State Fault Refusal :=
  issueReg (.stov d a j sz sg) s (fun e =>
    .ok (putLanes e.w (e.b.exec &&& (1#32 <<< e.laneArg j)) sz sg d.toNat (fun _ => low sz.bits (e.w.s a))))

/-- VTOS: reads lane j whatever EXEC holds (R270). -/
def execVtos (d : SReg) (a : BitVec 8) (j : UImm) (sz : Sz) (sg : Bool) (s : State) :
    Host.Outcome State Fault Refusal :=
  issueReg (.vtos d a j sz sg) s (fun e => .ok (e.w.setS d (ext sg sz.bits (e.w.lane sz a.toNat (e.laneArg j)))))

end Sys2Proof.Machine
end

