-- ==== Sys2Proof/Machine/Pair.lean ====
section
/-! DEFINITION. Paired words (R204 to R208). -/

namespace Sys2Proof
open Sys2Proof.Machine

/-- The half ops whose imm8 is zero-extended (R196). -/
def Hop.zx : Hop → Bool
  | .hand | .hor | .hxor | .hshl | .hshr => true
  | _ => false

/-- An imm8 extended to 64 bits (R206). -/
def Hop.imm (h : Hop) (i : BitVec 8) : Word := if h.zx then i.zeroExtend 64 else i.signExtend 64

/-- The queue pops before half Y's: half X's on the same queue (R208). -/
def Half.before (x : Half) (q : BitVec 2) : Nat := (x.pops.filter (fun p => p.1 == q)).length

end Sys2Proof

namespace Sys2Proof.Machine

/-- The source of a V half for lane i: 32 bits. -/
def Env.halfSrc (e : Env) (h : Half) (before : BitVec 2 → Nat) (i : Nat) : Word :=
  match h.rs with
  | .v r => e.w.lane .w32 r.toNat i
  | .s r => low 32 (e.w.s r)
  | .imm m => low 32 (h.op.imm m)
  | .queue q => e.w.popLane .w32 q (before q) i

/-- The source of an S half: 64 bits. -/
def Env.halfSrcS (e : Env) (h : Half) : Word :=
  match h.rs with
  | .s r => e.w.s r
  | .imm m => h.op.imm m
  | _ => 0

/-- The effect of a V half on one lane: `d` the old value, `s` the source (R205). -/
def hopLane (c : FpCtx) (op : Hop) (d s : Word) : FpOut :=
  let i := intBin true false 32
  match op with
  | .hadd => (i (fun x y => x + y) d s, 0)
  | .hsub => (i (fun x y => x - y) d s, 0)
  | .hand => (d &&& s, 0)
  | .hor => (d ||| s, 0)
  | .hxor => (d ^^^ s, 0)
  | .hshl => (shlBits 32 d s, 0)
  | .hshr => (shrBits 32 d s, 0)
  | .hmov => (s, 0)
  | .hmin => (i (fun x y => if x ≤ y then x else y) d s, 0)
  | .hmax => (i (fun x y => if x ≤ y then y else x) d s, 0)
  | .hfadd => c.add (c.read d) (c.read s)
  | .hfmul => c.mul (c.read d) (c.read s)
  | .hsadd | .hsmov | .hssub | .hnop => (d, 0)

/-- The effect of an S half (R205). -/
def hopScalar (op : Hop) (d s : Word) : Word :=
  match op with
  | .hsadd => d + s
  | .hssub => d - s
  | _ => s

/-- What a V half gives for lane i, from the registers at issue. -/
def Env.halfLane (e : Env) (h : Half) (before : BitVec 2 → Nat) (i : Nat) : FpOut :=
  hopLane (e.w.fpCtx .f32 .dyn) h.op (e.w.lane .w32 h.rd.toNat i) (e.halfSrc h before i)

/-- Writes a half's result into `w`, its sources read at issue (R208). -/
def Env.halfWrite (e : Env) (h : Half) (before : BitVec 2 → Nat) (w : Warp) : Warp :=
  if h.op == .hnop then w
  else if h.op.scalar then w.setSn h.rd.toNat (hopScalar h.op (e.w.sn h.rd.toNat) (e.halfSrcS h))
  else putLanes w e.b.exec .w32 false h.rd.toNat (fun i => (e.halfLane h before i).1)

/-- The flags a half raises in lane i. -/
def Env.halfFlags (e : Env) (h : Half) (before : BitVec 2 → Nat) (i : Nat) : FpFlags :=
  if h.op == .hnop || h.op.scalar then 0 else (e.halfLane h before i).2

/-- PAIRED_WORD: a trap of either half leaves both without effect (R208, R246). -/
def execPairedWord (x y : Half) (s : State) : Host.Outcome State Fault Refusal :=
  issueReg (.pairedWord x y) s (fun e =>
    let none_ := fun _ : BitVec 2 => 0
    e.raiseFlags (fun i => e.halfFlags x none_ i ||| e.halfFlags y x.before i)
      (e.halfWrite y x.before (e.halfWrite x none_ e.w)))

end Sys2Proof.Machine
end

