-- ==== Sys2Proof/Machine/Scalar.lean ====
section
/-! DEFINITION. Scalar forms, MAJ 0x04 and 0x05 (R271 to R273). -/

namespace Sys2Proof.Machine

/-- A uniform operand B, an immediate sign- or zero-extended (R196). -/
def Env.uniB (e : Env) (u : UImm) (zx : Bool) : Word :=
  match u with
  | .s r => e.w.sx e.o r
  | .imm m => if zx then immZ m else immS m

/-- A scalar result: `n` bits extended to 64 (R271). -/
def Env.scalarOut (e : Env) (d : SReg) (sz : Sz) (sg : Bool) (r : Word) : Warp :=
  e.w.setSx e.o d (ext sg sz.bits r)

/-- A scalar form of two sources. -/
def Env.scalar2 (e : Env) (o : OpS) (zx : Bool) (f : Word → Word → Word) : Warp :=
  e.scalarOut o.d o.sz o.sg (f (low o.sz.bits (e.scalarA o.a)) (low o.sz.bits (e.uniB o.b zx)))

/-- An arithmetic scalar form. -/
def Env.scalarArith (e : Env) (o : OpS) (f : Int → Int → Int) : Warp :=
  e.scalar2 o false (intBin o.sg (o.fl.getLsbD 0) o.sz.bits f)

def Env.scalar1 (e : Env) (o : OpS1) (f : Word → Word) : Warp :=
  e.scalarOut o.d o.sz o.sg (f (low o.sz.bits (e.scalarA o.a)))

/-- The conditions of ICMP in their order, on patterns of `n` bits (R269, R272). -/
def condHolds (c n : Nat) (a b : Word) : Bool :=
  let u := toI false n
  let t := toI true n
  match c with
  | 0 => u a == u b
  | 1 => u a != u b
  | 2 => decide (t a < t b)
  | 3 => decide (t a ≤ t b)
  | 4 => decide (t a > t b)
  | 5 => decide (t a ≥ t b)
  | 6 => decide (u a < u b)
  | 7 => decide (u a ≤ u b)
  | 8 => decide (u a > u b)
  | _ => decide (u a ≥ u b)

/-- SADD (R272). -/
def execSadd (o : OpS) (s : State) : Host.Outcome State Fault Refusal :=
  issueReg (.sadd o) s (fun e => .ok (e.scalarArith o (fun x y => x + y)))

/-- SSUB (R272). -/
def execSsub (o : OpS) (s : State) : Host.Outcome State Fault Refusal :=
  issueReg (.ssub o) s (fun e => .ok (e.scalarArith o (fun x y => x - y)))

/-- SMUL (R272). -/
def execSmul (o : OpS) (s : State) : Host.Outcome State Fault Refusal :=
  issueReg (.smul o) s (fun e => .ok (e.scalarArith o (fun x y => x * y)))

/-- SMULH (R272). -/
def execSmulh (o : OpS) (s : State) : Host.Outcome State Fault Refusal :=
  issueReg (.smulh o) s (fun e => .ok (e.scalarArith o (mulHigh o.sz.bits)))

/-- SAND (R272). -/
def execSand (o : OpS) (s : State) : Host.Outcome State Fault Refusal :=
  issueReg (.sand o) s (fun e => .ok (e.scalar2 o true (fun a b => a &&& b)))

/-- SOR (R272). -/
def execSor (o : OpS) (s : State) : Host.Outcome State Fault Refusal :=
  issueReg (.sor o) s (fun e => .ok (e.scalar2 o true (fun a b => a ||| b)))

/-- SXOR (R272). -/
def execSxor (o : OpS) (s : State) : Host.Outcome State Fault Refusal :=
  issueReg (.sxor o) s (fun e => .ok (e.scalar2 o true (fun a b => a ^^^ b)))

/-- SANDN (R272). -/
def execSandn (o : OpS) (s : State) : Host.Outcome State Fault Refusal :=
  issueReg (.sandn o) s (fun e => .ok (e.scalar2 o true (fun a b => a &&& ~~~b)))

/-- SSHL (R272). -/
def execSshl (o : OpS) (s : State) : Host.Outcome State Fault Refusal :=
  issueReg (.sshl o) s (fun e => .ok (e.scalar2 o true (shlBits o.sz.bits)))

/-- SSHR (R272). -/
def execSshr (o : OpS) (s : State) : Host.Outcome State Fault Refusal :=
  issueReg (.sshr o) s (fun e => .ok (e.scalar2 o true (shrBits o.sz.bits)))

/-- SSAR (R272). -/
def execSsar (o : OpS) (s : State) : Host.Outcome State Fault Refusal :=
  issueReg (.ssar o) s (fun e => .ok (e.scalar2 o true (sarBits o.sz.bits)))

/-- SMIN (R272). -/
def execSmin (o : OpS) (s : State) : Host.Outcome State Fault Refusal :=
  issueReg (.smin o) s (fun e => .ok (e.scalarArith o (fun x y => if x ≤ y then x else y)))

/-- SMAX (R272). -/
def execSmax (o : OpS) (s : State) : Host.Outcome State Fault Refusal :=
  issueReg (.smax o) s (fun e => .ok (e.scalarArith o (fun x y => if x ≤ y then y else x)))

/-- SCLZ (R272). -/
def execSclz (o : OpS1) (s : State) : Host.Outcome State Fault Refusal :=
  issueReg (.sclz o) s (fun e => .ok (e.scalar1 o (clzBits o.sz.bits)))

/-- SCTZ (R272). -/
def execSctz (o : OpS1) (s : State) : Host.Outcome State Fault Refusal :=
  issueReg (.sctz o) s (fun e => .ok (e.scalar1 o (ctzBits o.sz.bits)))

/-- SPOPC (R272). -/
def execSpopc (o : OpS1) (s : State) : Host.Outcome State Fault Refusal :=
  issueReg (.spopc o) s (fun e => .ok (e.scalar1 o (popcBits o.sz.bits)))

/-- SSEL (R272). -/
def execSsel (o : OpS3) (s : State) : Host.Outcome State Fault Refusal :=
  issueReg (.ssel o) s (fun e => .ok (e.scalarOut o.d o.sz o.sg
    (if e.w.sx e.o (o.c.setWidth 7) != 0 then e.scalarA o.a else e.w.sx e.o o.b)))

/-- SLEA (R272). -/
def execSlea (o : OpS) (s : State) : Host.Outcome State Fault Refusal :=
  issueReg (.slea o) s (fun e => .ok (e.scalar2 o false (leaBits o.sg o.sz.bits o.sz.bits o.fl)))

/-- SCMP: C holds the condition (R272). -/
def execScmp (o : OpS3) (s : State) : Host.Outcome State Fault Refusal :=
  issueReg (.scmp o) s (fun e => .ok (e.w.setSx e.o o.d
    (if condHolds o.c.toNat o.sz.bits (e.scalarA o.a) (e.w.sx e.o o.b) then 1 else 0)))

/-- SMOVI (R273). -/
def execSmovi (d : SReg) (imm : BitVec 32) (sg : Bool) (s : State) : Host.Outcome State Fault Refusal :=
  issueReg (.smovi d imm sg) s (fun e => .ok (e.w.setSx e.o d (if sg then imm.signExtend 64 else imm.zeroExtend 64)))

/-- SMOVH: bits 31:0 are unchanged (R273). -/
def execSmovh (d : SReg) (imm : BitVec 32) (s : State) : Host.Outcome State Fault Refusal :=
  issueReg (.smovh d imm) s (fun e => .ok (e.w.setSx e.o d (imm ++ (e.w.sx e.o d).setWidth 32)))

end Sys2Proof.Machine
end

