-- ==== Sys2Proof/Machine/System.lean ====
section
/-! DEFINITION. System forms, MAJ 0x38 (R191, R412 to R414). -/

namespace Sys2Proof.Machine

/-- TRAP (R412). -/
def execTrap (code : UImm) (s : State) : Host.Outcome State Fault Refusal :=
  issue (.trap code) s (fun e =>
    let v := match code with
      | .s r => e.w.s r
      | .imm m => immZ m
    trapping .software v)

/-- TRET (R413). An EPC that the handler wrote is an indirect target (R395). -/
def execTret (s : State) : Host.Outcome State Fault Refusal :=
  issue .tret s (fun e =>
    match e.handler? with
    | none => trapping .illegal (Instr.word .tret)
    | some d =>
      let checked := if d.epcWritten && d.pending.isEmpty then (e.target e.w.epc.toNat true).map (fun _ => ()) else .ok ()
      match checked with
      | .error h => .error h
      | .ok () => .ok (trapReturn { e.s with sys := e.y.mark e.k.ctx } e.w d e.b))

/-- The address that PHINT names (R414). -/
def Env.hintAddr (e : Env) (off : BitVec 16) : Word := (e.b.pc &&& ~~~63#64) + 64 * off.signExtend 64

/-- PHINT: without a pending request it has no effect (R414). -/
def execPhint (off : BitVec 16) (s : State) : Host.Outcome State Fault Refusal :=
  issueReg (.phint off) s (fun e =>
    .ok (if (e.y.preempting e.k).isSome then { e.w with hint := some (e.hintAddr off).toNat } else e.w))

/-- SRD (R412, R191). -/
def execSrd (d : BitVec 8) (sel : Special) (s : State) : Host.Outcome State Fault Refusal :=
  issueReg (.srd d sel) s (fun e =>
    match sel with
    | .laneid => .ok (e.w.writeV d.toNat e.b.exec (Vector.ofFn (fun i : Fin 32 => BitVec.ofNat 32 i)))
    | _ => .ok (e.w.setSn d.toNat (e.y.special e.w e.b e.k sel)))

/-- The pending causes that a write of CAUSE leaves: a 0 into a pending bit cancels that cause (R444). -/
def Handler.cancel (d : Handler) (v : Word) : Handler :=
  { d with pending := d.pending.filter (fun t => v.getLsbD t.cause.num) }

/-- CAUSE after a write in handler mode: the handled bit and unset bits do not change (R444). -/
def causeWrite (old handled v : Word) : Word := old &&& (v ||| handled)

/-- The writable bits of FPCTL, HSTAT and PHASE (R244, R322, R191). -/
def fpctlMask : Word := 0x1F1F03
def hstatMask : Word := 0xFF0000FF
def phaseMask : Word := 63

/-- SWR of a register that programs may write at any time; `none` where the value makes it ILLEGAL (R191). -/
def Env.swr (e : Env) (sel : Special) (v : Word) : Option Warp :=
  match sel with
  | .exec => some (e.w.setSub e.o { e.b with exec := v.setWidth 32 &&& e.b.perm })
  | .fmt => some { e.w with fmt := v &&& 7 }
  | .nbv => if v = 1 || v = 2 then some { e.w with nbv := v } else none
  | .fpctl => some { e.w with fpctl := v &&& fpctlMask }
  | .nttth => some { e.w with nttth := v }
  | .phase => some { e.w with phase := v &&& phaseMask }
  | .hstat => some { e.w with hstat := v &&& hstatMask }
  | _ => none

/-- SWR of a register that only a handler may write (R191, R444). -/
def Warp.swrHandler (w : Warp) (d : Handler) (sel : Special) (v : Word) : Option Warp :=
  match sel with
  | .cause => some { w with cause := causeWrite w.cause d.cause.bit v, handler := some (d.cancel v) }
  | .epc => some { w with epc := v, handler := some { d with epcWritten := true } }
  | .tval => some { w with tval := v }
  | .tlanes => some { w with tlanes := v.setWidth 32 }
  | .tinfo => some { w with tinfo := v }
  | _ => none

/-- SWR (R412). -/
def execSwr (sel : Special) (u : UImm) (s : State) : Host.Outcome State Fault Refusal :=
  issueReg (.swr sel u) s (fun e =>
    let w := if sel.handlerOnly then
        (match e.handler? with
        | some d => e.w.swrHandler d sel (e.uni u)
        | none => none)
      else e.swr sel (e.uni u)
    match w with
    | some w => .ok w
    | none => trapping .illegal (Instr.word (.swr sel u)))

/-- The debug unit receives the PC of a sub-warp (R453). -/
def Sys.tellDebugger (y : Sys) (w : Warp) (b : Sub) : Sys :=
  { y with ctl := { y.ctl with broken := y.ctl.broken ++ [{ warp := w.id, sub := b.id, pc := b.pc }] } }

/-- BKPT: in a context that the debug unit has claimed the warp halts behind the word, and the debug unit receives its PC
(R412, R453, log 16). -/
def execBkpt (code : BitVec 16) (s : State) : Host.Outcome State Fault Refusal :=
  issue (.bkpt code) s (fun e =>
    if (e.y.context e.k.ctx).claimed then
      .ok (.of (((e.y.setWarp (e.w.setSub e.o { e.b.past with wait := .debugger })).mark e.k.ctx).tellDebugger e.w e.b))
    else trapping .breakpoint (immZ code))

end Sys2Proof.Machine
end

