-- ==== Sys2Proof/Machine/Witness.lean ====
section
/-! DEFINITION. Witness instructions, MAJ 0x12 (R304 to R307). -/

namespace Sys2Proof.Machine

/-- WMERGE (R107, R305). DESIGN CHOICE (log 131): where neither operand passes, TVAL holds S[A]'s witness. -/
def execWmerge (d a b : SReg) (s : State) : Host.Outcome State Fault Refusal :=
  issueReg (.wmerge d a b) s (fun e =>
    match e.witnessOk (e.w.s a), e.witnessOk (e.w.s b) with
    | .error h, _ => .error h
    | _, .error h => .error h
    | .ok (), .ok () => .ok (e.w.setS d (merge (e.w.s a) (e.w.s b))))

/-- The witness that a write of the warp would return now at a scope; 4 stands for the spill stack (R103, R306). -/
def Env.mark (e : Env) (scope : Nat) : Word :=
  if scope = 4 then 0 else Origin.wit (.part e.k.core e.w.part) scope e.y.time.now

/-- WMARK.l (R306). -/
def execWmarkL (d a : SReg) (s : State) : Host.Outcome State Fault Refusal :=
  issueReg (.wmarkL d a) s (fun e =>
    let v := e.w.s a
    let l := e.y.windows e.k (some e.w)
    if v.toNat ≥ 2 ^ 32 then trapping .window v
    else match rangeFail l v.toNat 1 with
      | some (c, _) => trapping c v
      | none => .ok (e.w.setS d (e.mark (((rangeRuns l v.toNat 1).map (·.2.2)).headD 4))))

/-- WMARK.v (R306): neither W, X, SPARSE nor the page's own firewall region is checked. -/
def execWmarkV (d a : SReg) (s : State) : Host.Outcome State Fault Refusal :=
  issue (.wmarkV d a) s (fun e =>
    let v := e.w.s a
    let core := e.k.core
    let die := dieOf core
    if v.toNat ≥ 2 ^ 56 then .error (.trap { trapOf .protection v with reason := .noncanon })
    else match e.y.known e.asker (some core) die e.k.ctx (v.toNat / 65536) with
      | some (.leaf _ pte) =>
        .ok (e.finish (e.y.touchCore core die e.k.ctx (v.toNat / 65536)) (e.w.setS d (e.mark (pteScope pte))))
      | _ =>
        match e.translate [{ lane := 32, va := v.toNat, len := 1, acc := .read }] with
        | .error h => .error h
        | .ok _ => .error (.wait (.translating [v.toNat / 65536])))

/-- WTEST (R305). -/
def execWtest (d a : SReg) (s : State) : Host.Outcome State Fault Refusal :=
  issueReg (.wtest d a) s (fun e =>
    match e.witnessOk (e.w.s a) with
    | .error h => .error h
    | .ok () => .ok (e.w.setS d (if e.y.satisfied (coreReader e.k.core) (e.w.s a) = .yes then 1 else 0)))

/-- WWAIT (R305). -/
def execWwait (a : SReg) (s : State) : Host.Outcome State Fault Refusal :=
  issueReg (.wwait a) s (fun e =>
    match e.witnessIn (e.w.s a) with
    | .error h => .error h
    | .ok () => .ok e.w)

end Sys2Proof.Machine
end

