-- ==== Sys2Proof/Machine/Dispatch.lean ====
section
/-! DEFINITION. Dispatch: one arm per constructor of `Instr`. -/

namespace Sys2Proof.Machine

def exec (i : Instr) (s : State) : Host.Outcome State Fault Refusal :=
  match i with
  | .clauseStart h => Sys2Proof.Machine.execClauseStart h s
  | .pairedWord x y => Sys2Proof.Machine.execPairedWord x y s
  | .iadd o => Sys2Proof.Machine.execIadd o s
  | .isub o => Sys2Proof.Machine.execIsub o s
  | .imul o => Sys2Proof.Machine.execImul o s
  | .imulh o => Sys2Proof.Machine.execImulh o s
  | .imad o => Sys2Proof.Machine.execImad o s
  | .imadw o => Sys2Proof.Machine.execImadw o s
  | .iaddc o => Sys2Proof.Machine.execIaddc o s
  | .isubb o => Sys2Proof.Machine.execIsubb o s
  | .imin o => Sys2Proof.Machine.execImin o s
  | .imax o => Sys2Proof.Machine.execImax o s
  | .iabs o => Sys2Proof.Machine.execIabs o s
  | .iand o => Sys2Proof.Machine.execIand o s
  | .ior o => Sys2Proof.Machine.execIor o s
  | .ixor o => Sys2Proof.Machine.execIxor o s
  | .iandn o => Sys2Proof.Machine.execIandn o s
  | .shl o => Sys2Proof.Machine.execShl o s
  | .shr o => Sys2Proof.Machine.execShr o s
  | .sar o => Sys2Proof.Machine.execSar o s
  | .rot o => Sys2Proof.Machine.execRot o s
  | .fshf o => Sys2Proof.Machine.execFshf o s
  | .bfe o => Sys2Proof.Machine.execBfe o s
  | .bfi o => Sys2Proof.Machine.execBfi o s
  | .clz o => Sys2Proof.Machine.execClz o s
  | .ctz o => Sys2Proof.Machine.execCtz o s
  | .popc o => Sys2Proof.Machine.execPopc o s
  | .brev o => Sys2Proof.Machine.execBrev o s
  | .prmb o => Sys2Proof.Machine.execPrmb o s
  | .sel o => Sys2Proof.Machine.execSel o s
  | .idiv o => Sys2Proof.Machine.execIdiv o s
  | .irem o => Sys2Proof.Machine.execIrem o s
  | .lea o => Sys2Proof.Machine.execLea o s
  | .icmpEq o => Sys2Proof.Machine.execIcmpEq o s
  | .icmpNe o => Sys2Proof.Machine.execIcmpNe o s
  | .icmpLt o => Sys2Proof.Machine.execIcmpLt o s
  | .icmpLe o => Sys2Proof.Machine.execIcmpLe o s
  | .icmpGt o => Sys2Proof.Machine.execIcmpGt o s
  | .icmpGe o => Sys2Proof.Machine.execIcmpGe o s
  | .icmpLtu o => Sys2Proof.Machine.execIcmpLtu o s
  | .icmpLeu o => Sys2Proof.Machine.execIcmpLeu o s
  | .icmpGtu o => Sys2Proof.Machine.execIcmpGtu o s
  | .icmpGeu o => Sys2Proof.Machine.execIcmpGeu o s
  | .mov o => Sys2Proof.Machine.execMov o s
  | .movi d imm sz => Sys2Proof.Machine.execMovi d imm sz s
  | .stov d a j sz sg => Sys2Proof.Machine.execStov d a j sz sg s
  | .vtos d a j sz sg => Sys2Proof.Machine.execVtos d a j sz sg s
  | .sadd o => Sys2Proof.Machine.execSadd o s
  | .ssub o => Sys2Proof.Machine.execSsub o s
  | .smul o => Sys2Proof.Machine.execSmul o s
  | .smulh o => Sys2Proof.Machine.execSmulh o s
  | .sand o => Sys2Proof.Machine.execSand o s
  | .sor o => Sys2Proof.Machine.execSor o s
  | .sxor o => Sys2Proof.Machine.execSxor o s
  | .sandn o => Sys2Proof.Machine.execSandn o s
  | .sshl o => Sys2Proof.Machine.execSshl o s
  | .sshr o => Sys2Proof.Machine.execSshr o s
  | .ssar o => Sys2Proof.Machine.execSsar o s
  | .smin o => Sys2Proof.Machine.execSmin o s
  | .smax o => Sys2Proof.Machine.execSmax o s
  | .sclz o => Sys2Proof.Machine.execSclz o s
  | .sctz o => Sys2Proof.Machine.execSctz o s
  | .spopc o => Sys2Proof.Machine.execSpopc o s
  | .ssel o => Sys2Proof.Machine.execSsel o s
  | .slea o => Sys2Proof.Machine.execSlea o s
  | .scmp o => Sys2Proof.Machine.execScmp o s
  | .smovi d imm sg => Sys2Proof.Machine.execSmovi d imm sg s
  | .smovh d imm => Sys2Proof.Machine.execSmovh d imm s
  | .lperm o => Sys2Proof.Machine.execLperm o s
  | .lscan o => Sys2Proof.Machine.execLscan o s
  | .lred o => Sys2Proof.Machine.execLred o s
  | .ballot o => Sys2Proof.Machine.execBallot o s
  | .fadd o => Sys2Proof.Machine.execFadd o s
  | .fsub o => Sys2Proof.Machine.execFsub o s
  | .fmul o => Sys2Proof.Machine.execFmul o s
  | .ffma o => Sys2Proof.Machine.execFfma o s
  | .fmin o => Sys2Proof.Machine.execFmin o s
  | .fmax o => Sys2Proof.Machine.execFmax o s
  | .fdiv o => Sys2Proof.Machine.execFdiv o s
  | .fsqrt o => Sys2Proof.Machine.execFsqrt o s
  | .fcmp o => Sys2Proof.Machine.execFcmp o s
  | .fcvt d a dt st rm => Sys2Proof.Machine.execFcvt d a dt st rm s
  | .fclass o => Sys2Proof.Machine.execFclass o s
  | .lds o => Sys2Proof.Machine.execLds o s
  | .sts o => Sys2Proof.Machine.execSts o s
  | .ldsu o => Sys2Proof.Machine.execLdsu o s
  | .stsu o => Sys2Proof.Machine.execStsu o s
  | .ldk o => Sys2Proof.Machine.execLdk o s
  | .stk o => Sys2Proof.Machine.execStk o s
  | .ats o => Sys2Proof.Machine.execAts o s
  | .atsu o => Sys2Proof.Machine.execAtsu o s
  | .atm o => Sys2Proof.Machine.execAtm o s
  | .wmerge d a b => Sys2Proof.Machine.execWmerge d a b s
  | .wmarkL d a => Sys2Proof.Machine.execWmarkL d a s
  | .wmarkV d a => Sys2Proof.Machine.execWmarkV d a s
  | .wtest d a => Sys2Proof.Machine.execWtest d a s
  | .wwait a => Sys2Proof.Machine.execWwait a s
  | .gath o => Sys2Proof.Machine.execGath o s
  | .gaths o => Sys2Proof.Machine.execGaths o s
  | .scat o => Sys2Proof.Machine.execScat o s
  | .cpl o => Sys2Proof.Machine.execCpl o s
  | .cpb o => Sys2Proof.Machine.execCpb o s
  | .cpseal tag => Sys2Proof.Machine.execCpseal tag s
  | .cpwait d tag => Sys2Proof.Machine.execCpwait d tag s
  | .cpqry d tag => Sys2Proof.Machine.execCpqry d tag s
  | .halloc d a w trapping zero fs => Sys2Proof.Machine.execHalloc d a w trapping zero fs s
  | .hfree d a w fs => Sys2Proof.Machine.execHfree d a w fs s
  | .hqry d a fs => Sys2Proof.Machine.execHqry d a fs s
  | .pcommit d a w fs => Sys2Proof.Machine.execPcommit d a w fs s
  | .pdecommit d a w zero fs => Sys2Proof.Machine.execPdecommit d a w zero fs s
  | .pqry d a fs => Sys2Proof.Machine.execPqry d a fs s
  | .strm q a b c sz sext locl => Sys2Proof.Machine.execStrm q a b c sz sext locl s
  | .strmend mask => Sys2Proof.Machine.execStrmend mask s
  | .qmark q v => Sys2Proof.Machine.execQmark q v s
  | .qdisc d q => Sys2Proof.Machine.execQdisc d q s
  | .badd d a b => Sys2Proof.Machine.execBadd d a b s
  | .bsub d a b => Sys2Proof.Machine.execBsub d a b s
  | .bneg d a => Sys2Proof.Machine.execBneg d a s
  | .bcmp d a b abs => Sys2Proof.Machine.execBcmp d a b abs s
  | .bshl d a k => Sys2Proof.Machine.execBshl d a k s
  | .bshr d a k floor => Sys2Proof.Machine.execBshr d a k floor s
  | .bmuls d a b sg => Sys2Proof.Machine.execBmuls d a b sg s
  | .bdivs d a b c sg => Sys2Proof.Machine.execBdivs d a b c sg s
  | .bnorm d a => Sys2Proof.Machine.execBnorm d a s
  | .blen d a => Sys2Proof.Machine.execBlen d a s
  | .bbits d a tz => Sys2Proof.Machine.execBbits d a tz s
  | .bspill a b w => Sys2Proof.Machine.execBspill a b w s
  | .bfill d a w => Sys2Proof.Machine.execBfill d a w s
  | .bcvtTotc d a => Sys2Proof.Machine.execBcvtTotc d a s
  | .bcvtFromtc d a => Sys2Proof.Machine.execBcvtFromtc d a s
  | .bcvtF64 d a => Sys2Proof.Machine.execBcvtF64 d a s
  | .bconv t a b c neg => Sys2Proof.Machine.execBconv t a b c neg s
  | .cres d t b last => Sys2Proof.Machine.execCres d t b last s
  | .lmul d a b c fs => Sys2Proof.Machine.execLmul d a b c fs s
  | .ladd d a b c sub fs => Sys2Proof.Machine.execLadd d a b c sub fs s
  | .nttf d a b c fs => Sys2Proof.Machine.execNttf d a b c fs s
  | .ntti d a b c fs => Sys2Proof.Machine.execNtti d a b c fs s
  | .setfmt b => Sys2Proof.Machine.execSetfmt b s
  | .mma t a b c => Sys2Proof.Machine.execMma t a b c s
  | .mmq t a b c => Sys2Proof.Machine.execMmq t a b c s
  | .zclr t n => Sys2Proof.Machine.execZclr t n s
  | .zld t g row => Sys2Proof.Machine.execZld t g row s
  | .zst g t row => Sys2Proof.Machine.execZst g t row s
  | .zcvt d t b c ty clr => Sys2Proof.Machine.execZcvt d t b c ty clr s
  | .zadd d a sub => Sys2Proof.Machine.execZadd d a sub s
  | .accrun d a b c fs => Sys2Proof.Machine.execAccrun d a b c fs s
  | .accstat d fs => Sys2Proof.Machine.execAccstat d fs s
  | .bra off => Sys2Proof.Machine.execBra off s
  | .brs c z off => Sys2Proof.Machine.execBrs c z off s
  | .brv v z off => Sys2Proof.Machine.execBrv v z off s
  | .brz m off => Sys2Proof.Machine.execBrz m off s
  | .bsplit c off => Sys2Proof.Machine.execBsplit c off s
  | .join => Sys2Proof.Machine.execJoin s
  | .call l off => Sys2Proof.Machine.execCall l off s
  | .ret l => Sys2Proof.Machine.execRet l s
  | .jmpi l k => Sys2Proof.Machine.execJmpi l k s
  | .loop c off => Sys2Proof.Machine.execLoop c off s
  | .exit => Sys2Proof.Machine.execExit s
  | .nop => Sys2Proof.Machine.execNop s
  | .bar o => Sys2Proof.Machine.execBar o s
  | .bararr o => Sys2Proof.Machine.execBararr o s
  | .barwt d n lvl settle => Sys2Proof.Machine.execBarwt d n lvl settle s
  | .waitx c a d => Sys2Proof.Machine.execWaitx c a d s
  | .sigx c a b settle => Sys2Proof.Machine.execSigx c a b settle s
  | .xred d a g op => Sys2Proof.Machine.execXred d a g op s
  | .qpost d a w dev fs => Sys2Proof.Machine.execQpost d a w dev fs s
  | .qinfo d a fs => Sys2Proof.Machine.execQinfo d a fs s
  | .dpub d a b w dev fs => Sys2Proof.Machine.execDpub d a b w dev fs s
  | .dsig a w dev tk fs => Sys2Proof.Machine.execDsig a w dev tk fs s
  | .launch d a b w fs => Sys2Proof.Machine.execLaunch d a b w fs s
  | .trap code => Sys2Proof.Machine.execTrap code s
  | .tret => Sys2Proof.Machine.execTret s
  | .phint off => Sys2Proof.Machine.execPhint off s
  | .srd d sel => Sys2Proof.Machine.execSrd d sel s
  | .swr sel b => Sys2Proof.Machine.execSwr sel b s
  | .bkpt code => Sys2Proof.Machine.execBkpt code s
  | .blockHalt w sub => Sys2Proof.Machine.execBlockHalt w sub s
  | .impreciseDelivery n => Sys2Proof.Machine.execImpreciseDelivery n s
  | .issueSelect core part => Sys2Proof.Machine.execIssueSelect core part s
  | .starvationBoost w sub => Sys2Proof.Machine.execStarvationBoost w sub s
  | .workClassRaise die src => Sys2Proof.Machine.execWorkClassRaise die src s
  | .streamPush w q => Sys2Proof.Machine.execStreamPush w q s
  | .accessSliceEnd w => Sys2Proof.Machine.execAccessSliceEnd w s
  | .translationSetComplete w sub => Sys2Proof.Machine.execTranslationSetComplete w sub s
  | .tableWalk die ctx vpage => Sys2Proof.Machine.execTableWalk die ctx vpage s
  | .hostRingWrite ctx => Sys2Proof.Machine.execHostRingWrite ctx s
  | .hostRingHeadPoll ctx head => Sys2Proof.Machine.execHostRingHeadPoll ctx head s
  | .parkedWarpResume w sub => Sys2Proof.Machine.execParkedWarpResume w sub s
  | .engineCommandReplay op => Sys2Proof.Machine.execEngineCommandReplay op s
  | .counterDsigPerform op => Sys2Proof.Machine.execCounterDsigPerform op s
  | .counterDpubPerform op => Sys2Proof.Machine.execCounterDpubPerform op s
  | .qpostAccept op => Sys2Proof.Machine.execQpostAccept op s
  | .launchEnqueue op => Sys2Proof.Machine.execLaunchEnqueue op s
  | .binPostAccept ctx die bin => Sys2Proof.Machine.execBinPostAccept ctx die bin s
  | .binRingWrite ctx die bin => Sys2Proof.Machine.execBinRingWrite ctx die bin s
  | .binRefill ctx die bin => Sys2Proof.Machine.execBinRefill ctx die bin s
  | .binTimerExpiry ctx die bin => Sys2Proof.Machine.execBinTimerExpiry ctx die bin s
  | .binDispatch ctx die bin => Sys2Proof.Machine.execBinDispatch ctx die bin s
  | .taskEndSignal op => Sys2Proof.Machine.execTaskEndSignal op s
  | .binTableInstall grid die => Sys2Proof.Machine.execBinTableInstall grid die s
  | .queueTailReread q => Sys2Proof.Machine.execQueueTailReread q s
  | .lpbTake q => Sys2Proof.Machine.execLpbTake q s
  | .gridBroadcast grid => Sys2Proof.Machine.execGridBroadcast grid s
  | .blockClaim grid die => Sys2Proof.Machine.execBlockClaim grid die s
  | .clusterPlacement grid die => Sys2Proof.Machine.execClusterPlacement grid die s
  | .coopPlacement grid => Sys2Proof.Machine.execCoopPlacement grid s
  | .blockStart grid cluster => Sys2Proof.Machine.execBlockStart grid cluster s
  | .blockEnd block => Sys2Proof.Machine.execBlockEnd block s
  | .gridComplete grid => Sys2Proof.Machine.execGridComplete grid s
  | .operationComplete op => Sys2Proof.Machine.execOperationComplete op s
  | .engineCommandComplete op => Sys2Proof.Machine.execEngineCommandComplete op s
  | .copyExecute op unit => Sys2Proof.Machine.execCopyExecute op unit s
  | .longCommandStart op => Sys2Proof.Machine.execLongCommandStart op s
  | .accrunSetupStart op => Sys2Proof.Machine.execAccrunSetupStart op s
  | .heapCommandServe op => Sys2Proof.Machine.execHeapCommandServe op s
  | .heapFreeReturn ctx addr => Sys2Proof.Machine.execHeapFreeReturn ctx addr s
  | .pageCommit op => Sys2Proof.Machine.execPageCommit op s
  | .pageDecommit op => Sys2Proof.Machine.execPageDecommit op s
  | .pageMigration ctx va dst phase => Sys2Proof.Machine.execPageMigration ctx va dst phase s
  | .bounceReissue req => Sys2Proof.Machine.execBounceReissue req s
  | .epochEnd => Sys2Proof.Machine.execEpochEnd s
  | .visibilityTick => Sys2Proof.Machine.execVisibilityTick s
  | .writePerform req => Sys2Proof.Machine.execWritePerform req s
  | .readServe req => Sys2Proof.Machine.execReadServe req s
  | .atomicServe req => Sys2Proof.Machine.execAtomicServe req s
  | .packetServe op page => Sys2Proof.Machine.execPacketServe op page s
  | .sectorPacket die stack => Sys2Proof.Machine.execSectorPacket die stack s
  | .sectorFill die sector => Sys2Proof.Machine.execSectorFill die sector s
  | .sectorWriteBack die line => Sys2Proof.Machine.execSectorWriteBack die line s
  | .refresh stack chan bank => Sys2Proof.Machine.execRefresh stack chan bank s
  | .completionTimeout req => Sys2Proof.Machine.execCompletionTimeout req s
  | .extentReleaseOrderly die first count => Sys2Proof.Machine.execExtentReleaseOrderly die first count s
  | .backInvalidation req => Sys2Proof.Machine.execBackInvalidation req s
  | .sigxTakeEffect op => Sys2Proof.Machine.execSigxTakeEffect op s
  | .collectiveReduce ctx g peers => Sys2Proof.Machine.execCollectiveReduce ctx g peers s
  | .barrierComplete key inst => Sys2Proof.Machine.execBarrierComplete key inst s
  | .barrierSettleRelease w sub => Sys2Proof.Machine.execBarrierSettleRelease w sub s
  | .mmqInstance block cohort inst => Sys2Proof.Machine.execMmqInstance block cohort inst s
  | .hangDetect ctx => Sys2Proof.Machine.execHangDetect ctx s
  | .externalTimeout w sub => Sys2Proof.Machine.execExternalTimeout w sub s
  | .preemptTimeout w sub => Sys2Proof.Machine.execPreemptTimeout w sub s
  | .preemptSave w => Sys2Proof.Machine.execPreemptSave w s
  | .preemptRestore block => Sys2Proof.Machine.execPreemptRestore block s
  | .contextSwitch out inn phase => Sys2Proof.Machine.execContextSwitch out inn phase s
  | .hostPageCommit ctx va => Sys2Proof.Machine.execHostPageCommit ctx va s
  | .invalidatePage ctx va => Sys2Proof.Machine.execInvalidatePage ctx va s
  | .invalidateRange ctx va pages => Sys2Proof.Machine.execInvalidateRange ctx va pages s
  | .invalidateContext ctx => Sys2Proof.Machine.execInvalidateContext ctx s
  | .invalidateAll => Sys2Proof.Machine.execInvalidateAll s
  | .freezeResume n => Sys2Proof.Machine.execFreezeResume n s
  | .freezeAbort n => Sys2Proof.Machine.execFreezeAbort n s
  | .memoryScrub place found => Sys2Proof.Machine.execMemoryScrub place found s
  | .linkDown path => Sys2Proof.Machine.execLinkDown path s
  | .linkRestore path => Sys2Proof.Machine.execLinkRestore path s
  | .flitCrcFail port => Sys2Proof.Machine.execFlitCrcFail port s
  | .extentAdd die first count => Sys2Proof.Machine.execExtentAdd die first count s
  | .extentReleaseForced die first count => Sys2Proof.Machine.execExtentReleaseForced die first count s
  | .cxlMemWrite fn pa data => Sys2Proof.Machine.execCxlMemWrite fn pa data s
  | .cxlMemRead fn pa => Sys2Proof.Machine.execCxlMemRead fn pa s
  | .snoopResponse sector answer => Sys2Proof.Machine.execSnoopResponse sector answer s
  | .hostCounterWrite ctx c v => Sys2Proof.Machine.execHostCounterWrite ctx c v s
  | .preemptRequest unit => Sys2Proof.Machine.execPreemptRequest unit s
  | .dieHalt die => Sys2Proof.Machine.execDieHalt die s
  | .dieRelease die => Sys2Proof.Machine.execDieRelease die s
  | .dsrcfgWrite die v => Sys2Proof.Machine.execDsrcfgWrite die v s
  | .qcfgWrite q v => Sys2Proof.Machine.execQcfgWrite q v s
  | .regionTableWrite die entry v => Sys2Proof.Machine.execRegionTableWrite die entry v s
  | .shapeRecordWrite record v => Sys2Proof.Machine.execShapeRecordWrite record v s
  | .remapcfgWrite die v firmware => Sys2Proof.Machine.execRemapcfgWrite die v firmware s
  | .remaplogWrite v => Sys2Proof.Machine.execRemaplogWrite v s
  | .ctocfgWrite v => Sys2Proof.Machine.execCtocfgWrite v s
  | .hangcfgWrite ctx v => Sys2Proof.Machine.execHangcfgWrite ctx v s
  | .savecfgWrite ctx v => Sys2Proof.Machine.execSavecfgWrite ctx v s
  | .evcfgWrite v => Sys2Proof.Machine.execEvcfgWrite v s
  | .contextDescriptorWrite ctx field v => Sys2Proof.Machine.execContextDescriptorWrite ctx field v s
  | .faultLogClear ctx => Sys2Proof.Machine.execFaultLogClear ctx s
  | .sillageClear core => Sys2Proof.Machine.execSillageClear core s
  | .registerWrite physical r v => Sys2Proof.Machine.execRegisterWrite physical r v s
  | .boot image signature => Sys2Proof.Machine.execBoot image signature s
  | .measurementExtend k digest => Sys2Proof.Machine.execMeasurementExtend k digest s
  | .attestationRequest nonce => Sys2Proof.Machine.execAttestationRequest nonce s
  | .thermalThrottle die => Sys2Proof.Machine.execThermalThrottle die s
  | .thermalEvent die reading => Sys2Proof.Machine.execThermalEvent die reading s
  | .thermalTrip => Sys2Proof.Machine.execThermalTrip s
  | .stackHotRefresh stack => Sys2Proof.Machine.execStackHotRefresh stack s
  | .powerCapThrottle watts => Sys2Proof.Machine.execPowerCapThrottle watts s
  | .packageColdReset => Sys2Proof.Machine.execPackageColdReset s
  | .packageWarmReset => Sys2Proof.Machine.execPackageWarmReset s
  | .computeDieReset die => Sys2Proof.Machine.execComputeDieReset die s
  | .clockSync count => Sys2Proof.Machine.execClockSync count s
  | .skewLoss => Sys2Proof.Machine.execSkewLoss s
  | .hostSnoop line => Sys2Proof.Machine.execHostSnoop line s
  | .monitorFallsBelowThreshold m => Sys2Proof.Machine.execMonitorFallsBelowThreshold m s
  | .debugUnitClaim ctx claim => Sys2Proof.Machine.execDebugUnitClaim ctx claim s

end Sys2Proof.Machine
end

