-- ==== Sys2Proof/Machine/Round.lean ====
section
/-! DEFINITION. The machine's own steps, in rounds (log 1). A round is one clock cycle: it lists every step of the machine
that may be due, and the choices of the issue ports; a listed step that is not enabled when its turn comes changes nothing.
Steps that only the host, system software, firmware or a sensor takes are inputs, and stand in no round. -/

namespace Sys2Proof

/-- The steps that carry on an operation or a command, by its instruction. -/
def Instr.opSteps (id : Nat) : Instr → List Instr
  | .dsig _ _ _ _ _ => [.taskEndSignal id, .counterDsigPerform id]
  | .dpub _ _ _ _ _ _ => [.counterDpubPerform id]
  | .qpost _ _ _ _ _ => [.qpostAccept id]
  | .launch _ _ _ _ _ => [.launchEnqueue id]
  | .sigx _ _ _ _ => [.sigxTakeEffect id]
  | .halloc _ _ _ _ _ _ | .hfree _ _ _ _ | .hqry _ _ _ => [.heapCommandServe id, .engineCommandComplete id]
  | .pcommit _ _ _ _ => [.pageCommit id, .engineCommandComplete id]
  | .pdecommit _ _ _ _ _ => [.pageDecommit id, .engineCommandComplete id]
  | .lmul _ _ _ _ _ | .ladd _ _ _ _ _ _ | .nttf _ _ _ _ _ | .ntti _ _ _ _ _ =>
    [.longCommandStart id, .engineCommandComplete id]
  | .accrun _ _ _ _ _ => [.accrunSetupStart id, .engineCommandComplete id]
  | .accstat _ _ | .qinfo _ _ _ | .pqry _ _ _ => [.engineCommandComplete id]
  | .cpb _ | .cpl _ => [.operationComplete id, .engineCommandComplete id]
  | _ => [.operationComplete id]

end Sys2Proof

namespace Sys2Proof.Machine

/-! ### What may be due -/

/-- The steps of one operation. -/
def Op.due (p : Op) : List Instr :=
  let copies := match p.instr with
    | .cpb _ | .cpl _ => ((List.range p.units).filter (fun u => !p.pos.testBit u)).map (Instr.copyExecute p.id)
    | _ => []
  (if p.stage = .resumed then [.engineCommandReplay p.id] else []) ++ copies ++ p.instr.opSteps p.id

/-- The steps of one sub-warp. -/
def Sys.subDue (y : Sys) (w : Warp) (b : Sub) : List Instr :=
  (match b.wait with
    | .translating (_ :: _) => [.translationSetComplete w.id b.id]
    | .settle _ _ => [.barrierSettleRelease w.id b.id]
    | .resumed => [.parkedWarpResume w.id b.id]
    | _ => []) ++
  (if w.halt.isSome then [.blockHalt w.id b.id] else []) ++
  (if b.boosted then [] else [.starvationBoost w.id b.id]) ++
  (if b.ext.2 = 0 then [] else [.externalTimeout w.id b.id]) ++
  (if y.preempts.isEmpty then [] else [.preemptTimeout w.id b.id])

/-- The steps of one warp. -/
def Sys.warpDue (y : Sys) (w : Warp) : List Instr :=
  w.subs.flatMap (y.subDue w) ++
  (if w.subs.all (·.stopped) then [.preemptSave w.id] else []) ++
  (match w.access with
    | some a => ((List.range 4).filter (fun q => !(a.jobsOf (BitVec.ofNat 2 q)).isEmpty)).map (Instr.streamPush w.id) ++
        (if a.sub.wait = .exiting then [.accessSliceEnd w.id] else [])
    | none => [])

/-- The steps of the requests under way (R51, R88, R89, R118, R142, R163, R464). -/
def Sys.reqDue (y : Sys) (r : Req) : List Instr :=
  (if r.bounced then [.bounceReissue r.id]
   else if r.kind.writes && y.recalling r.key r.size then [.backInvalidation r.id]
   else if r.single then match r.kind with
     | .read => [.readServe r.id]
     | .write _ => [.writePerform r.id]
     | .atomic _ _ _ => [.atomicServe r.id]
     | .held _ | .asked _ _ => []
   else []) ++
  (if (y.timeout (keyKind r.key)).isSome then [.completionTimeout r.id] else [])

/-- The packets under way. -/
def Sys.packetsDue (y : Sys) : List Instr :=
  (((y.reqs.filter (fun r => !r.single && !r.bounced)).map (fun r => (r.op, r.key / 65536))).eraseDups).map
    (fun p => .packetServe p.1 p.2)

/-- The bank whose turn to be refreshed may have come (R152): each of the 24,576 banks once in 275,000 cycles (log 115). -/
def Sys.refreshDue (y : Sys) : List Instr :=
  let c := y.time.cycle % 275000
  let b := c / 11
  if c % 11 = 0 && b < 24576 then [.refresh (b / 2048) (b / 64 % 32) (b % 64)] else []

/-- The steps of the home caches and stacks (R70, R143). -/
def Sys.sectorsDue (y : Sys) : List Instr :=
  (y.returned.map (fun t => .sectorFill (paDie (keyPA t)) t)) ++
  ((y.wanted.map (fun q => (paDie (keyPA q.sector), y.stackOf q))).eraseDups).map (fun p => .sectorPacket p.1 p.2) ++
  (List.range 6).flatMap (fun d =>
    (y.overflow d (y.die d).dsrcfg).map (Instr.sectorWriteBack d))

/-- The steps of one installed bin table (R427, R428). -/
def Bins.due (t : Bins) : List Instr :=
  (List.range 64).flatMap (fun n =>
    match t.bins[n]? with
    | none => []
    | some b =>
      (if b.held.isEmpty then [] else [.binRingWrite t.ctx t.die n]) ++
      (if b.ring.isEmpty then [] else [.binRefill t.ctx t.die n]) ++
      (if b.hwq.isEmpty then [] else [.binTimerExpiry t.ctx t.die n, .binDispatch t.ctx t.die n]))

/-- The steps of one grid (R174, R423 to R426). -/
def Grid.due (g : Grid) : List Instr :=
  let dies := maskDies g.diemask
  match g.state with
  | .accepted => [.gridBroadcast g.launch]
  | .running =>
    g.installs.map (Instr.binTableInstall g.launch) ++
    (if g.exhausted then []
     else if g.coop then [.coopPlacement g.launch]
     else dies.map (Instr.blockClaim g.launch)) ++
    (g.claims.map (fun c => .clusterPlacement g.launch c.die)) ++
    (if g.blocks ≤ g.ended.length then [.gridComplete g.launch] else [])
  | _ => []

/-- The steps of the placed blocks (R61, R167). -/
def Sys.blocksDue (y : Sys) : List Instr :=
  let fresh := y.blocks.filterMap (fun k => match k.job with
    | .grid launch flat =>
      if k.started then none else some (launch, flat / ((y.grid? launch).map Grid.clusterSize).getD 1)
    | .task _ _ _ _ => none)
  (fresh.eraseDups.map (fun p => .blockStart p.1 p.2)) ++
  ((y.blocks.filter (fun k => !k.ending)).map (fun k => .blockEnd k.id))

/-- The steps of the control die for a context (R43, R129, R437). -/
def State.contextDue (s : State) (e : Nat × Context) : List Instr :=
  let c := e.2
  ((c.heap.filter (fun b => b.state == .freeing)).map (fun b => .heapFreeReturn e.1 b.addr)) ++
  (if c.hang = 0 then [] else [.hangDetect e.1]) ++
  (if c.ringState = .full && s.sys.time.now % 4096 == 0 then
    [.hostRingHeadPoll e.1 (BitVec.ofNat 32 (s.mem.value (mainKey 2 c.hostRing + 8) 4))] else [])

/-- The step of a page migration that comes after another (R50). -/
def migNext : MigPhase → MigPhase
  | .freeze => .drain
  | .drain => .copy
  | .copy => .switch
  | .switch => .invalidate
  | .invalidate | .release => .release

/-- The steps that the control die carries on: queues, migrations, releases, DSRCFG, a context switch (R50, R67, R149,
R160, R418, R419, R460). -/
def Sys.controlDue (y : Sys) : List Instr :=
  ((y.ctl.queues.filter (fun e => qcfgEn e.2.cfg)).map (fun e => .queueTailReread e.1)) ++
  ((y.nextQueue).map Instr.lpbTake).toList ++
  (y.migrations.map (fun m => .pageMigration m.ctx (m.vpage * 65536) m.dst (migNext m.phase))) ++
  (List.range 6).flatMap (fun d =>
    ((y.die d).regions.filter (fun r => r.2.state == 2)).map (fun r => .extentReleaseOrderly d r.1 1) ++
    ((y.die d).dsrNew.map (Instr.dsrcfgWrite d)).toList) ++
  (match y.switching with
    | some w => [.contextSwitch w.out w.inn ((switchNext w.phase).getD .restore)]
    | none => []) ++
  (if y.ctl.epoch < y.time.now / 2 ^ 20 then [.epochEnd] else [])

/-- The saves of blocks whose last resident warp may have exited after others were saved (R458). -/
def Sys.savesDue (y : Sys) : List Instr :=
  (y.saved.filter (fun b => !b.out)).filterMap (fun b => (b.warps.head?).map (fun x => .preemptSave x.warp.id))

/-- Every step of the machine's own that may be due. -/
def State.due (s : State) : List Instr :=
  let y := s.sys
  y.ops.flatMap Op.due ++ y.warps.flatMap y.warpDue ++
  y.reqs.flatMap y.reqDue ++ y.packetsDue ++ y.sectorsDue ++ y.refreshDue ++
  (y.imprecise.map (fun m => .impreciseDelivery m.no)) ++
  (y.misses.map (fun m => .tableWalk m.die m.ctx m.vpage)) ++
  (((y.heldFaults.map (·.ctx)).eraseDups).map Instr.hostRingWrite) ++
  (((y.posts.map (fun q => (q.ctx, q.die, q.bin))).eraseDups).map (fun q => .binPostAccept q.1 q.2.1 q.2.2)) ++
  y.bins.flatMap Bins.due ++ y.grids.flatMap Grid.due ++ y.blocksDue ++
  (List.range 6).flatMap (fun d => (y.works d).map (fun k => .workClassRaise d k.src)) ++
  (y.barriers.map (fun b => .barrierComplete b.key b.inst)) ++
  (y.mmqs.map (fun m => .mmqInstance m.block m.cohort m.inst)) ++
  (y.xreds.map (fun x => .collectiveReduce x.1 x.2.1 [])) ++
  y.contexts.flatMap s.contextDue ++ y.controlDue ++ y.savesDue

/-! ### A round -/

/-- The partitions that hold warps: core and partition. -/
def Sys.partitions (y : Sys) : List (Nat × Nat) :=
  (y.warps.filterMap (fun w => (y.block? w.block).map (fun k => (k.core, w.part)))).eraseDups

/-- The visibility clock, at 250 MHz, ticks 5 times in 22 cycles of 1.1 GHz (R4). DESIGN CHOICE (log 116): the manual does not give the phase of
the ticks against the cycles after a reset; the first tick comes in the round of cycle 4. -/
def tickDue (cycle : Nat) : Bool := decide (cycle * 5 / 22 < (cycle + 1) * 5 / 22)

/-- A new round: the next cycle, and its agenda. -/
def newRound (s : State) : Upd :=
  let y := s.sys
  .of { y with
    time := { y.time with cycle := y.time.cycle + 1 }
    agenda := s.due ++ (y.partitions.map (fun p => .issueSelect p.1 p.2)) ++
      (if tickDue y.time.cycle then [.visibilityTick] else [])
    cur := none }

end Sys2Proof.Machine
end

