-- ==== Sys2Proof/Machine/Program.lean ====
section
/-! DEFINITION. A state in which one given word is the next to be fetched: one resident warp stands at it (log 19). It is no
step of the machine; it stands for a program that software has placed and launched. -/

namespace Sys2Proof.Machine

/-- The code page: virtual and physical address 0x10000, on a leaf that is present and executable (R21). -/
def codeVA : Nat := 0x10000

def codeLeaf : Word := BitVec.ofNat 64 (2 ^ 48 + codeVA + 1)

/-- The header of a clause with one word, which names no flag (R192, R193). -/
def codeHeader : Header := { wait := 0, seta := 15, setb := 15, len := 1, pp := false, yld := false }

/-- The block of the warp: the lowest context, core 0, with every tile of its core. -/
def codeBlock (id : Nat) : Block where
  id := id
  job := .grid 0 0
  recAt := none
  ctx := 0
  core := 0
  first := id
  rank := 0
  size := 1
  nwarps := 1
  scrBase := 0
  scrSize := 4096
  engineWarp := none
  zBase := 0
  zCount := 64
  prio := 0
  launch := 0
  handler := 0
  acc := []
  badAcc := []
  started := true
  ending := false

/-- Where the sub-warp stands: at the header, or inside its clause at the one word. -/
def codeSub (header : Bool) : Sub :=
  let pc := BitVec.ofNat 64 codeVA
  if header then newSub 0 pc 0
  else { newSub 0 (pc + 8) 0 with place := .inside { addr := pc, h := codeHeader, key := mainKey 0 codeVA, map := 0 } }

/-- A warp whose sub-warp, or with `acc` whose access slice, is the one given. -/
def Warp.standing (w : Warp) (acc : Bool) (b : Sub) : Warp :=
  { w with
    access := w.access.map (fun a => { a with sub := b })
    subs := if acc then w.subs else [b] }

/-- The warp; `acc` gives it an access slice, which stands at the word. -/
def codeWarp (id block : Nat) (header acc : Bool) : Warp :=
  let pc := BitVec.ofNat 64 codeVA
  (newWarp 0 id block 0 0 256 0 0 [] pc (if acc then some pc else none) 0).standing acc (codeSub header)

/-- Whether only an access slice may issue the word. -/
def forAccess (word : Word) : Bool :=
  match decode word with
  | .ok i => i.accessOnly
  | .error _ => false

/-- The state with the word in its code page and the warp selected. -/
def placeWord (word : Word) (s : State) : State :=
  let y := s.sys
  let header := isHeaderWord word
  let acc := forAccess word
  let id := y.nextId
  let y1 := y.dropCode 0
  let c := y.context 0
  let y2 := y1.setContext 0 { c with frozen := false, desc := (c.desc.set 0 (c.desc[0] ||| 1)).set 5 (BitVec.allOnes 64) }
  let d := y.die 0
  let y3 := y2.setDie 0 { d with halted := false, regions := Table.set d.regions 0 { d.region 0 with state := 1 } }
  { mem := s.mem.putAll (mainKey 0 codeVA + (if header then 0 else 8)) (leBytes 8 word.toNat)
    sys := { y3 with
      ctl := { y.ctl with held := false }
      warps := y.warps ++ [codeWarp id (id + 1) header acc]
      blocks := y.blocks ++ [codeBlock (id + 1)]
      tlb := { place := .core 0, ctx := y.ctxTag 0, base := 1, level := 0, pte := codeLeaf } :: y.tlb
      preempts := []
      fwRegions := y.fwRegions.setIfInBounds 0 (openRegion 0)
      selected := (id, if acc then none else some 0) :: y.selected
      nextId := id + 2 } }

end Sys2Proof.Machine
end

