-- ==== Sys2Proof/Machine/Step.lean ====
section
/-! DEFINITION. One step of the machine. -/

namespace Sys2Proof.Machine

/-- The next step: the word of the first sub-warp that an issue port has selected; else the next of the round's own steps; else
a new round (log 1). -/
def step (s : State) : Host.Outcome State Fault Refusal :=
  match s.sys.selected with
  | c :: rest =>
    let s1 : State := { s with sys := { s.sys with selected := rest, cur := none } }
    match fetchSelected s1 c with
    | .run i y => exec i { s1 with sys := { y with cur := some c } }
    | .change u => .next (commit s1 u)
  | [] =>
    match s.sys.agenda with
    | i :: rest => exec i { s with sys := { s.sys with agenda := rest, cur := none } }
    | [] => .next (commit s (newRound s))

/-- The state whose next step fetches and runs the word `w` of `nbits` bits (log 19). -/
def State.withFetchWord (s : State) (nbits w : Nat) : State := placeWord (BitVec.ofNat 64 (w % 2 ^ nbits)) s

end Sys2Proof.Machine
end

