-- ==== Sys2Proof/Safety.lean ====
section
/-! DEFINITION. The terms that statements about the machine are made in: when an instruction word completes, what it
leaves unchanged, and what a step must keep. -/

namespace Sys2Proof.Machine

/-! ### Words -/

/-- The word `i` can complete at `s`: it is a word the E12 decodes, a sub-warp issues it, in environment `e`, and none of the
checks that come before its meaning stops it (R79, R81, R85, R185, R198, R210, R211, R215, R220, R223). -/
structure Ready (i : Instr) (s : State) (e : Env) : Prop where
  wf : i.wf = true
  env : env? i s = some e
  checks : e.precheck = none
  late : i.lateMem = true → e.memBad = none

/-- From `s` to `t` nothing changes but the issuing warp, which becomes `v`, and the mark that an event of R436 happened in
its context: no other warp, no byte of memory, no other part of the machine. -/
structure OnlyWarp (s t : State) (e : Env) (v : Warp) : Prop where
  here : t.sys.warp? e.w.id = some v
  others : ∀ id, id ≠ e.w.id → t.sys.warp? id = s.sys.warp? id
  memory : ∀ a, t.mem.byte a = s.mem.byte a
  context : ∀ c, t.sys.context c =
    if c = e.k.ctx then { s.sys.context c with event := true } else s.sys.context c
  rest : { t.sys with warps := s.sys.warps, contexts := s.sys.contexts } = s.sys

/-- What every completed word does to its warp, and what it leaves there: the queues after its pops (R78), the sub-warp past the
word (R210), every other sub-warp as it was; and nothing but registers, flags, queues, sub-warps and the marks of register
errors has changed. -/
structure WordFrame (e : Env) (v : Warp) : Prop where
  queues : v.queues = (e.w.popAll e.i.pops).queues
  sub : v.sub? e.o = some e.b.past
  others : ∀ k, k ≠ e.o → v.sub? k = e.w.sub? k
  bad : v.bad = e.repaired e.y e.w.bad
  access : v.access.map (fun a => (a.jobs, a.ended)) = e.w.access.map (fun a => (a.jobs, a.ended))
  same : { v with vregs := e.w.vregs, shapes := e.w.shapes, tops := e.w.tops, sregs := e.w.sregs,
                  flags := e.w.flags, fpctl := e.w.fpctl, queues := e.w.queues, access := e.w.access,
                  subs := e.w.subs, bad := e.w.bad } = e.w

/-- The word's meaning changes V registers only. -/
structure KeepsScalars (e : Env) (v : Warp) : Prop where
  sregs : v.sregs = e.w.sregs
  xregs : v.access.map (·.xregs) = e.w.access.map (·.xregs)
  flags : v.flags = e.w.flags

/-- The word's meaning changes no V register. -/
structure KeepsVectors (e : Env) (v : Warp) : Prop where
  vregs : v.vregs = e.w.vregs
  shapes : v.shapes = e.w.shapes
  tops : v.tops = e.w.tops

/-- An n-bit result written to each lane of the mask `m` of `d` (R258): extended to 32 bits, or at 64 bits its two halves in
`d` and `d + 1`; every other lane and register keeps its contents (R257). -/
def LanesWritten (e : Env) (v : Warp) (m : LaneMask) (d : BitVec 8) (sz : Sz) (sg : Bool) (f : Nat → Word) : Prop :=
  ∀ r i, r < 256 → i < 32 → v.vl r i =
    if m.getLsbD i && sz == .w64 && r == d.toNat + 1 then (f i >>> 32).setWidth 32
    else if m.getLsbD i && r == d.toNat then
      (if sz == .w64 then (f i).setWidth 32 else (ext sg sz.bits (f i)).setWidth 32)
    else e.w.vl r i

/-- A register of 32-bit lanes that such a form writes, `d` or `d + 1` too, takes shape 0, and no top limb (R237). -/
def ShapesReset (e : Env) (v : Warp) (d : BitVec 8) (sz : Sz) : Prop :=
  ∀ r, r < 256 → (v.shapes[r]?, v.tops[r]?) =
    if r = d.toNat ∨ (sz = .w64 ∧ r = d.toNat + 1) then (some 0, some 0) else (e.w.shapes[r]?, e.w.tops[r]?)

/-- The word completes, and writes the lanes `f` of the mask `m` of `d`, and `fp` to FPCTL, leaving everything else: scalar
registers, completion flags, memory, the other warps. -/
def WritesLanesIn (i : Instr) (s : State) (e : Env) (m : LaneMask) (d : BitVec 8) (sz : Sz) (sg : Bool)
    (f : Nat → Word) (fp : Word) : Prop :=
  ∃ t v, exec i s = .next t ∧ OnlyWarp s t e v ∧ WordFrame e v ∧ KeepsScalars e v ∧ v.fpctl = fp ∧
    LanesWritten e v m d sz sg f ∧ ShapesReset e v d sz

/-- The same for the active lanes (R257), with FPCTL as it was. -/
def WritesLanes (i : Instr) (s : State) (e : Env) (d : BitVec 8) (sz : Sz) (sg : Bool) (f : Nat → Word) : Prop :=
  WritesLanesIn i s e e.b.exec d sz sg f e.w.fpctl

/-- One S register written, or X register in the access slice; every other register keeps its contents (R223, R271). -/
structure ScalarWritten (e : Env) (v : Warp) (d : SReg) (x : Word) : Prop where
  value : ∀ r : SReg, v.sx e.o r = if r = d then x else e.w.sx e.o r
  sregs : e.o = none → v.sregs = e.w.sregs
  xregs : e.o ≠ none → v.access.map (·.xregs) = e.w.access.map (·.xregs)
  flags : v.flags = e.w.flags
  fpctl : v.fpctl = e.w.fpctl

/-- The word completes, and writes `x` to the scalar register `d`, leaving everything else. -/
def WritesScalar (i : Instr) (s : State) (e : Env) (d : SReg) (x : Word) : Prop :=
  ∃ t v, exec i s = .next t ∧ OnlyWarp s t e v ∧ WordFrame e v ∧ KeepsVectors e v ∧ ScalarWritten e v d x

/-- What R246 says of a floating-point form that gives `f j` in lane j, a pattern and its flags: when no enabled flag is
raised, the patterns are written and the flags of the active lanes are ORed into FPCTL.FLAGS; otherwise FPX is taken, with every raised flag in
TVAL and the lanes that raised an enabled one in TLANES, and nothing is written. -/
def FloatOutcome (i : Instr) (s : State) (e : Env) (d : BitVec 8) (sz : Sz) (f : Nat → FpOut) : Prop :=
  let on := (List.range 32).filter e.b.active
  let raised := (on.map (fun j => (f j).2)).foldl (fun x y => x ||| y) 0
  let enabled : FpFlags := e.w.fpctl.extractLsb' 16 5
  (raised &&& enabled = 0 → WritesLanesIn i s e e.b.exec d sz false (fun j => (f j).1)
    (e.w.fpctl ||| (raised.zeroExtend 64 <<< 8))) ∧
  (raised &&& enabled ≠ 0 → ∃ lanes : LaneMask,
    (∀ j, j < 32 → (lanes.getLsbD j = true ↔ j ∈ on ∧ (f j).2 &&& enabled ≠ 0)) ∧
    exec i s = .next (commit s (takeTrap s e.w e.o e.b
      { trapOf .fpx (raised.zeroExtend 64) with tlanes := lanes })))

/-! ### Words that change more than their warp -/

/-- The state after a completed word, where the machine becomes `y` and the word's warp `v`: its pops made and its sub-warp past
the word (`Env.afterIn`), an event of R436 marked in its context, and every byte of memory as it was. -/
def Env.next (e : Env) (y : Sys) (v : Warp) : State :=
  { e.s with sys := (y.setWarp (e.afterIn y v e.i.pops)).mark e.k.ctx }

/-- The word issues the long-latency operation `p`, with its memory requests `rs`: one more on the flag it counts on
(R189, R214), and besides that `v` and `y` say what the word changes at issue. -/
def Sends (i : Instr) (s : State) (e : Env) (y : Sys) (v : Warp) (p : Op) (rs : List Req) : Prop :=
  exec i s = .next (e.next { y with ops := y.ops ++ [p], reqs := y.reqs ++ rs, nextId := y.nextId + 1 + rs.length }
    (v.countUp p.flag))

/-- The word is turned away: it takes the trap `t` (R440). -/
def Traps (i : Instr) (s : State) (e : Env) (t : TrapInfo) : Prop :=
  exec i s = .next (commit s (takeTrap s e.w e.o e.b t))

/-- The word does not complete: its sub-warp waits on `r` and will issue it again. -/
def Waits (i : Instr) (s : State) (e : Env) (r : Wait) : Prop :=
  exec i s = .next { s with sys := s.sys.setWarp (e.w.setSub e.o
    { e.b with wait := r, under := .none, since := if e.b.wait = r then e.b.since else s.sys.time.now, set := [] }) }

/-- The active lanes, ascending. -/
def Sub.on (b : Sub) : List Nat := (List.range 32).filter b.active

/-- A step of the machine around the warps has the effect `u`. -/
def Does (i : Instr) (s : State) (u : Upd) : Prop := exec i s = .next (commit s u)

/-- A step ends the command `p`, which keeps its place until it completes: with this status, cause and register results; `more`
holds of the change. -/
def Ends (i : Instr) (s : State) (p : Op) (status : Nat) (err : Option TrapInfo) (results : List (Nat × Word))
    (more : Upd → Prop) : Prop :=
  ∃ u q, Does i s u ∧ more u ∧ u.sys.op? p.id = some q ∧ q.stage = .done ∧ q.status = status ∧ q.err = err ∧
    q.results = results ∧ q.pendS = p.pendS ∧ q.flag = p.flag

/-- A step completes the operation `p` of the warp `w` with these results and no cause: they are written, its flag counts one less, and the
operation is gone; `more` holds of the change. -/
def Finishes (i : Instr) (s : State) (p : Op) (w : Warp) (results : List (Nat × Word)) (more : Upd → Prop) : Prop :=
  ∃ u, Does i s u ∧ more u ∧ u.sys.op? p.id = none ∧
    u.sys.warp? w.id = some ((w.deliver { p with results := results }).countDown p.flag)

/-- The stores that writing bytes to runs makes: each run with a key takes its share. -/
def runStores : List Run → List Byte → List Store
  | [], _ => []
  | r :: rest, bs =>
    (match r.key with
      | some k => [.bytes k (bs.take r.len)]
      | none => []) ++ runStores rest (bs.drop r.len)

/-- The warp `w` has entered its handler, and is `v`: sub-warp `b` stands at `entry` with EXEC at its permanent mask, the trap's registers
say what happened, and nothing else has changed (R447). -/
structure Entered (w v : Warp) (b : Sub) (t : TrapInfo) (epc entry : Word) : Prop where
  regs : v.cause = t.cause.bit ∧ v.epc = epc ∧ v.tval = t.tval ∧ v.tlanes = t.tlanes ∧ v.tinfo = t.tinfo
  halt : v.halt = w.halt.filter (fun h => h.fatal)
  mode : ∃ d, v.handler = some d ∧ d.sub = b.id ∧ d.cause = t.cause ∧ d.shadow = b.exec ∧ d.epc = epc ∧ d.pending = []
  sub : v.sub? (some b.id) = some { b with
    pc := entry, place := .boundary, exec := b.perm, wait := .none, under := .none, came := none, set := [] }
  others : ∀ k, k ≠ b.id → v.sub? (some k) = w.sub? (some k)
  same : { v with cause := w.cause, epc := w.epc, tval := w.tval, tlanes := w.tlanes, tinfo := w.tinfo, halt := w.halt,
                  handler := w.handler, subs := w.subs } = w

/-- No other warp of `w`'s block is handling a BLOCK_HALT that a further one would repeat (R449). -/
def Sys.NoneHandlesHalt (y : Sys) (w : Warp) : Prop :=
  ∀ v, (v ∈ y.warps ∨ ∃ b ∈ y.saved, ∃ x ∈ b.warps, x.warp = v) → v.block = w.block → v.id ≠ w.id →
    v.haltTwice y.time.cycle = false

/-- The host holds no sector and is giving none back, and no read waits at a home: nothing stands before a change that the control die
makes in memory (R87, R89, R464). -/
structure Sys.NothingHeld (y : Sys) : Prop where
  held : y.hostHeld = []
  snooping : y.snooping = []
  late : y.late = []
  waiting : y.reading = []
  reads : ∀ r ∈ y.reqs, r.arrived = false ∨ r.kind.reads = false ∨ r.isHeld = true

/-! ### Launches -/

/-- No field of words 0 to 3, 6, 9, 17 and 18 of an LPB is out of range or misaligned, and no reserved bit is set (R420 to R422). -/
structure LpbFields (w : List Word) : Prop where
  entries : ∀ i ∈ [0, 1, 6, 17], bits (w.getD i 0) 63 56 = 0 ∧ bits (w.getD i 0) 2 0 = 0
  needs : bits (w.getD 3 0) 40 34 ≤ 64 ∧ bits (w.getD 3 0) 33 25 ≤ 256 ∧ bits (w.getD 3 0) 24 14 ≤ 1024
  budget : if w.getD 4 0 = 0 then 1 ≤ bits (w.getD 3 0) 13 8 ∧ bits (w.getD 3 0) 13 8 ≤ 32 else bits (w.getD 3 0) 13 8 = 0
  warps : 1 ≤ bits (w.getD 3 0) 5 0 ∧ bits (w.getD 3 0) 5 0 ≤ 48
  reserved : bits (w.getD 3 0) 63 41 = 0 ∧ bits (w.getD 9 0) 63 44 = 0 ∧ bits (w.getD 9 0) 31 22 = 0 ∧
    bits (w.getD 9 0) 15 9 = 0 ∧ bits (w.getD 9 0) 7 2 = 0 ∧ bits (w.getD 18 0) 63 6 = 0 ∧
    ∀ i, 19 ≤ i → i ≤ 30 → w.getD i 0 = 0

/-- The number of roles of a role table: those of its entries that are present (R166). -/
def roleCount (l : List Word) : Nat := ((List.range 4).filter (fun j => (l.getD (4 * j + 2) 0).getLsbD 63)).length

/-- Role `j` of a role table (R166). -/
def roleAt (l : List Word) (j : Nat) : Role where
  entry := l.getD (4 * j) 0
  access := l.getD (4 * j + 1) 0
  budget := 8 * bits (l.getD (4 * j + 2) 0) 13 8
  warps := bits (l.getD (4 * j + 2) 0) 5 0

/-- A role table satisfies R166 for blocks of `warps` warps. -/
structure RoleTableOk (l : List Word) (warps : Nat) : Prop where
  prefixed : ∀ j, j < 3 → (l.getD (4 * (j + 1) + 2) 0).getLsbD 63 = true → (l.getD (4 * j + 2) 0).getLsbD 63 = true
  reserved : ∀ j, j < 4 → l.getD (4 * j + 3) 0 = 0 ∧ bits (l.getD (4 * j + 2) 0) 62 14 = 0 ∧ bits (l.getD (4 * j + 2) 0) 7 6 = 0
  ranges : ∀ j, j < roleCount l → 1 ≤ bits (l.getD (4 * j + 2) 0) 13 8 ∧ bits (l.getD (4 * j + 2) 0) 13 8 ≤ 32 ∧
    1 ≤ (roleAt l j).warps ∧ (roleAt l j).warps ≤ 48
  total : sumOf ((List.range (roleCount l)).map (fun j => (roleAt l j).warps)) = warps

/-- A cohort table satisfies R168 and R169 for blocks of `warps` warps. -/
structure CohortTableOk (l : List Word) (warps : Nat) : Prop where
  undefined : ∀ i, i < 256 → (l.getD i 0).getLsbD 63 = false → l.getD i 0 = 0
  defined : ∀ i, i < 256 → (l.getD i 0).getLsbD 63 = true → 4 ≤ i ∧ bits (l.getD i 0) 61 48 = 0 ∧
    (∃ v, v < warps ∧ (l.getD i 0).getLsbD v = true) ∧ ∀ v, warps ≤ v → v < 48 → (l.getD i 0).getLsbD v = false
  quad : ∀ i, i < 256 → (l.getD i 0).getLsbD 63 = true → (l.getD i 0).getLsbD 62 = true →
    let ws := (List.range 48).filter (fun v => (l.getD i 0).getLsbD v)
    ws.length = 4 ∧ (ws.map (· % 6)).Nodup
  few : ∀ v, v < warps →
    1 + ((List.range 256).filter (fun i => (l.getD i 0).getLsbD 63 && (l.getD i 0).getLsbD v)).length ≤ 4

/-- A bin table satisfies R174, but for where its rings lie. -/
structure BinTableOk (l : List Word) : Prop where
  unused : ∀ j, j < 64 → (l.getD (4 * j) 0).getLsbD 0 = false → ∀ i, i < 4 → l.getD (4 * j + i) 0 = 0
  reserved : ∀ j, j < 64 → (l.getD (4 * j) 0).getLsbD 0 = true →
    bits (l.getD (4 * j) 0) 63 56 = 0 ∧ bits (l.getD (4 * j) 0) 2 1 = 0 ∧
    bits (l.getD (4 * j + 1) 0) 63 56 = 0 ∧ bits (l.getD (4 * j + 1) 0) 5 5 = 0 ∧
    bits (l.getD (4 * j + 2) 0) 31 31 = 0 ∧ bits (l.getD (4 * j + 2) 0) 14 13 = 0 ∧ bits (l.getD (4 * j + 2) 0) 7 0 = 0 ∧
    bits (l.getD (4 * j + 3) 0) 63 32 = 0 ∧ bits (l.getD (4 * j + 3) 0) 15 7 = 0
  ranges : ∀ j, j < 64 → (l.getD (4 * j) 0).getLsbD 0 = true →
    6 ≤ bits (l.getD (4 * j + 1) 0) 4 0 ∧ bits (l.getD (4 * j + 1) 0) 4 0 ≤ 20 ∧
    bits (l.getD (4 * j + 1) 0) 55 6 % 2 ^ bits (l.getD (4 * j + 1) 0) 4 0 = 0 ∧
    1 ≤ bits (l.getD (4 * j + 2) 0) 30 25 ∧ bits (l.getD (4 * j + 2) 0) 30 25 ≤ 32 ∧ bits (l.getD (4 * j + 3) 0) 6 0 ≤ 64
  keys : ∀ i j, i < 64 → j < 64 → (l.getD (4 * i) 0).getLsbD 0 = true → (l.getD (4 * j) 0).getLsbD 0 = true →
    bits (l.getD (4 * i) 0) 55 3 = bits (l.getD (4 * j) 0) 55 3 → i = j

/-- The page `p` holds a byte of a ring that a used entry of a bin table names, whose size is in range (R174). -/
def RingPage (l : List Word) (p : Nat) : Prop :=
  ∃ j, j < 64 ∧ (l.getD (4 * j) 0).getLsbD 0 = true ∧
    let base := 64 * bits (l.getD (4 * j + 1) 0) 55 6
    let size := 64 * 2 ^ bits (l.getD (4 * j + 1) 0) 4 0
    6 ≤ bits (l.getD (4 * j + 1) 0) 4 0 ∧ bits (l.getD (4 * j + 1) 0) 4 0 ≤ 20 ∧ base < (p + 1) * 65536 ∧ p * 65536 < base + size

/-- `m` blocks of a need fit on an empty core by the totals of R59. -/
structure FitsEmpty (n : Need) (m : Nat) : Prop where
  scratch : m * (n.scr + n.spill * n.budgets.length) ≤ 0x400000
  tiles : m * n.zt ≤ 256
  parts : ∀ p, p < 6 →
    let here := (n.budgets.zipIdx.filter (fun b => b.2 % 6 == p)).map (·.1)
    m * sumOf here ≤ 1536 ∧ m * here.length ≤ 16

/-- The words of a table can be read, and are `l`: each is reached, visible, and its home serves it (R422). -/
def ReadsTable (s : State) (ctx va : Nat) (l : List Word) : Prop :=
  ∀ j x, l[j]? = some x → ∃ e key, reach s ctx (va + 8 * j) 8 false = .ok (e, key) ∧ s.sys.quiet key 8 = true ∧
    s.sys.accessFails key 8 true = none ∧ x = s.mem.word key

/-- Some word of a table of `n` words cannot be read, and those before it can (R422). -/
def CannotRead (s : State) (ctx va n : Nat) : Prop :=
  ∃ j l, j < n ∧ l.length = j ∧ ReadsTable s ctx va l ∧ (reach s ctx (va + 8 * j) 8 false = .error (.status 8) ∨
    ∃ e key, reach s ctx (va + 8 * j) 8 false = .ok (e, key) ∧ s.sys.quiet key 8 = true ∧ s.sys.accessFails key 8 true ≠ none)

/-- The table that a word of the LPB names is `l`; none is read where it is 0 or misaligned. -/
def LpbNames (s : State) (ctx : Nat) (a : Word) (align n : Nat) (l : List Word) : Prop :=
  if a = 0 ∨ a.toNat % align ≠ 0 then l = [] else l.length = n ∧ ReadsTable s ctx a.toNat l

/-- The storage of a block on a core is a range free of every other in use, and so are its spill stacks and its tiles (R59). -/
structure StorageFree (y : Sys) (core : Nat) (n : Need) (x : Storage) : Prop where
  spills : x.spills.length = n.budgets.length
  shared : n.scr ≠ 0 → x.scr + n.scr ≤ 0x400000 ∧ x.scr % 4096 = 0 ∧
    ∀ r ∈ y.scratchUsed core ++ y.scratchPending core, overlaps x.scr n.scr r.1 r.2 = false
  stackRanges : n.spill ≠ 0 → (∀ a ∈ x.spills, a + n.spill ≤ 0x400000 ∧ a % 1024 = 0 ∧ (n.scr ≠ 0 → overlaps a n.spill x.scr n.scr = false) ∧
      ∀ r ∈ y.scratchUsed core ++ y.scratchPending core, overlaps a n.spill r.1 r.2 = false) ∧
    x.spills.Pairwise (fun a b => overlaps a n.spill b n.spill = false)
  tiles : n.zt ≠ 0 → x.z + n.zt ≤ 256 ∧ ∀ r ∈ y.tilesUsed core, overlaps x.z n.zt r.1 r.2 = false

/-- The sums of R59 hold on a core with a block added to those there. -/
structure TotalsFit (y : Sys) (core : Nat) (n : Need) : Prop where
  scratch : sumOf ((y.scratchUsed core).map (·.2)) + n.scr + n.spill * n.budgets.length ≤ 0x400000
  tiles : sumOf ((y.tilesUsed core).map (·.2)) + n.zt ≤ 256
  parts : ∀ p, p < 6 →
    let here := y.budgetsIn core p ++ (n.budgets.zipIdx.filter (fun b => b.2 % 6 == p)).map (·.1)
    sumOf here ≤ 1536 ∧ here.length ≤ 16

/-- The cores of a physical cluster chosen for a launch cluster are the best of it, and no other cluster of the die has better ones (R424). -/
structure BestCores (y : Sys) (die : Nat) (n : Need) (cores : List Nat) : Prop where
  ascending : cores.Pairwise (· < ·)
  room : ∀ c ∈ cores, dieOf c = die ∧ (y.storage c n).isSome = true
  together : ∀ c ∈ cores, ∀ d ∈ cores, clusterOf c = clusterOf d
  freest : ∀ c ∈ cores, ∀ d, clusterOf d = clusterOf c → d ∉ cores → (y.storage d n).isSome = true →
    y.freeSlots d < y.freeSlots c ∨ (y.freeSlots d = y.freeSlots c ∧ c < d)
  others : ∀ l : List Nat, l.Nodup → l.length = cores.length → (∀ d ∈ l, dieOf d = die ∧ (y.storage d n).isSome = true) →
    (∀ c ∈ l, ∀ d ∈ l, clusterOf c = clusterOf d) → (∀ c ∈ cores, ∀ d ∈ l, clusterOf c ≠ clusterOf d) →
    sumOf (l.map y.freeSlots) < sumOf (cores.map y.freeSlots) ∨
      (sumOf (l.map y.freeSlots) = sumOf (cores.map y.freeSlots) ∧ ∀ c ∈ cores, ∀ d ∈ l, clusterOf c < clusterOf d)

/-- No block or warp has an identity that is still to be given. -/
def Sys.Fresh (y : Sys) : Prop := (∀ k ∈ y.blocks, k.id < y.nextId) ∧ ∀ w ∈ y.warps, w.block < y.nextId

/-- One launch cluster after another of a grid has been placed on a die, `n` of them, from `y` to `z` (R423). -/
def PlacesClusters (g : Grid) (die : Nat) : Nat → Sys → Sys → Prop
  | 0, y, z => z = y
  | n + 1, y, z => ∃ x, y.placeCluster g die 0 g.clusterSize = some x ∧ PlacesClusters g die n x z

/-- The `n` launch clusters of a grid have been placed in flat-index order, die by die in ascending number, each die filled before the
next, from `y` to `z` (R425). -/
def FillsDies (g : Grid) (dies : List Nat) (n : Nat) (y z : Sys) : Prop :=
  ∃ (ds : List Nat) (ys : List Sys), ds.length = n ∧ ys.length = n + 1 ∧ ys[0]? = some y ∧ ys[n]? = some z ∧
    ∀ i d x, ds[i]? = some d → ys[i]? = some x → d ∈ dies ∧
      ys[i + 1]? = x.placeCluster g d (i * g.clusterSize) g.clusterSize ∧ (∀ p, 0 < i → ds[i - 1]? = some p → p ≤ d) ∧
      ∀ e ∈ dies, e < d → (∀ p, 0 < i → ds[i - 1]? = some p → p ≤ e) →
        x.placeCluster g e (i * g.clusterSize) g.clusterSize = none

/-- The word completes and writes the big number `x` to V register `d` (R235, R236, R339): its limbs, its shape byte and its top limb;
every other register keeps its contents. -/
def WritesBig (i : Instr) (s : State) (e : Env) (d : BitVec 8) (x : Int) : Prop :=
  ∃ t v, exec i s = .next t ∧ OnlyWarp s t e v ∧ WordFrame e v ∧ KeepsScalars e v ∧ v.fpctl = e.w.fpctl ∧
    ∀ r, r < 256 → (∀ j, j < 32 → v.vl r j = if r = d.toNat then limb x.natAbs j else e.w.vl r j) ∧
      (v.shapes[r]?, v.tops[r]?) =
        if r = d.toNat then
          (some (BitVec.ofNat 8 (128 + (if x < 0 then 64 else 0) + limbCount x.natAbs)), some (limb x.natAbs 32))
        else (e.w.shapes[r]?, e.w.tops[r]?)

/-- An accumulator of a block, by its block-relative index (R72). -/
def Block.accAt (k : Block) (n : Nat) : BitVec 128 := Table.getD k.acc n 0

/-- The word completes, popping `pops` besides its own pops; the accumulators of its block become `f`, nothing else of the block changes, and
its warp becomes `w` before the pops and the advance. -/
def ChangesTiles (i : Instr) (s : State) (e : Env) (w : Warp) (pops : List (BitVec 2 × Nat)) (f : Nat → BitVec 128) : Prop :=
  ∃ k, exec i s = .next { s with
      sys := ((s.sys.setBlock k).setWarp (e.after w (e.i.pops ++ pops))).mark e.k.ctx } ∧
    (∀ n, k.accAt n = f n) ∧ { k with acc := e.k.acc, badAcc := e.k.badAcc } = e.k

/-- The word completes, leaving its sub-warp as `b` in the warp `w`. -/
def Goes (i : Instr) (s : State) (e : Env) (w : Warp) (b : Sub) : Prop :=
  exec i s = .next { s with sys := (s.sys.setWarp (w.setSub e.o b)).mark e.k.ctx }

/-- The sub-warp at a target, where a clause starts; it keeps where it came from until then (R395). -/
def Sub.jumped (b : Sub) (pc : Word) : Sub :=
  { b with pc, place := .boundary, wait := .none, under := .none, came := some (b.pc, b.header), set := [] }

end Sys2Proof.Machine
end

