-- ==== Sys2Proof/Certificates/Slice0/Obligations.lean ====
section
/-! DEFINITION. The statements about the machine, for the provers. -/

open Sys2Proof Sys2Proof.Machine

/-! ### Vector integer forms -/

/-- R260, R261, R258: IADD, ISUB, IMUL, IMULH, IMIN and IMAX complete when their checks pass, and each active lane of D
receives the function of R260 of its two operands, at the form's width and signedness, clamped under `.sat`; everything
else keeps its contents. R260, R264, R196: AND, OR, XOR, ANDN and the shifts SHL, SHR, SAR and ROT complete when their checks pass, and each active
lane of D receives the function of the tables, an immediate zero-extended and an amount read unsigned at the form's width. What an imm16 supplies at 8 bits is
the model's choice (log 130). -/
def Obligations.IntegerForms : Prop :=
  (
  ∀ (s : State) (e : Env) (o : OpAB),
    let n := o.sz.bits
    let x := fun i => toI o.sg n (e.laneA o.sz o.a i)
    let y := fun i => toI o.sg n (e.laneB o.sz o.a o.sz o.b false i)
    let clamp := fun r : Int => if o.fl.getLsbD 0 then (if o.sg then satS r n else satU r n) else r
    let gives := fun (c : OpAB → Instr) (r : Nat → Int) =>
      Ready (c o) s e → WritesLanes (c o) s e o.d o.sz o.sg (fun i => wrap n (r i))
    gives .iadd (fun i => clamp (x i + y i)) ∧ gives .isub (fun i => clamp (x i - y i)) ∧
    gives .imul (fun i => clamp (x i * y i)) ∧ gives .imulh (fun i => x i * y i / 2 ^ n) ∧
    gives .imin (fun i => min (x i) (y i)) ∧ gives .imax (fun i => max (x i) (y i))
  ) ∧ (
  ∀ (s : State) (e : Env) (o : OpAB),
    let n := o.sz.bits
    let a := fun i => (e.laneA o.sz o.a i).toNat % 2 ^ n
    let b := fun i => (e.laneB o.sz o.a o.sz o.b true i).toNat % 2 ^ n
    let sa := fun i => toI true n (e.laneA o.sz o.a i)
    let gives := fun (c : OpAB → Instr) (r : Nat → Int) =>
      Ready (c o) s e → WritesLanes (c o) s e o.d o.sz o.sg (fun i => wrap n (r i))
    gives .iand (fun i => (a i &&& b i : Nat)) ∧ gives .ior (fun i => (a i ||| b i : Nat)) ∧
    gives .ixor (fun i => (a i ^^^ b i : Nat)) ∧ gives .iandn (fun i => (a i &&& (2 ^ n - 1 - b i) : Nat)) ∧
    gives .shl (fun i => if b i ≥ n then 0 else (a i * 2 ^ b i : Nat)) ∧
    gives .shr (fun i => if b i ≥ n then 0 else (a i / 2 ^ b i : Nat)) ∧
    gives .sar (fun i => sa i / 2 ^ (if b i < n then b i else n - 1)) ∧
    gives .rot (fun i => (a i * 2 ^ (b i % n) + a i / 2 ^ (n - b i % n) : Nat))
  )

/-- R260, R261, R270: IABS, CLZ, CTZ, POPC, BREV, MOV and MOVI complete when their checks pass: the absolute value of the signed
operand, the counts of leading, trailing and all one bits, the reversal of the bits, and the operand or immediate itself. R269: each ICMP writes to the S register D the mask of the active lanes for which its condition holds, bits 63:32 zero. R270: STOV writes S[A] to lane j of D alone, and nothing when lane j is inactive; VTOS writes lane j of A, extended, to S[D],
whatever EXEC holds. What an imm16 supplies at 8 bits is
the model's choice (log 130). -/
def Obligations.OneSourceCompareAndMoveForms : Prop :=
  (
  ∀ (s : State) (e : Env) (o : OpA),
    let n := o.sz.bits
    let a := fun i => (e.laneA o.sz o.a i).toNat % 2 ^ n
    let gives := fun (c : OpA → Instr) (p : Nat → Nat → Prop) =>
      Ready (c o) s e → ∃ f, WritesLanes (c o) s e o.d o.sz o.sg f ∧
        ∀ i, i < 32 → (f i).toNat < 2 ^ n ∧ p (a i) (f i).toNat
    (Ready (.iabs o) s e → WritesLanes (.iabs o) s e o.d o.sz o.sg (fun i =>
      let r : Int := (toI true n (a i)).natAbs
      wrap n (if o.fl.getLsbD 0 then satS r n else r))) ∧
    gives .clz (fun x r => r ≤ n ∧ x < 2 ^ (n - r) ∧ (r < n → 2 ^ (n - r - 1) ≤ x)) ∧
    gives .ctz (fun x r => r ≤ n ∧ (∀ j, j < r → x.testBit j = false) ∧ (r < n → x.testBit r = true)) ∧
    gives .popc (fun x r => r = (List.range n).countP (fun j => x.testBit j)) ∧
    gives .brev (fun x r => ∀ j, j < n → r.testBit j = x.testBit (n - 1 - j)) ∧
    gives .mov (fun x r => r = x) ∧
    (∀ (imm : BitVec 16), Ready (.movi o.d imm o.sz) s e →
      WritesLanes (.movi o.d imm o.sz) s e o.d o.sz false (fun _ => wrap n imm.toInt))
  ) ∧ (
  (
  ∀ (s : State) (e : Env) (o : OpAB),
    let n := o.sz.bits
    let gives := fun (c : OpAB → Instr) (sg zx : Bool) (p : Int → Int → Prop) =>
      Ready (c o) s e → ∃ m : LaneMask, WritesScalar (c o) s e (o.d.setWidth 7) (m.zeroExtend 64) ∧
        ∀ i, i < 32 → (m.getLsbD i = true ↔ e.b.active i = true ∧
          p (toI sg n (e.laneA o.sz o.a i)) (toI sg n (e.laneB o.sz o.a o.sz o.b zx i)))
    gives .icmpEq false false (fun x y => x = y) ∧ gives .icmpNe false false (fun x y => x ≠ y) ∧
    gives .icmpLt true false (fun x y => x < y) ∧ gives .icmpLe true false (fun x y => x ≤ y) ∧
    gives .icmpGt true false (fun x y => x > y) ∧ gives .icmpGe true false (fun x y => x ≥ y) ∧
    gives .icmpLtu false true (fun x y => x < y) ∧ gives .icmpLeu false true (fun x y => x ≤ y) ∧
    gives .icmpGtu false true (fun x y => x > y) ∧ gives .icmpGeu false true (fun x y => x ≥ y)
  ) ∧ (
  ∀ (s : State) (e : Env) (j : UImm) (sz : Sz) (sg : Bool),
    let lane := (match j with | .s r => (e.w.s r).toNat % 32 | .imm m => m.toNat)
    (∀ (d : BitVec 8) (a : SReg), Ready (.stov d a j sz sg) s e →
      WritesLanesIn (.stov d a j sz sg) s e (e.b.exec &&& (1#32 <<< lane)) d sz sg
        (fun _ => low sz.bits (e.w.s a)) e.w.fpctl) ∧
    (∀ (d : SReg) (a : BitVec 8), Ready (.vtos d a j sz sg) s e →
      WritesScalar (.vtos d a j sz sg) s e d (ext sg sz.bits (e.w.lane sz a.toNat lane)))
  )
  )

/-- R260, R263, R264, R265, R266, R268: the forms with a third source or operand, IMAD, FSHF, BFI, PRMB, SEL, BFE, LEA and
IMADW, complete when their checks pass, and each active lane of D receives the function of its operands. R262: IADDC writes the low limb of a + b + c₀ to D and its carry to D + 1, ISUBB the low limb of a − b − c₀ and 1 when that
is negative, in each active lane, where c₀ is bit 0 of C. What an imm16 supplies at 8 bits is
the model's choice (log 130). -/
def Obligations.ThreeSourceAndLimbForms : Prop :=
  (
  ∀ (s : State) (e : Env) (o : OpABC) (o2 : OpAB),
    let n := o.sz.bits
    let ua := fun i => (e.laneA o.sz o.a i).toNat % 2 ^ n
    let uc := fun i => (e.laneC o.sz o.c i).toNat % 2 ^ n
    let k := fun i => (e.laneB o.sz o.a o.sz o.b true i).toNat % 2 ^ n
    let b32 := fun i => (e.laneB .w32 o.a o.sz o.b true i).toNat % 2 ^ 32
    let sgn := fun (m : Nat) (x : Word) => toI o.sg m x
    let gives := fun (c : OpABC → Instr) (r : Nat → Int) =>
      Ready (c o) s e → WritesLanes (c o) s e o.d o.sz o.sg (fun i => wrap n (r i))
    let clamp := fun r : Int => if o.fl.getLsbD 0 then (if o.sg then satS r n else satU r n) else r
    gives .imad (fun i => clamp (sgn n (e.laneA o.sz o.a i) * sgn n (e.laneB o.sz o.a o.sz o.b true i) +
      sgn n (e.laneC o.sz o.c i))) ∧
    gives .fshf (fun i => ((ua i * 2 ^ n + uc i) / 2 ^ (if k i < n then k i else n) : Nat)) ∧
    gives .bfi (fun i =>
      let mask := (2 ^ (b32 i / 256 % 256) - 1) * 2 ^ (b32 i % 256) % 2 ^ n
      ((ua i &&& (2 ^ n - 1 - mask)) ||| ((uc i * 2 ^ (b32 i % 256)) &&& mask) : Nat)) ∧
    gives .prmb (fun i =>
      let pool := ua i + uc i * 2 ^ 32
      let pick := fun nib : Nat =>
        let x := pool / 2 ^ (8 * (nib % 8)) % 256
        if nib ≥ 8 then (if x ≥ 128 then 255 else 0) else x
      ((List.range 4).foldl (fun v j => v + pick (b32 i / 2 ^ (4 * j) % 16) * 2 ^ (8 * j)) 0 : Nat)) ∧
    gives .sel (fun i => if (e.w.sn o.c.toNat).getLsbD i then (ua i : Int)
      else ((e.laneB o.sz o.a o.sz o.b false i).toNat % 2 ^ n : Nat)) ∧
    (Ready (.imadw o) s e → WritesLanes (.imadw o) s e o.d .w64 false (fun i =>
      wrap 64 (sgn 32 (e.laneA .w32 o.a i) * sgn 32 (e.laneB .w32 o.a .w32 o.b false i) +
        (e.laneC .w64 o.c i).toNat))) ∧
    (let m := o2.sz.bits
     let a2 := fun i => (e.laneA o2.sz o2.a i).toNat % 2 ^ m
     (Ready (.bfe o2) s e → WritesLanes (.bfe o2) s e o2.d o2.sz o2.sg (fun i =>
       let b := (e.laneB .w32 o2.a o2.sz o2.b true i).toNat
       let l := b / 256 % 256
       let f := a2 i / 2 ^ (b % 256) % 2 ^ l
       wrap m (if l = 0 then 0 else if o2.sg && f ≥ 2 ^ (l - 1) then (f : Int) - 2 ^ l else f))) ∧
     (Ready (.lea o2) s e → WritesLanes (.lea o2) s e o2.d o2.sz o2.sg (fun i =>
       wrap m (a2 i + toI o2.sg 32 (e.laneB .w32 o2.a o2.sz o2.b false i) * 2 ^ o2.fl.toNat))))
  ) ∧ (
  ∀ (s : State) (e : Env) (o : OpABC),
    let a := fun i => ((e.laneA .w32 o.a i).toNat : Int)
    let b := fun i => ((e.laneB .w32 o.a .w32 o.b false i).toNat : Int)
    let c := fun i => ((e.laneC .w32 o.c i).toNat % 2 : Int)
    let gives := fun (f : OpABC → Instr) (r : Nat → Int) =>
      Ready (f o) s e → WritesLanes (f o) s e o.d .w64 false (fun i =>
        wrap 64 (r i % 2 ^ 32 + 2 ^ 32 * (if r i < 0 then 1 else r i / 2 ^ 32)))
    gives .iaddc (fun i => a i + b i + c i) ∧ gives .isubb (fun i => a i - b i - c i)
  )

/-- R267: when no active lane's divisor is zero, IDIV and IREM complete with the quotient rounded toward zero and the remainder
of the dividend's sign; otherwise they trap DIVZERO with the lanes of zero divisors, and write no lane. -/
def Obligations.DivisionForms : Prop :=
  ∀ (s : State) (e : Env) (o : OpAB),
    let n := o.sz.bits
    let x := fun i => toI o.sg n (e.laneA o.sz o.a i)
    let y := fun i => toI o.sg n (e.laneB o.sz o.a o.sz o.b false i)
    let zero := fun i => i < 32 ∧ e.b.active i = true ∧ y i = 0
    ((∀ i, ¬ zero i) →
      (Ready (.idiv o) s e → WritesLanes (.idiv o) s e o.d o.sz o.sg (fun i => wrap n ((x i).tdiv (y i)))) ∧
      (Ready (.irem o) s e → WritesLanes (.irem o) s e o.d o.sz o.sg
        (fun i => wrap n (x i - (x i).tdiv (y i) * y i)))) ∧
    (∀ (c : OpAB → Instr) (j : Nat), c = .idiv ∨ c = .irem → Ready (c o) s e → zero j → (∀ i, i < j → ¬ zero i) →
      ∃ z : LaneMask, (∀ i, i < 32 → (z.getLsbD i = true ↔ zero i)) ∧
        exec (c o) s = .next (commit s (takeTrap s e.w e.o e.b
          { trapOf .divzero (BitVec.ofNat 64 j) with tlanes := z })))

/-! ### Scalar and lane forms -/

/-- R271, R272: the scalar forms complete when their checks pass, and write to D, an X register in the access slice, the n-bit
result of the named integer form applied once, extended to 64 bits. R272, R273: SSEL chooses by S[C], SCMP writes whether the condition of R269 with its number holds, SMOVI and SMOVH write
their immediates, SMOVH leaving bits 31:0. That an operand LANEID reads 0 is the model's choice (log 129). -/
def Obligations.ScalarForms : Prop :=
  (
  ∀ (s : State) (e : Env) (o : OpS) (o1 : OpS1),
    let n := o.sz.bits
    let a := (e.scalarA o.a).toNat % 2 ^ n
    let bz := (e.uniB o.b true).toNat % 2 ^ n
    let x := toI o.sg n (e.scalarA o.a)
    let y := toI o.sg n (e.uniB o.b false)
    let sa := toI true n (e.scalarA o.a)
    let clamp := fun r : Int => if o.fl.getLsbD 0 then (if o.sg then satS r n else satU r n) else r
    let gives := fun (c : OpS → Instr) (r : Int) =>
      Ready (c o) s e → WritesScalar (c o) s e o.d (ext o.sg n (wrap n r))
    let n1 := o1.sz.bits
    let a1 := (e.scalarA o1.a).toNat % 2 ^ n1
    let counts := fun (c : OpS1 → Instr) (p : Nat → Prop) =>
      Ready (c o1) s e → ∃ r, WritesScalar (c o1) s e o1.d (ext o1.sg n1 (BitVec.ofNat 64 r)) ∧ r < 2 ^ n1 ∧ p r
    gives .sadd (clamp (x + y)) ∧ gives .ssub (clamp (x - y)) ∧ gives .smul (clamp (x * y)) ∧
    gives .smulh (x * y / 2 ^ n) ∧ gives .smin (min x y) ∧ gives .smax (max x y) ∧
    gives .sand (a &&& bz : Nat) ∧ gives .sor (a ||| bz : Nat) ∧ gives .sxor (a ^^^ bz : Nat) ∧
    gives .sandn (a &&& (2 ^ n - 1 - bz) : Nat) ∧
    gives .sshl (if bz ≥ n then 0 else (a * 2 ^ bz : Nat)) ∧ gives .sshr (if bz ≥ n then 0 else (a / 2 ^ bz : Nat)) ∧
    gives .ssar (sa / 2 ^ (if bz < n then bz else n - 1)) ∧
    gives .slea (a + toI o.sg n (e.uniB o.b false) * 2 ^ o.fl.toNat) ∧
    counts .sclz (fun r => r ≤ n1 ∧ a1 < 2 ^ (n1 - r) ∧ (r < n1 → 2 ^ (n1 - r - 1) ≤ a1)) ∧
    counts .sctz (fun r => r ≤ n1 ∧ (∀ j, j < r → a1.testBit j = false) ∧ (r < n1 → a1.testBit r = true)) ∧
    counts .spopc (fun r => r = (List.range n1).countP (fun j => a1.testBit j))
  ) ∧ (
  ∀ (s : State) (e : Env) (o : OpS3) (d : SReg) (imm : BitVec 32) (sg : Bool),
    let n := o.sz.bits
    let b := e.w.sx e.o o.b
    let u := fun x => toI false n x
    let t := fun x => toI true n x
    let a := e.scalarA o.a
    let conds := [u a = u b, u a ≠ u b, t a < t b, t a ≤ t b, t a > t b, t a ≥ t b,
                  u a < u b, u a ≤ u b, u a > u b, u a ≥ u b]
    (Ready (.ssel o) s e → WritesScalar (.ssel o) s e o.d
      (ext o.sg n (if e.w.sx e.o (o.c.setWidth 7) ≠ 0 then a else b))) ∧
    (∀ p, Ready (.scmp o) s e → conds[o.c.toNat]? = some p →
      (p → WritesScalar (.scmp o) s e o.d 1) ∧ (¬ p → WritesScalar (.scmp o) s e o.d 0)) ∧
    (Ready (.smovi d imm sg) s e → WritesScalar (.smovi d imm sg) s e d
      (if sg then imm.signExtend 64 else imm.zeroExtend 64)) ∧
    (Ready (.smovh d imm) s e → WritesScalar (.smovh d imm) s e d (imm ++ (e.w.sx e.o d).setWidth 32))
  )

/-- R274 to R277: the lane forms complete in an unsplit warp; LPERM reads before it writes, LSCAN and LRED combine the exact
values of the active lanes (for ADD clamped or wrapped once), and BALLOT writes the mask of nonzero lanes. -/
def Obligations.LaneForms : Prop :=
  ∀ (s : State) (e : Env) (o : OpAB) (c : OpScan) (q : OpA),
    (Ready (.lperm o) s e → e.w.subs.length = 1 ∧ WritesLanes (.lperm o) s e o.d o.sz o.sg
      (fun i => e.laneA o.sz o.a ((e.laneB .w32 o.a o.sz o.b false i).toNat % 32))) ∧
    (let n := c.sz.bits
     let top : Int := if c.sg then 2 ^ (n - 1) - 1 else 2 ^ n - 1
     let bottom : Int := if c.sg then -(2 ^ (n - 1)) else 0
     let across := fun (J : Nat → Bool) =>
       let l := ((List.range 32).filter (fun j => e.b.active j && J j)).map (e.laneA c.sz c.a)
       let ints := l.map (toI c.sg n)
       let nats := l.map (fun x => x.toNat)
       match c.op with
       | .add => wrap n (if c.sat then (if c.sg then satS ints.sum n else satU ints.sum n) else ints.sum)
       | .min => wrap n (ints.foldl min top)
       | .max => wrap n (ints.foldl max bottom)
       | .and => wrap n (nats.foldl (fun x y => x &&& y) (2 ^ n - 1) : Nat)
       | .or => wrap n (nats.foldl (fun x y => x ||| y) 0 : Nat)
       | .xor => wrap n (nats.foldl (fun x y => x ^^^ y) 0 : Nat)
     (Ready (.lscan c) s e → WritesLanes (.lscan c) s e c.d c.sz c.sg
       (fun i => across (fun j => j < i || (!c.ex && j == i)))) ∧
     (Ready (.lred c) s e → WritesLanes (.lred c) s e c.d c.sz c.sg (fun _ => across (fun _ => true)))) ∧
    (Ready (.ballot q) s e → ∃ m : LaneMask,
      (∀ i, i < 32 → (m.getLsbD i = true ↔ e.b.active i = true ∧ e.laneA q.sz q.a i ≠ 0)) ∧
      WritesLanes (.ballot q) s e q.d .w32 false (fun _ => m.zeroExtend 64))

/-! ### Floating point -/

/-- R279, R280, R246, R248: FADD, FSUB, FMUL, FFMA, FMIN, FMAX, FDIV and FSQRT have in each active lane the result and flags of
the operation under the form's rounding, as R246 delivers them. -/
def Obligations.FloatArithmeticForms : Prop :=
  ∀ (s : State) (e : Env) (o : FpAB) (o3 : FpABC) (o1 : FpA),
    let ctx := fun (f : FSz) (r : RSel) =>
      ({ f := f.fmt, r := r.mode e.w.fpctl, flush := e.w.nbv == 1 && f == .f32 } : FpCtx)
    let gives := fun (c : FpAB → Instr) (f : FpCtx → FpVal → FpVal → FpOut) =>
      Ready (c o) s e → FloatOutcome (c o) s e o.d o.f.sz (fun j =>
        let x := ctx o.f o.rm
        f x (x.read (e.laneA o.f.sz o.a j)) (x.read (e.laneB o.f.sz o.a o.f.sz o.b false j)))
    gives .fadd FpCtx.add ∧ gives .fsub FpCtx.sub ∧ gives .fmul FpCtx.mul ∧ gives .fdiv FpCtx.div ∧
    gives .fmin (fun x => x.pick false) ∧ gives .fmax (fun x => x.pick true) ∧
    (Ready (.ffma o3) s e → FloatOutcome (.ffma o3) s e o3.d o3.f.sz (fun j =>
      let x := ctx o3.f o3.rm
      x.fma (x.read (e.laneA o3.f.sz o3.a j)) (x.read (e.laneB o3.f.sz o3.a o3.f.sz o3.b false j))
        (x.read (e.laneC o3.f.sz o3.c j)))) ∧
    (Ready (.fsqrt o1) s e → FloatOutcome (.fsqrt o1) s e o1.d o1.f.sz (fun j =>
      let x := ctx o1.f o1.rm
      x.sqrt (x.read (e.laneA o1.f.sz o1.a j))))

/-- R281, R282, R283: FCMP writes 1 or 0 by its condition, raising NV for an sNaN operand, or in a signalling condition for any NaN;
FCLASS sets the one bit of its operand's class and raises no flag; FCVT rounds the value once to the destination format or to an integer, a NaN
giving 0 or the canonical NaN and a value outside an integer range its nearest end with NV; R248: under NBV = 1 a conversion to an integer
rounds ties away from zero, and binary32 subnormals are zero. -/
def Obligations.FloatCompareAndConvertForms : Prop :=
  ∀ (s : State) (e : Env) (o : FpABC) (o1 : FpA) (d : BitVec 8) (a : SrcA) (dt st : CvtTy) (rm : RSel),
    (Ready (.fcmp o) s e → FloatOutcome (.fcmp o) s e o.d .w32 (fun j =>
      let x : FpCtx := { f := o.f.fmt, r := o.rm.mode e.w.fpctl, flush := e.w.nbv == 1 && o.f == .f32 }
      let v := x.read (e.laneA o.f.sz o.a j)
      let w := x.read (e.laneB o.f.sz o.a o.f.sz o.b false j)
      let nan := v.isNan || w.isNan
      let holds := [!nan && !fpLt v w && !fpLt w v, nan || fpLt v w || fpLt w v, !nan && fpLt v w,
        !nan && !fpLt w v, !nan && fpLt w v, !nan && !fpLt v w, nan, !nan].getD o.c.toNat false
      let loud := 2 ≤ o.c.toNat && o.c.toNat ≤ 5
      (if holds then 1 else 0, if v = .nan true || w = .nan true || (loud && nan) then fNV else 0))) ∧
    (Ready (.fclass o1) s e → WritesLanes (.fclass o1) s e o1.d .w32 false (fun j =>
      let x := e.laneA o1.f.sz o1.a j
      let f := o1.f.fmt
      1#64 <<< (match f.unpack x with
        | .nan signalling => if signalling then 0 else 1
        | .inf neg => if neg then 2 else 9
        | .fin neg m _ =>
          if m = 0 then (if neg then 5 else 6)
          else if m < 2 ^ f.fb then (if neg then 4 else 7)
          else (if neg then 3 else 8)))) ∧
    (let fmtOf := fun t : CvtTy => (match t with | .f32 => some f32Fmt | .f64 => some f64Fmt | .f16 => some f16Fmt | _ => none)
     let range := fun t : CvtTy => ((match t with
       | .s32 => (-(2 ^ 31), 2 ^ 31 - 1) | .s64 => (-(2 ^ 63), 2 ^ 63 - 1) | .u32 => (0, 2 ^ 32 - 1) | _ => (0, 2 ^ 64 - 1)) : Int × Int)
     let v1 := e.w.nbv == 1
     let signed := st == .s32 || st == .s64
     let out := fun x : Word => (match fmtOf st, fmtOf dt with
       | some f, some g => (match f.read (v1 && st == .f32) x with
         | .nan k => (g.qnan, if k then fNV else 0)
         | .inf neg => (g.infinity neg, 0)
         | .fin neg m q => g.round (rm.mode e.w.fpctl) (v1 && dt == .f32) neg m q)
       | some f, none => (match f.read (v1 && st == .f32) x with
         | .nan _ => (0, fNV)
         | .inf neg => (wrap dt.sz.bits (if neg then (range dt).1 else (range dt).2), fNV)
         | .fin neg m q =>
           let k := roundAt (if v1 then .away else rm.mode e.w.fpctl) neg m q 0
           let z : Int := if neg then -(k.1 : Int) else k.1
           if z < (range dt).1 then (wrap dt.sz.bits (range dt).1, fNV)
           else if (range dt).2 < z then (wrap dt.sz.bits (range dt).2, fNV)
           else (wrap dt.sz.bits z, if k.2 then 0 else fNX))
       | none, some g =>
         let z := toI signed st.sz.bits x
         g.round (rm.mode e.w.fpctl) (v1 && dt == .f32) (decide (z < 0)) z.natAbs 0
       | none, none => ((0 : Word), (0 : FpFlags)))
     Ready (.fcvt d a dt st rm) s e → FloatOutcome (.fcvt d a dt st rm) s e d dt.sz (fun j => out (e.laneA st.sz a j)))

/-- R243, R245, R280: rounding a value that the format can hold gives its own encoding and raises no flag, in every rounding mode; a value
between two multiples of the unit goes to one of the two next to it, the one that the mode directs, and is inexact. FADD, FSUB, FMUL and FFMA
of finite values give the exact sum, difference, product and fused sum, rounded once with the flags of that rounding; an exact zero sum takes
the sign of IEEE 754. FDIV and FSQRT round the quotient and the root, whose floor and whether anything is left over determine the result.
R247, R280: an sNaN operand raises NV, and every NaN result is the canonical one: the sum of opposite infinities, 0 × ∞ (with a NaN added to
it too), 0 / 0, ∞ / ∞ and the square root of a negative number give it with NV; a finite nonzero value over 0 gives an infinity with DZ;
√−0 is −0. FMIN and FMAX of a NaN and a number give the number; of two numbers the lesser and the greater, −0 being less than +0. -/
def Obligations.RoundingAndSpecialValues : Prop :=
  (
  ∀ (f : FpFmt) (r : Rnd) (x : Word) (neg : Bool) (m : Nat) (q : Int),
    f ∈ [f16Fmt, f32Fmt, f64Fmt] → x.toNat < 2 ^ f.width → f.unpack x = .fin neg m q →
      f.round r false neg m q = (x, 0)
  ) ∧ (
  ∀ (r : Rnd) (neg : Bool) (m j : Nat) (e : Int),
    let d := 2 ^ j
    let k := (roundAt r neg m e (e + j)).1
    ((roundAt r neg m e (e + j)).2 = true ↔ d ∣ m) ∧ (d ∣ m → k * d = m) ∧
    (¬ d ∣ m → (k = m / d ∨ k = m / d + 1) ∧ (match r with
      | .ne => (2 * (m % d) < d → k = m / d) ∧ (d < 2 * (m % d) → k = m / d + 1) ∧ (2 * (m % d) = d → k % 2 = 0)
      | .tz => k = m / d
      | .up => (k = m / d ↔ neg = true)
      | .dn => (k = m / d ↔ neg = false)
      | .away => (k = m / d ↔ 2 * (m % d) < d)))
  ) ∧ (
  ∀ (x : FpCtx) (neg neg2 neg3 : Bool) (m n l : Nat) (p q g : Int),
    let a := FpVal.fin neg m p
    let b := FpVal.fin neg2 n q
    let signed := fun (s : Bool) (v : Nat) (e k : Int) => (if s then -((v * 2 ^ (e - k).toNat : Nat) : Int) else (v * 2 ^ (e - k).toNat : Nat))
    let summed := fun (out : FpOut) (s t : Bool) (v w : Nat) (e h : Int) =>
      let k := min e h
      let z := signed s v e k + signed t w h k
      (z ≠ 0 → out = x.f.round x.r x.flush (decide (z < 0)) z.natAbs k) ∧
      (z = 0 → out = (x.f.zero (if s = t then s else decide (x.r = .dn)), 0))
    summed (x.add a b) neg neg2 m n p q ∧ summed (x.sub a b) neg (!neg2) m n p q ∧
    x.mul a b = x.f.round x.r x.flush (neg != neg2) (m * n) (p + q) ∧
    summed (x.fma a b (.fin neg3 l g)) (neg != neg2) neg3 (m * n) l (p + q) g ∧
    (m ≠ 0 → n ≠ 0 → ∃ j : Nat, x.f.fb + 3 ≤ j - n.log2 ∧ x.div a b =
      x.f.round x.r x.flush (neg != neg2) (2 * (m * 2 ^ j / n) + (if n ∣ m * 2 ^ j then 0 else 1)) (p - q - j - 1)) ∧
    (m = 0 → n ≠ 0 → x.div a b = (x.f.zero (neg != neg2), 0)) ∧
    (m ≠ 0 → ∃ (j : Nat) (h : Int) (r : Nat), 2 * (x.f.fb + 3) ≤ j ∧ 2 * h = p - j ∧
      r * r ≤ m * 2 ^ j ∧ m * 2 ^ j < (r + 1) * (r + 1) ∧ x.sqrt (.fin false m p) =
        x.f.round x.r x.flush false (2 * r + (if r * r = m * 2 ^ j then 0 else 1)) (h - 1))
  ) ∧ (
  ∀ (x : FpCtx) (a b c : FpVal) (neg neg2 : Bool) (m : Nat) (p q : Int),
    let isNan : FpVal → Prop := fun v => ∃ k, v = .nan k
    let nv := fun (v w : FpVal) => if v = .nan true ∨ w = .nan true then fNV else 0
    let nan := x.f.qnan
    ((isNan a ∨ isNan b) → x.add a b = (nan, nv a b) ∧ x.sub a b = (nan, nv a b) ∧ x.mul a b = (nan, nv a b) ∧
      x.div a b = (nan, nv a b) ∧ (x.fma a b c).1 = nan) ∧
    (∀ k, x.sqrt (.nan k) = (nan, if k then fNV else 0)) ∧
    x.add (.inf neg) (.inf !neg) = (nan, fNV) ∧ x.sub (.inf neg) (.inf neg) = (nan, fNV) ∧
    x.add (.inf neg) (.inf neg) = (x.f.infinity neg, 0) ∧ x.add (.inf neg) (.fin neg2 m p) = (x.f.infinity neg, 0) ∧
    x.mul (.fin neg 0 p) (.inf neg2) = (nan, fNV) ∧ x.fma (.fin neg 0 p) (.inf neg2) c = (nan, fNV) ∧
    (m ≠ 0 → x.mul (.fin neg m p) (.inf neg2) = (x.f.infinity (neg != neg2), 0)) ∧
    x.div (.fin neg 0 p) (.fin neg2 0 q) = (nan, fNV) ∧ x.div (.inf neg) (.inf neg2) = (nan, fNV) ∧
    x.div (.fin neg m p) (.inf neg2) = (x.f.zero (neg != neg2), 0) ∧ x.div (.inf neg) (.fin neg2 m p) = (x.f.infinity (neg != neg2), 0) ∧
    (m ≠ 0 → x.sqrt (.fin true m p) = (nan, fNV) ∧
      x.div (.fin neg m p) (.fin neg2 0 q) = (x.f.infinity (neg != neg2), fDZ)) ∧
    x.sqrt (.fin neg 0 p) = (x.f.zero neg, 0) ∧ x.sqrt (.inf false) = (x.f.infinity false, 0) ∧ x.sqrt (.inf true) = (nan, fNV) ∧
    (isNan a → isNan b → ∀ mx, x.pick mx a b = (nan, nv a b))
  ) ∧ (
  ∀ (x : FpCtx) (mx k : Bool) (v w : Word),
    x.f ∈ [f16Fmt, f32Fmt, f64Fmt] → x.flush = false → v.toNat < 2 ^ x.f.width → w.toNat < 2 ^ x.f.width →
    let a := x.f.unpack v
    let b := x.f.unpack w
    a.isNan = false → b.isNan = false →
      x.pick mx (.nan k) a = (v, if k then fNV else 0) ∧ x.pick mx a (.nan k) = (v, if k then fNV else 0) ∧
      (x.pick mx a b = (v, 0) ∨ x.pick mx a b = (w, 0)) ∧
      (fpLt a b = true ∨ (fpLt b a = false ∧ a.sign = true ∧ b.sign = false) →
        x.pick mx a b = (if mx then w else v, 0) ∧ x.pick mx b a = (if mx then w else v, 0))
  )

/-! ### Paired words -/

/-- R205, R206, R208: the two halves of a paired word read their sources at issue, half Y's pops after half X's, and both then write;
a V half in the active lanes, an S half once; the flags of HFADD and HFMUL are ORed into FPCTL. What the manual leaves open here is the model's choice (log 39). -/
def Obligations.PairedWordForm : Prop :=
  ∀ (s : State) (e : Env) (x y : Half), Ready (.pairedWord x y) s e →
    let on := (List.range 32).filter e.b.active
    let src := fun (h : Half) (k : BitVec 2 → Nat) (j : Nat) => (match h.rs with
      | .v r => (e.w.vl r.toNat j).toNat
      | .s r => (e.w.s r).toNat % 2 ^ 32
      | .imm m => (h.op.imm m).toNat % 2 ^ 32
      | .queue q => (e.w.popLane .w32 q (k q) j).toNat)
    let srcS := fun (h : Half) => (match h.rs with | .s r => e.w.s r | .imm m => h.op.imm m | _ => 0)
    let c : FpCtx := { f := f32Fmt, r := RSel.dyn.mode e.w.fpctl, flush := e.w.nbv == 1 }
    let out := fun (h : Half) (k : BitVec 2 → Nat) (j : Nat) =>
      let d := (e.w.vl h.rd.toNat j).toNat
      let v := src h k j
      let i := fun z : Nat => toI true 32 (BitVec.ofNat 64 z)
      let word := fun z : Nat => BitVec.ofNat 64 z
      (match h.op with
      | .hadd => (word ((d + v) % 2 ^ 32), 0)
      | .hsub => (word ((d + 2 ^ 32 - v) % 2 ^ 32), 0)
      | .hand => (word (d &&& v), 0)
      | .hor => (word (d ||| v), 0)
      | .hxor => (word (d ^^^ v), 0)
      | .hshl => (word (if v ≥ 32 then 0 else d * 2 ^ v % 2 ^ 32), 0)
      | .hshr => (word (if v ≥ 32 then 0 else d / 2 ^ v), 0)
      | .hmov => (word v, 0)
      | .hmin => (word (if i d ≤ i v then d else v), 0)
      | .hmax => (word (if i d ≤ i v then v else d), 0)
      | .hfadd => c.add (c.read (word d)) (c.read (word v))
      | .hfmul => c.mul (c.read (word d)) (c.read (word v))
      | .hsadd | .hsmov | .hssub | .hnop => (word d, 0) : FpOut)
    let outS := fun (h : Half) => (match h.op with
      | .hsadd => e.w.sn h.rd.toNat + srcS h
      | .hssub => e.w.sn h.rd.toNat - srcS h
      | _ => srcS h)
    let before := fun q : BitVec 2 => if x.rs = .queue q ∧ x.op ≠ .hnop then 1 else 0
    let flags : Half → (BitVec 2 → Nat) → FpFlags := fun h k =>
      if h.vWrite.isSome then (on.map (fun j => (out h k j).2)).foldl (fun a b => a ||| b) 0 else 0
    let raised := flags x (fun _ => 0) ||| flags y before
    raised &&& e.w.fpctl.extractLsb' 16 5 = 0 →
    ∃ t v, exec (.pairedWord x y) s = .next t ∧ OnlyWarp s t e v ∧ WordFrame e v ∧
      v.fpctl = (e.w.fpctl ||| (raised.zeroExtend 64 <<< 8)) ∧
      (∀ r j, r < 256 → j < 32 → v.vl r j =
        if e.b.active j && x.vWrite == some r then ((out x (fun _ => 0) j).1).setWidth 32
        else if e.b.active j && y.vWrite == some r then ((out y before j).1).setWidth 32
        else e.w.vl r j) ∧
      (∀ r, r < 128 → v.sn r =
        if x.sWrite = some r then outS x else if y.sWrite = some r then outS y else e.w.sn r)

/-! ### Clauses and memory forms -/

/-- R213, R212, R189, R210: a clause starts once every flag that WAIT names has count zero and no error: its sub-warp passes the header
and stands inside the clause, and a pre-emption hint is forgotten. While a named flag counts, the sub-warp waits, unless HANG has ended that
wait (R449: the clause then starts without it). The lowest-numbered named flag that carries an error raises it at the header, and loses it
(R189, R213). R212, R218: a clause that runs past its header's page, and a header in the access slice that names a flag, trap ILLEGAL. R414, R454: at a
pre-emptible header a warp of one sub-warp with a hint stops to be saved while its block is being pre-empted. -/
def Obligations.ClauseStarts : Prop :=
  ∀ (s : State) (e : Env) (h : Header), Ready (.clauseStart h) s e →
    let i := Instr.clauseStart h
    let fits := e.b.pc.toNat % 65536 + 8 * h.len.toNat < 65536
    let mayStand := e.o = none → h.wait = 0 ∧ h.seta = 15 ∧ h.setb = 15
    let saves := e.o.isSome = true ∧ e.w.hint.isSome = true ∧ h.pp = true ∧ e.w.subs.length = 1 ∧ e.w.handler = none ∧
      (s.sys.preempting e.k).isSome = true
    let named := fun k => k < 12 ∧ h.wait.getLsbD k = true
    let over_ := ∀ k, named k → e.b.wait = .abandoned ∨ (e.w.flag k).count = 0
    ((∀ d, e.o.isSome = true → e.w.handler = some d → d.has e.b.id = false) → (¬ fits ∨ ¬ mayStand) →
      Traps i s e (trapOf .illegal (Instr.word i))) ∧
    (fits → mayStand → saves → exec i s = .next { s with sys := s.sys.setWarp (e.w.setSub e.o
      { e.b with wait := .none, under := .none, stopped := true }) }) ∧
    (fits → mayStand → ¬ saves →
      (e.b.wait ≠ .abandoned → (∃ k, named k ∧ (e.w.flag k).count ≠ 0) → Waits i s e (.flags h.wait)) ∧
      (over_ → ∀ n t, named n → (e.w.flag n).err = some t → (∀ k, k < n → named k → (e.w.flag k).err = none) →
        let w := e.w.setFlag n { e.w.flag n with err := none }
        Does i s (takePrecise { s with sys := s.sys.setWarp w } w e.b t)) ∧
      (over_ → (∀ k, named k → (e.w.flag k).err = none) →
        ∀ key map, s.sys.vaBase e.asker (some e.k.core) (dieOf e.k.core) e.k.ctx e.b.pc.toNat = some (key, map) →
          ∃ t v, exec i s = .next t ∧ OnlyWarp s t e v ∧
            v.sub? e.o = some { e.b with pc := e.b.pc + 8, wait := .none, under := .none, came := none, set := [],
                                         place := .inside { addr := e.b.pc, h := h, key := key, map := map } } ∧
            (∀ k, k ≠ e.o → v.sub? k = e.w.sub? k) ∧ (e.o ≠ none → v.hint = none) ∧
            { v with subs := e.w.subs, hint := e.w.hint, access := e.w.access, handler := e.w.handler } = e.w))

/-- R285, R287, R289, R290, R293, R294, R298, R214, R215: a scratchpad form whose elements are local locations issues one operation, with
one request per location, at the exact sums of its operands as addresses: a load or atomic leaves its destinations pending and
counts on SETA, a store on SETB, its data read at issue. With no active lane nothing is issued. -/
def Obligations.ScratchFormsIssue : Prop :=
  ∀ (s : State) (e : Env) (o : MemV) (u : MemU) (m : MemK) (a : AtV) (b : AtU),
    let base := fun r : OptS => (match r with | some r => ((e.w.s r).toNat : Int) | none => 0)
    let lanes := fun (r : OptS) (x : Option (BitVec 8)) (sc : BitVec 2) (off : Int) => e.b.on.map (fun i =>
      ({ lane := i, idx := i, ea := base r +
        (match x with | some v => ((e.w.vl v.toNat i).toNat : Int) * 2 ^ sc.toNat | none => 0) + off } : Elem))
    let one := fun (r : OptS) (off : Int) => [({ lane := 32, idx := 1024, ea := base r + off } : Elem)]
    let pair := fun (sz : Sz) (d : BitVec 8) => if sz = .w64 then [d.toNat, d.toNat + 1] else [d.toNat]
    let wide := fun w : Bool => if w then Sz.w64 else Sz.w32
    let load := fun (w : WitF) (size : Nat) (pv ps : List Nat) =>
      ({ w := w, size := size, second := false, pendV := pv, pendS := ps, writes := false,
         kind := fun _ => .read } : MemForm)
    let store := fun (w : WitF) (size : Nat) (data : List Nat → List Byte) =>
      ({ w := w, size := size, second := true, pendV := [], pendS := [], writes := true,
         kind := fun is => .write (data is) } : MemForm)
    let rmw := fun (w : WitF) (aop : Aop) (big : Bool) (pv ps : List Nat) (lane : Nat → AtomLane) =>
      ({ w := w, size := (wide big).bytes, second := false, pendV := pv, pendS := ps, writes := true,
         kind := fun is => .atomic aop big (is.map lane) } : MemForm)
    let block := fun (k : MemK) => (List.range (k.k.toNat + 1)).flatMap (fun r => e.b.on.map (fun i =>
      ({ lane := i, idx := 32 * r + i,
         ea := base k.base + k.off.toInt + ((32 * r + i) * k.sz.bytes : Nat) } : Elem)))
    let forms : List (Instr × MemForm × List Elem) :=
      [ (.lds o, load o.w o.sz.bytes (pair o.sz o.d) [], lanes o.base o.index o.sc o.off.toInt),
        (.sts o, store o.w o.sz.bytes (e.storeData o.d o.sz), lanes o.base o.index o.sc o.off.toInt),
        (.ldsu u, load u.w u.sz.bytes [] [u.d.toNat], one u.base u.off.toInt),
        (.stsu u, store u.w u.sz.bytes (fun _ => leBytes u.sz.bytes (e.w.s u.d).toNat), one u.base u.off.toInt),
        (.ldk m, load m.w m.sz.bytes
          ((List.range ((m.k.toNat + 1) * (if m.sz = .w64 then 2 else 1))).map (fun j => m.d.toNat + j)) [], block m),
        (.stk m, store m.w m.sz.bytes (e.storeData m.d m.sz), block m),
        (.ats a, rmw a.w a.aop a.wide (pair (wide a.wide) a.d) []
          (fun i => { lane := i, val := e.w.lane (wide a.wide) a.d.toNat i,
                      cmp := e.w.lane (wide a.wide) (a.d.toNat + (if a.wide then 2 else 1)) i }),
          lanes a.base a.index a.sc a.off.toInt),
        (.atsu b, rmw b.w b.aop b.wide [] [b.d.toNat]
          (fun i => { lane := i, val := e.w.s b.d, cmp := e.w.sn (b.d.toNat + 1) }), one b.base b.off.toInt) ]
    ∀ i f es l, (i, f, es) ∈ forms → Ready i s e → e.checkWit f.w = .ok () → e.locate f.size es = .ok l →
      e.flagFull (e.op f.second) = false → e.witF f.w = .ok () →
      (l = [] → exec i s = .next (e.next s.sys (f.pendV.foldl Warp.unshape (e.w.witOut f.w 0)))) ∧
      (l ≠ [] →
        let p := { e.op f.second with pendV := f.pendV, pendS := f.pendS, stage := .running }
        let from_ : Origin := .part e.k.core e.w.part
        Sends i s e s.sys (if f.writes then e.w.witOut f.w (writeWit from_ p.tick l) else e.w) p
          (requestsFrom p from_ f.size false f.kind (p.id + 1) (groupLocated f.atomic l)))

/-- R300, R302, R309, R310, R311: GATH, GATHS, SCAT and ATM, once their pages are translated, issue like the scratchpad forms, to the memory
that the pages name; an element of a page that reads as zero has its result at once. R30, R35: while nothing is known of a page, it enters the
miss table and the sub-warp waits for its set. R36, R53: a malformed entry, a write without W, or code that may not be fetched is PROTECTION, ahead of any
replayable fault. R36, R41, R42, R44: where a page faults replayably, the sub-warp parks at the word until its ticket is resumed; a page with no
ticket yet arms the lowest free one, whose word 0 and resume record are written, and its eight-word record goes to the context's fault bin on this
die, or to its host ring, or, where it has neither, the word takes PAGE instead. The lowest free ticket is the model's choice (log 12). -/
def Obligations.MainMemoryFormsIssue : Prop :=
  ∀ (s : State) (e : Env) (o : MemV) (u : MemU) (a : AtV),
    let forms : List (Instr × MemForm × Access3 × List Elem) :=
      [ (.gath o, o.loadForm, .read, e.memElems o), (.scat o, o.storeForm e, .write, e.memElems o),
        (.gaths u, u.loadForm, .read, e.uniElem u.base u.off.toInt),
        (.atm a, a.form e, .write, e.laneElems a.base a.index a.sc a.off.toInt) ]
    ∀ i f acc es y l, (i, f, acc, es) ∈ forms → Ready i s e → e.checkWit f.w = .ok () →
      (e.flagFull (e.op f.second) = false → e.witF f.w = .ok () →
        (es = [] → exec i s = .next (e.next s.sys (f.pendV.foldl Warp.unshape (e.w.witOut f.w 0)))) ∧
        (es ≠ [] → e.locateMain f.size acc es = .ok (y, l) →
          (y.inStep = true ∨ ∀ x ∈ l, ∀ k, x.key = some k → keyKind k ≠ 3 ∨ y.peerDown (keyPA k) = true) →
          let p := { e.op f.second with
            pendV := f.pendV, pendS := f.pendS, stage := .running
            results := (l.filter (fun x => x.key.isNone)).flatMap (fun x => i.place x.idx 0) }
          let from_ : Origin := .part e.k.core e.w.part
          Sends i s e y (if f.writes then e.w.witOut f.w (writeWit from_ p.tick l) else e.w) p
            (requestsFrom p from_ f.size true f.kind (p.id + 1) (groupLocated f.atomic l)))) ∧
      (es ≠ [] → (∀ x ∈ es, 0 ≤ x.ea ∧ x.ea < 2 ^ 56 ∧ x.ea % (f.size : Int) = 0) → e.b.set = [] →
        let die := dieOf e.k.core
        let ctx := e.k.ctx
        let pageOf := fun x : Elem => x.ea.toNat / 65536
        let known := fun n : Nat => s.sys.known e.asker (some e.k.core) die ctx n
        let touch := fun x : Elem => ({ lane := x.lane, va := x.ea.toNat, len := f.size, acc := acc } : Touch)
        let fate := fun x : Elem => (known (pageOf x)).map (s.sys.fate .core ctx (touch x))
        let over_ : State := { s with sys := s.sys.forget e.asker }
        let blames := fun (z : TrapInfo) (hit : Elem → Prop) =>
          (∀ j, j < 32 → (z.tlanes.getLsbD j = true ↔ ∃ x ∈ es, (x.lane = j ∨ x.lane = 32) ∧ hit x)) ∧
          (∃ x ∈ es, hit x ∧ z.tval = wrap 64 x.ea ∧ ∀ v ∈ es, hit v → x.lane ≤ v.lane)
        ((∃ x ∈ es, known (pageOf x) = none) →
          let pages := (es.map pageOf).eraseDups
          let missed := (pages.filter (fun n => (known n).isNone)).foldl (fun z n => z.miss e.asker die ctx n) s.sys
          exec i s = .next { s with sys := missed.setWarp (e.w.setSub e.o (e.b.missing pages)) }) ∧
        (∀ (n : Nat) (r : Reason), ([Reason.malformed, .write, .fetch])[n]? = some r → (∀ x ∈ es, known (pageOf x) ≠ none) →
          let refused := fun (q : Reason) (x : Elem) => ∃ key wr, fate x = some (.refuse q key wr)
          (∃ x ∈ es, refused r x) → (∀ m q, m < n → ([Reason.malformed, .write, .fetch])[m]? = some q → ∀ x ∈ es, ¬ refused q x) →
            ∃ z : TrapInfo, z.cause = .protection ∧ z.reason = r ∧ blames z (refused r) ∧
              exec i s = .next (commit s (takeTrap over_ e.w e.o e.b z))) ∧
        (∀ (n level sparse : Nat) (np : Bool),
          let faults := fun x : Elem => pageOf x = n ∧ fate x = some (.fault level np sparse)
          (∀ x ∈ es, fate x = some .fine ∨ faults x) → (∃ x ∈ es, faults x) →
          let dest := s.sys.faultDest ctx die
          let parked := fun ring : Bool => e.w.setSub e.o
            { e.b with wait := .ticket n ring, under := .none, since := s.sys.time.now, set := [] }
          ((s.sys.armed? ctx n).isSome = true →
            Does i s (.of ((s.sys.forget e.asker).setWarp (parked (decide (dest = .ring)))))) ∧
          (s.sys.armed? ctx n = none → dest = .none → ∃ z : TrapInfo, z.cause = .page ∧ blames z faults ∧
            exec i s = .next (commit s (takeTrap over_ e.w e.o e.b z))) ∧
          (∀ no, s.sys.armed? ctx n = none → dest ≠ .none → s.sys.freeTicket? ctx = some no → s.sys.NothingHeld →
            let pa := (s.sys.context ctx).desc[4].toNat + 128 * no
            let key := mainKey 0 pa
            s.sys.opens ctx key 128 true = true → s.sys.accessFails key 8 false = none → s.sys.accessFails (key + 64) 64 false = none →
            let record : List Word := [BitVec.ofNat 64 (bits (s.sys.context ctx).desc[2] 55 3 * 8), 0, 0,
              BitVec.ofNat 64 (n * 65536 + level * 4096 + (if np then 256 else 0) + sparse * 16 + (if acc = .write then 1 else 0)),
              BitVec.ofNat 64 pa, BitVec.ofNat 64 (e.w.slot * 2048 + e.w.part * 256 + e.k.core), e.b.pc, BitVec.ofNat 64 ctx]
            ∃ u resume, Does i s u ∧ resume.length = 64 ∧
              u.stores = [.bytes key (leBytes 8 0x8000000000000001), .bytes (key + 64) resume] ∧
              u.sys.warp? e.w.id = some (parked (decide (dest = .ring))) ∧
              (u.sys.context ctx).tickets = (s.sys.context ctx).tickets ++ [{ no := no, vpage := n }] ∧
              (dest = .ring → u.sys.heldFaults = s.sys.heldFaults ++ [{ ctx := ctx, die := die, record := record }]) ∧
              (∀ b x, dest = .bin b → s.sys.bin? ctx die b = some x →
                let waits := x.room = false ∨ s.sys.posts.any (fun q => q.ctx == ctx && q.die == die && q.bin == b) = true
                (¬ waits → u.sys.bin? ctx die b = some ((x.accept record none s.sys.time.now).noted s.sys.time.cycle) ∧ u.sys.posts = s.sys.posts) ∧
                (waits → u.sys.posts = s.sys.posts ++ [{ ctx := ctx, die := die, bin := b, record := record, addr := none, op := none }])))))

/-- R62, R119, R287, R301: the elements of one location of a load or store share one request, and its requests are to different locations; an
atomic, in the scratchpad or in main memory, makes one request for each distinct address; each request
carries its elements' indices in their order, the form's size, and its operation and tick. R16, R286: a scratchpad form, LDS, STS, LDSU, STSU,
LDK, STK, ATS or ATSU, any of whose elements lies outside every window, past the bytes of its window, or at an address that is
no multiple of its size, takes the trap of highest precedence, with the lanes that raise it and the address of the lowest; it issues nothing. -/
def Obligations.ScratchElements : Prop :=
  (
  ∀ (p : Op) (o : Origin) (size n : Nat) (main : Bool) (kind : List Nat → ReqKind) (l : List Located),
    let asked := fun atomic : Bool => requestsFrom p o size main kind n (groupLocated atomic l)
    (((asked false).map (·.key)).Nodup ∧
      ∀ r ∈ asked false, r.lanes = (l.filter (fun x => x.key == some r.key)).map (·.idx)) ∧
    (main = true → ((asked true).map (fun r => (r.key, r.va))).Nodup ∧
      ∀ r ∈ asked true, r.lanes = (l.filter (fun x => x.key == some r.key && x.ea == r.va)).map (·.idx)) ∧
    ((asked true).map (fun r => (r.key, r.lanes)) =
      (((l.filter (fun x => x.key.isSome)).map (fun x => (x.key.getD 0, x.ea))).eraseDups).map (fun a =>
        (a.1, (l.filter (fun x => x.key == some a.1 && x.ea == a.2)).map (·.idx)))) ∧
    ∀ atomic, (∀ r ∈ asked atomic, r.op = p.id ∧ r.origin = o ∧ r.tick = p.tick ∧ r.size = size ∧ r.kind = kind r.lanes ∧
        r.lanes ≠ []) ∧
      (∀ x ∈ l, ∀ k, x.key = some k → ∃ r ∈ asked atomic, r.key = k ∧ x.idx ∈ r.lanes)
  ) ∧ (
  ∀ (s : State) (e : Env) (o : MemV) (u : MemU) (m : MemK) (a : AtV) (b : AtU),
    let ws := s.sys.windows e.k (some e.w)
    let order := [Cause.window, .scratchBounds, .spillBounds, .align]
    let forms : List (Instr × WitF × Nat × List Elem) :=
      [ (.lds o, o.w, o.sz.bytes, e.memElems o), (.sts o, o.w, o.sz.bytes, e.memElems o),
        (.ldsu u, u.w, u.sz.bytes, e.uniElem u.base u.off.toInt), (.stsu u, u.w, u.sz.bytes, e.uniElem u.base u.off.toInt),
        (.ldk m, m.w, m.sz.bytes, e.blockElems m), (.stk m, m.w, m.sz.bytes, e.blockElems m),
        (.ats a, a.w, if a.wide then 8 else 4, e.laneElems a.base a.index a.sc a.off.toInt),
        (.atsu b, b.w, if b.wide then 8 else 4, e.uniElem b.base b.off.toInt) ]
    ∀ (i : Instr) (w : WitF) (size : Nat) (es : List Elem) (n : Nat) (c : Cause), (i, w, size, es) ∈ forms → Ready i s e →
      let fails := fun (c : Cause) (x : Elem) => elemFail ws size x = some c
      e.checkWit w = .ok () → order[n]? = some c → (∃ x ∈ es, fails c x) →
      (∀ m, m < n → ∀ c', order[m]? = some c' → ∀ x ∈ es, ¬ fails c' x) →
      ∃ t : TrapInfo, t.cause = c ∧ Traps i s e t ∧
        (∀ j, j < 32 → (t.tlanes.getLsbD j = true ↔ ∃ x ∈ es, (x.lane = j ∨ x.lane = 32) ∧ fails c x)) ∧
        (∃ x ∈ es, fails c x ∧ t.tval = wrap 64 x.ea ∧ ∀ z ∈ es, fails c z → x.lane ≤ z.lane)
  )

/-! ### Witnesses -/

/-- R107, R305, R306, R110: WMERGE joins two well-formed witnesses, WTEST tells whether one is satisfied, WWAIT goes past the word once it is
and waits while it is not, WMARK gives the witness of a write now to its address; a malformed one traps WITNESS.
That TVAL holds S[A]'s where both of WMERGE's are malformed is the model's choice (log 131). -/
def Obligations.WitnessForms : Prop :=
  ∀ (s : State) (e : Env) (d a b : SReg),
    let x := e.w.s a
    let y := e.w.s b
    let clk := s.sys.clk
    let reader := coreReader e.k.core
    let ws := s.sys.windows e.k (some e.w)
    (Ready (.wmerge d a b) s e → witBad clk x = false → witBad clk y = false →
      WritesScalar (.wmerge d a b) s e d (merge x y)) ∧
    (Ready (.wtest d a) s e → witBad clk x = false →
      WritesScalar (.wtest d a) s e d (if s.sys.satisfied reader x = .yes then 1 else 0)) ∧
    (Ready (.wwait a) s e → witBad clk x = false →
      (s.sys.satisfied reader x = .yes → exec (.wwait a) s = .next (e.next s.sys e.w)) ∧
      (s.sys.satisfied reader x = .wait → Waits (.wwait a) s e (.witness x))) ∧
    (∀ i, i = .wmerge d a b ∨ i = .wtest d a ∨ i = .wwait a → Ready i s e → witBad clk x = true →
      Traps i s e (trapOf .witness x)) ∧
    (Ready (.wmarkL d a) s e → x.toNat < 2 ^ 32 → rangeFail ws x.toNat 1 = none →
      WritesScalar (.wmarkL d a) s e d (e.mark (((rangeRuns ws x.toNat 1).map (·.2.2)).headD 4))) ∧
    (Ready (.wmarkV d a) s e → x.toNat < 2 ^ 56 → ∀ level pte,
      s.sys.known e.asker (some e.k.core) (dieOf e.k.core) e.k.ctx (x.toNat / 65536) = some (.leaf level pte) →
      exec (.wmarkV d a) s = .next (e.next (s.sys.touchCore e.k.core (dieOf e.k.core) e.k.ctx (x.toNat / 65536))
        (e.w.setS d (e.mark (pteScope pte)))))

/-! ### Copies -/

/-- R313 to R315, R318, R506: CPL and CPB, once the checks of R506 pass and their pages are translated, issue one operation that joins the open
batch of its tag and counts on SETB; the lane copies of a CPL name address, local address and valid count, at most 32. R318, R319: CPSEAL closes the open batch of its tag; CPWAIT returns the null witness at once when no closed batch is left, and otherwise
takes every closed batch into one operation that leaves S[D] pending; CPQRY writes the counts of the tag. -/
def Obligations.CopyFormsIssue : Prop :=
  (
  ∀ (s : State) (e : Env) (o : CopyL) (q : CopyB) (y : Sys),
    let die := dieOf e.k.core
    let go := fun (i : Instr) (tag : BitVec 3) (n : Nat) (ts : List Touch) (p : Op) =>
      e.flagFull p = false → 0 < n → s.sys.copies e.w tag + n ≤ 255 →
      (if ts = [] then y = s.sys else e.translate ts = .ok y) →
      let set := if ts = [] then [] else y.keep e.asker (some e.k.core) die e.k.ctx ts
      Sends i s e y (e.w.joinBatch tag).1 { p with set := set, batch := some (e.w.joinBatch tag).2, stage := .running } []
    (Ready (.cpl o) s e → witBad s.sys.clk (e.optS o.w) = false →
      let l := (e.laneElems o.base o.index o.sc o.off.toInt).map (fun x =>
        ({ lane := x.lane, m := x.ea, l := (e.w.vl o.d.toNat x.lane).toNat,
           v := min ((e.w.vl (o.d.toNat + 1) x.lane).toNat % 64) 32 } : LaneCopy))
      laneCopyTrap (s.sys.windows e.k none) l = none →
      go (.cpl o) o.tag l.length
        (l.flatMap (fun x => rangeTouches x.lane (if o.st then .write else .read) x.m.toNat (if o.st then 32 else x.v)))
        { e.op true with
          wit := e.optS o.w
          args := l.flatMap (fun x => [BitVec.ofNat 64 x.lane, wrap 64 x.m, BitVec.ofNat 64 x.l, BitVec.ofNat 64 x.v]) }) ∧
    (Ready (.cpb q) s e → witBad s.sys.clk (e.optS q.w) = false →
      let src := ((e.optS q.base).toNat : Int) + q.off.toInt
      let dst := e.w.s q.d
      let shape := e.w.sn (q.d.toNat + 1)
      let sides := copySides src dst shape .write
      blockCopyTrap (s.sys.windows e.k none) src dst shape sides = none →
      go (.cpb q) q.tag 1 (blockTouches shape sides)
        { e.op true with wit := e.optS q.w, args := [wrap 64 src, dst, shape] })
  ) ∧ (
  ∀ (s : State) (e : Env) (d : SReg) (tag : BitVec 3),
    let closed := fun b : Batch => b.tag == tag && b.closed && !b.taken
    let of_ := e.w.batches.filter (fun b => b.tag == tag)
    let p := { e.op false with
      pendS := [d.toNat], stage := .running
      args := (e.w.batches.filter closed).map (fun b => BitVec.ofNat 64 b.no) }
    (Ready (.cpseal tag) s e → exec (.cpseal tag) s = .next (e.next s.sys { e.w with
      batches := e.w.batches.map (fun b => if b.tag == tag then { b with closed := true } else b) })) ∧
    (Ready (.cpwait d tag) s e → e.flagFull p = false →
      ((∀ b ∈ e.w.batches, closed b = false) → exec (.cpwait d tag) s = .next (e.next s.sys (e.w.setS d 0))) ∧
      ((∃ b ∈ e.w.batches, closed b = true) → Sends (.cpwait d tag) s e s.sys
        { e.w with batches := e.w.batches.map (fun b => if closed b then { b with taken := true } else b) } p [])) ∧
    (Ready (.cpqry d tag) s e → WritesScalar (.cpqry d tag) s e d (BitVec.ofNat 64
      (min (s.sys.copies e.w tag) 255 + (if of_.any (fun b => !b.closed) then 2 ^ 8 else 0) +
        min (of_.filter (fun b => b.closed)).length 255 * 2 ^ 16 +
        (if of_.any (fun b => b.err.isSome) then 2 ^ 31 else 0))))
  )

/-! ### Memory traffic -/

/-- R88, R89, R118, R155: a request that stands at its home, and can be served there, is served in one step: a read gives its operation the
bytes of memory, a write stores its bytes, an atomic does both, lane by lane in ascending order; it is outstanding no longer. The
requests of one access are served together; where their home accepts them all and one of them must still wait, they wait there. R119, R299, R301: an atomic's lanes act in ascending order, each on what the one before left: lane by lane the old value is returned, and
the last new value is stored. What the manual leaves open here is the model's choice (log 87). -/
def Obligations.HomesServeRequests : Prop :=
  (
  ∀ (s : State) (r : Req),
    s.sys.reqs.find? (fun q => q.id == r.id) = some r → r.single = true → r.isHeld = false →
    let rs := s.sys.access r
    let i : Instr := match r.kind with
      | .read => .readServe r.id
      | .write _ => .writePerform r.id
      | _ => .atomicServe r.id
    ((∀ q ∈ rs, s.sys.ready q = true) → Does i s (serveAccess rs s)) ∧
    ((∀ q ∈ rs, s.sys.accepts q = true) → (∃ q ∈ rs, s.sys.ready q = false) → Does i s (.of (s.sys.came rs))) ∧
    (rs = [r] → s.sys.ready r = true → s.sys.reqFails r = none →
    let y := { s.sys.flitPassed r.key with reqs := s.sys.reqs.filter (fun q => q.id != r.id) }
    let old := BitVec.ofNat 64 (s.mem.value r.key r.size)
    let gives := fun (l : List (Nat × Word)) (p : Op) =>
      { p with results := p.results ++ l.flatMap (fun x => p.instr.place x.1 x.2) }
    (r.kind = .read → Does (.readServe r.id) s (.of (y.modOp r.op (gives (r.lanes.map (fun i => (i, old))))))) ∧
    (∀ data, r.kind = .write data → Does (.writePerform r.id) s
      { sys := y.performed r.origin r.tick r.key r.size r.op, stores := [.bytes r.key data] }) ∧
    (∀ a wide lanes, r.kind = .atomic a wide lanes →
      let res := a.run (if wide then 64 else 32) old lanes
      Does (.atomicServe r.id) s
        { sys := (y.modOp r.op (gives res.1)).performed r.origin r.tick r.key r.size r.op,
          stores := [.bytes r.key (leBytes r.size res.2.toNat)] }))
  ) ∧ (
  ∀ (a : Aop) (n : Nat) (m : Word) (l : List AtomLane) (x : AtomLane),
    n = 32 ∨ n = 64 → m.toNat < 2 ^ n →
    a.run n m [] = ([], m) ∧
    a.run n m (l ++ [x]) =
      ((a.run n m l).1 ++ [(x.lane, (a.run n m l).2)], a.new n (a.run n m l).2 x.val x.cmp) ∧
    (a.new n m x.val x.cmp).toNat < 2 ^ n ∧
    (a = .cas → a.new n m x.val x.cmp = if m.toNat = x.cmp.toNat % 2 ^ n then low n x.val else m) ∧
    (a = .swap → (a.new n m x.val x.cmp).toNat = x.val.toNat % 2 ^ n) ∧
    (a = .add → (a.new n m x.val x.cmp).toNat = (m.toNat + x.val.toNat) % 2 ^ n) ∧
    (a = .and → (a.new n m x.val x.cmp).toNat = m.toNat &&& (x.val.toNat % 2 ^ n)) ∧
    (a = .or → (a.new n m x.val x.cmp).toNat = m.toNat ||| (x.val.toNat % 2 ^ n)) ∧
    (a = .xor → (a.new n m x.val x.cmp).toNat = m.toNat ^^^ (x.val.toNat % 2 ^ n)) ∧
    (a = .umin → (a.new n m x.val x.cmp).toNat = min m.toNat (x.val.toNat % 2 ^ n)) ∧
    (a = .umax → (a.new n m x.val x.cmp).toNat = max m.toNat (x.val.toNat % 2 ^ n)) ∧
    (a = .smin → toI true n (a.new n m x.val x.cmp) = min (toI true n m) (toI true n x.val)) ∧
    (a = .smax → toI true n (a.new n m x.val x.cmp) = max (toI true n m) (toI true n x.val))
  )

/-- R142, R143, R70, R50, R140: a packet whose sectors its home holds is served as one unit; else its home asks for the sectors it lacks; a base
die reads up to 32 of those that one packet needs and returns them, a returned sector is filled clean, and an evicted line leaves the cache; a packet that
would write a frozen frame is bounced instead, and reissued with its tick once the frame is free. R464, R163, R51: a device write to a sector that the host holds makes its home snoop the host; modified data in answer is stored first, and the
writes that wait for it fail once TOHOST is over; a request that has left the package fails with TIMEOUT once its timeout is over; a bounced
one is reissued with its page's others, or waits while its page has no frame that takes it or its migration's invalidation is not complete. What
the manual leaves open here is the model's choice: logs 59, 70 and 100, log 58 for the timeouts, which count 250 ticks to the microsecond from the
tick at which the request left or the snoop was sent, and log 97 for the check of modified data. -/
def Obligations.SectorsSnoopsAndBounces : Prop :=
  (
  ∀ (s : State) (op page die stack sector line : Nat),
    let rs := s.sys.packet op page
    let frozen := ∃ r ∈ rs, r.kind.writes = true ∧ r.arrived = false ∧ s.sys.frozenFrame r.key = true
    let readies := ∀ r ∈ rs, s.sys.ready r = true
    let here := s.sys.wanted.filter (fun q => paDie (keyPA q.sector) == die && s.sys.stackOf q == stack)
    let wants := (here.filter (fun q => some q.packet == here.head?.map (·.packet))).take 32
    let lacks := s.sys.packetLacks rs
    (rs ≠ [] → (∀ r ∈ rs, s.sys.accepts r = true) → ingressOf rs = none →
      (frozen → Does (.packetServe op page) s (.of { s.sys with
        reqs := s.sys.reqs.map (fun r => if rs.any (fun q => q.id == r.id) then { r with bounced := true } else r) })) ∧
      (¬ frozen → ¬ readies → Does (.packetServe op page) s (.of (s.sys.came rs))) ∧
      (¬ frozen → readies → lacks = [] → Does (.packetServe op page) s (serveAccess rs s)) ∧
      (¬ frozen → readies → lacks ≠ [] → ∃ w, Does (.packetServe op page) s (.of { s.sys.came rs with wanted := w }) ∧
        (∀ q ∈ s.sys.wanted, q ∈ w) ∧
        (∀ q ∈ lacks, q.sector ∈ s.sys.returned ∨ ∃ v ∈ w, v.sector = q.sector))) ∧
    (wants ≠ [] → ∃ y, Does (.sectorPacket die stack) s (.of y) ∧
      y.returned = s.sys.returned ++ wants.map (·.sector) ∧
      y.wanted = s.sys.wanted.filter (fun q => !wants.any (fun v => v.sector == q.sector)) ∧
      y.warps = s.sys.warps ∧ y.cached = s.sys.cached ∧ y.poison = s.sys.poison) ∧
    (sector ∈ s.sys.returned → paDie (keyPA sector) = die → Table.get? s.sys.cached sector = none →
      Does (.sectorFill die sector) s (.of { s.sys with
        returned := s.sys.returned.filter (fun t => t != sector)
        cached := Table.set s.sys.cached sector false })) ∧
    (paDie (keyPA line) = die → line < 2 ^ 48 → ∃ y, Does (.sectorWriteBack die line) s (.of y) ∧
      y.cached = s.sys.cached.filter (fun c => c.1 / 256 != line / 256) ∧ y.poison = s.sys.poison)
  ) ∧ (
  ∀ (s : State) (r : Req) (sector : Nat) (data : List Byte) (t : Nat) (q : Snoop),
    s.sys.reqs.find? (fun q => q.id == r.id) = some r →
    let hit := (sectorsOf r.key r.size).filter (fun x => s.sys.hostHeld.contains x && !s.sys.snooping.any (fun q => q.sector == x))
    let y := { s.sys with
      snooping := s.sys.snooping.filter (fun x => x.sector != sector)
      hostHeld := s.sys.hostHeld.filter (fun x => x != sector)
      holder := Table.erase s.sys.holder sector }
    let fn := Table.getD s.sys.holder sector 0
    let leaving := s.sys.leaving r
    (r.kind.writes = true → hit ≠ [] → Does (.backInvalidation r.id) s (.of { s.sys with
      snooping := s.sys.snooping ++ hit.map (fun x => { sector := x, tick := s.sys.time.now, own := false }) })) ∧
    (s.sys.snooping.find? (fun x => x.sector == sector) = some q →
      Does (.snoopResponse sector .clean) s (.of y) ∧
      (q.tick + 250 * bits s.sys.ctl.ctocfg 31 16 ≤ s.sys.time.now → ∃ z, Does (.snoopResponse sector .timeout) s (.of z) ∧
        z.snooping = y.snooping ∧ z.hostHeld = s.sys.hostHeld ∧
        (∀ x ∈ z.reqs, x ∈ s.sys.reqs ∧ ¬ (x.kind.writes = true ∧ sector ∈ sectorsOf x.key x.size))) ∧
      (data.length = 64 → (s.sys.readWaits sector 64 0 = true → Does (.snoopResponse sector (.modified data)) s (.of s.sys)) ∧
        (s.sys.readWaits sector 64 0 = false → s.sys.ctl.hostFrozen.contains fn = true →
          Does (.snoopResponse sector (.modified data)) s (.of y)) ∧
        (s.sys.readWaits sector 64 0 = false → s.sys.ctl.hostFrozen.contains fn = false →
          s.sys.permits .hostFn (s.sys.hostMask fn) sector 64 true = true → s.sys.accessFails sector 64 false = none →
          Does (.snoopResponse sector (.modified data)) s
            { sys := (y.fillFor sector 64 true 0 0).performed .host s.sys.time.now sector 64 0, stores := [.bytes sector data] }))) ∧
    (s.sys.timeout (keyKind r.key) = some t → r.left + t ≤ s.sys.time.now → (r.isHeld = false ∨ r.arrived = false) →
      ((∀ a why, r.kind ≠ .asked a why) → ∃ z, Does (.completionTimeout r.id) s (.of z) ∧
        z.reqs = s.sys.reqs.filter (fun x => !leaving.any (fun v => v.id == x.id))) ∧
      (∀ a why, r.kind = .asked a why → (∀ w o, a = .sub w o → ((s.sys.warp? w).bind (fun x => x.sub? o)).isSome = true) →
        Does (.completionTimeout r.id) s (.of { s.sys with
          reqs := s.sys.reqs.map (fun x => if x.id == r.id then { x with kind := .asked a (some .timeout), arrived := true } else x) })) ∧
      (leaving = [r] → r.isHeld = false →
        Does (.completionTimeout r.id) s (.of ({ s.sys with reqs := s.sys.reqs.filter (fun x => x.id != r.id) }.modOp r.op
          (fun p => p.failed (if r.kind.reads then .memError else .impreciseStore) (idxMask r.lanes) r.va .timeout))))) ∧
    (∀ level pte, r.bounced = true → walkQuiet s r.ctx r.va = true → walk s r.ctx r.va = .leaf level pte →
      let key := fun va : Nat => s.sys.placed (pteTag pte) (s.sys.homeKey (pteKind pte) (leafPA level pte va))
      let mine := fun x : Req => x.origin == r.origin && x.ctx == r.ctx && x.va / 65536 == r.va / 65536 && !x.single &&
        !x.isHeld && !x.arrived
      let moving := ∃ m ∈ s.sys.migrations, m.ctx = r.ctx ∧ m.vpage = r.va / 65536
      (pteSparse pte ≠ 0 ∨ s.sys.frozenFrame (key r.va) = true ∨ moving → Does (.bounceReissue r.id) s (.of s.sys)) ∧
      (pteSparse pte = 0 → s.sys.frozenFrame (key r.va) = false → ¬ moving → pteW pte = true →
        s.sys.opens r.ctx (key r.va) r.size true = true → ∃ z, Does (.bounceReissue r.id) s (.of z) ∧
          z.reqs = s.sys.reqs.map (fun x => if mine x then { x with key := key x.va, bounced := false } else x) ∧
          z.warps = s.sys.warps ∧ z.ops = s.sys.ops ∧ z.migrations = s.sys.migrations)) ∧
    (∀ level pte, r.bounced = true → walkQuiet s r.ctx r.va = true → walk s r.ctx r.va = .absent level pte →
      Does (.bounceReissue r.id) s (.of s.sys))
  )

/-- R123, R126, R316, R214, R215: a copy unit moves once its input witness is satisfied and its source is visible: the source bytes, followed by
zeros and cut to the destination's length, are stored at its destination, and the operation's witness takes in those of the writes; a long-latency operation completes once its last effect has taken place: its results are written, its flag counts one
less, its registers are pending no longer, and an error goes to its flag. What the manual leaves open here is the model's choice (logs 22 and 85). -/
def Obligations.CopiesMoveAndOperationsComplete : Prop :=
  ∀ (s : State) (p : Op) (w : Warp) (unit : Nat) (c : CopyUnit),
    s.sys.op? p.id = some p → p.warp = some w.id → s.sys.warp? w.id = some w →
    let src := s.sys.opRuns p c.srcLocal c.src c.srcLen
    let dst := s.sys.opRuns p c.dstLocal c.dst c.dstLen
    let pos := p.pos ||| 2 ^ unit
    (p.copyUnit unit = some c → p.stage = .running → p.pos.testBit unit = false →
      s.sys.frozenBy (.copy (clusterOf p.core)) = false → (p.pos = 0 → s.sys.mayBegin p (.copy (clusterOf p.core)) = true) →
      s.sys.satisfied (clusterReader (clusterOf p.core)) p.wit = .yes →
      ∀ z, s.sys.pass p (.copy (clusterOf p.core)) src dst = .ok z → z.readFails p src = none → z.writeFails p dst = none →
      ∃ u, Does (.copyExecute p.id unit) s u ∧
        u.stores = runStores dst ((runBytes s.mem src ++ List.replicate c.dstLen 0).take c.dstLen) ∧
        u.sys.op? p.id = some { p with
          pos := pos, stage := if pos + 1 = 2 ^ p.units then .done else .running, moved := p.moved ++ [(unit, s.sys.time.now)]
          out := merge p.out (z.runsWit (.copy (clusterOf p.core)) p.id dst) } ∧
        u.sys.warps = s.sys.warps ∧ u.sys.blocks = s.sys.blocks) ∧
    (s.sys.complete p = true → (∀ d t, p.instr ≠ .cpwait d t) → p.batch = none → p.err = none →
      Does (.operationComplete p.id) s (.of (((s.sys.dropOp p.id).mark p.ctx).setWarp
        ((w.deliver p).countDown p.flag)))) ∧
    (∀ t x, s.sys.complete p = true → (∀ d t, p.instr ≠ .cpwait d t) → p.batch = none → p.err = some t →
      t.cause ≠ .impreciseStore → p.flag = some x → (w.flag x).err = none → x < 12 →
      ∃ y v, Does (.operationComplete p.id) s (.of y) ∧ y.warp? w.id = some v ∧ y.op? p.id = none ∧
        (v.flag x).err = some (t.from_ p) ∧ (v.flag x).count = (w.flag x).count - 1)

/-! ### Commands of the agents and engines -/

/-- R321, R324, R354, R381, R391, R409, R214, R102: the heap, page, long-number and Accord commands, ACCSTAT and QINFO issue one operation with
their operands and witness read at issue and their result registers pending; a bad witness traps WITNESS, and a full flag makes them wait. R407, R408, R410, R411: QPOST reserves room in the bin that its record names, DPUB and LAUNCH name pages their operation keeps, DSIG a counter
or, under `.tk`, a ticket, which the context's regions must open to it (R54); each issues one operation with its operands and its witness, to which
`.dev` adds one of device scope. What the manual leaves open here is the model's choice: log 44; log 97 for the check of the ticket; and log 109 for
the WITNESS trap at issue of LMUL, LADD, NTTF and NTTI, whose cause R360 lists for BFILL alone. -/
def Obligations.EngineAndTaskFormsIssue : Prop :=
  (
  ∀ (s : State) (e : Env) (d a b c : SReg) (w : OptS) (x y fs : Bool),
    let one := [d.toNat]
    let two := [d.toNat, d.toNat + 1]
    let heap := fun (r : List Nat) => { e.op fs with wit := e.optS w, args := [e.w.s a], pendS := r }
    let plain := fun (r : List Nat) => { e.op fs with args := [e.w.s a], pendS := r }
    let engine := { e.op fs with wit := e.w.s d, args := [e.w.s a, e.w.s b, e.w.s c], pendS := two }
    let forms : List (Instr × Op) :=
      [ (.halloc d a w x y fs, heap two), (.hfree d a w fs, heap one), (.hqry d a fs, plain one),
        (.pcommit d a w fs, heap two), (.pdecommit d a w x fs, heap two), (.pqry d a fs, plain two),
        (.lmul d a b c fs, engine), (.ladd d a b c x fs, engine), (.nttf d a b c fs, engine),
        (.ntti d a b c fs, engine), (.accrun d a b c fs, engine),
        (.accstat d fs, { e.op fs with pendS := two }), (.qinfo d a fs, plain one) ]
    ∀ i p, (i, p) ∈ forms → Ready i s e →
      (witBad s.sys.clk p.wit = true → Traps i s e (trapOf .witness p.wit)) ∧
      (witBad s.sys.clk p.wit = false →
        (e.flagFull p = false → Sends i s e s.sys e.w p []) ∧
        (e.flagFull p = true → Waits i s e (.flagFull (p.flag.getD 0))))
  ) ∧ (
  ∀ (s : State) (e : Env) (d a b : SReg) (od w : OptS) (dev fs : Bool),
    let wit := if dev then merge (e.optS w) (mkWit 2 0 s.sys.time.now) else e.optS w
    let rec_ := fun r : SReg => (List.range 8).map (fun i => e.w.sn (r.toNat + i))
    let go := fun (i : Instr) (y : Sys) (p : Op) => e.flagFull p = false → Sends i s e y e.w p []
    let post := { e.op fs with wit := wit, pendS := (od.map (fun r : SReg => r.toNat)).toList }
    (Ready (.qpost od a w dev fs) s e → witBad s.sys.clk (e.optS w) = false →
      (s.sys.recordBin e.k.ctx (dieOf e.k.core) (rec_ a) = none →
        Traps (.qpost od a w dev fs) s e (trapOf .noBin (e.w.s a))) ∧
      (∀ die n x, s.sys.recordBin e.k.ctx (dieOf e.k.core) (rec_ a) = some (die, n) →
        s.sys.bin? e.k.ctx die n = some x → x.room = true →
        go (.qpost od a w dev fs) (s.sys.setBin e.k.ctx die n (fun z => { z with reserved := z.reserved + 1 }))
          { post with args := rec_ a ++ [BitVec.ofNat 64 die, BitVec.ofNat 64 n] })) ∧
    (∀ y, Ready (.dpub d a b w dev fs) s e → e.taskPage (e.w.s a) 128 128 .write (e.optS w) = .ok y →
      go (.dpub d a b w dev fs) y { e.pageOp y fs (e.w.s a) 128 .write with
        wit := wit, pendS := [d.toNat], args := [e.w.s a, e.w.s d] ++ rec_ b }) ∧
    (∀ y, Ready (.dsig a w dev false fs) s e → e.taskPage (e.w.s a) 128 128 .write (e.optS w) = .ok y →
      go (.dsig a w dev false fs) y { e.pageOp y fs (e.w.s a) 128 .write with wit := wit, args := [e.w.s a] }) ∧
    (Ready (.dsig a w dev true fs) s e → s.sys.isTicket e.k.ctx (e.w.s a) = true →
      witBad s.sys.clk (e.optS w) = false →
      let key := mainKey 0 (e.w.s a).toNat
      (s.sys.opens e.k.ctx key 128 true = true →
        go (.dsig a w dev true fs) s.sys { e.op fs with wit := wit, args := [e.w.s a] }) ∧
      (s.sys.opens e.k.ctx key 128 true = false → Does (.dsig a w dev true fs) s (Upd.andThen s
        (takeTrap s e.w e.o e.b { trapOf .protection (e.w.s a) with reason := .firewall })
        (fun t => freezeContext t (.part e.k.core e.w.part) e.k.ctx (key, true))))) ∧
    (∀ y, Ready (.launch d a b w fs) s e → e.taskPage (e.w.s a) 256 256 .read (e.optS w) = .ok y →
      go (.launch d a b w fs) y { e.pageOp y fs (e.w.s a) 256 .read with
        wit := e.optS w, pendS := [d.toNat], args := [e.w.s a, e.w.s b] })
  )

/-- R325 to R328, R129, R326, R327, R453: an agent, that of the issuing die or for HFREE and HQRY that of the block's owner, serves a warp's command
once its witness is satisfied and its die is not halted: HALLOC makes live a block of the class that holds
the request and returns its address and the merge of the witnesses of its last free; HFREE records its witness and its tick; HQRY reports; a
failing command has its status; and a freed block is free again once both its witnesses are settled. What the manual leaves open here is the model's choice (logs 42, 48 and 49). -/
def Obligations.HeapCommandsServed : Prop :=
  ∀ (s : State) (p : Op) (d : SReg) (a : SReg) (w : OptS) (tr zero fs : Bool) (ctx addr : Nat) (x : HeapBlock),
    let die := s.sys.heapDie p
    let c := s.sys.context p.ctx
    let n := (p.args.getD 0 0).toNat
    let hstat := fun (sub status : Nat) => (codeHstat, BitVec.ofNat 64 (sub * 2 ^ 24 + status))
    let served := p.warp.isSome = true ∧ s.sys.op? p.id = some p ∧ s.sys.mayServe p (.flacon die) = true ∧
      (p.pos = 0 → (s.sys.die die).halted = false) ∧ s.sys.satisfied (dieReader die) p.wit = .yes
    let fails := fun (status : Nat) (t : Option Cause) => Ends (.heapCommandServe p.id) s p status
      (if tr then t.map (fun z => trapOf z (BitVec.ofNat 64 n)) else none)
      [(codeS d.toNat, 0), (codeS (d.toNat + 1), 0), hstat 0 status] (fun _ => True)
    (served → p.instr = .halloc d a w tr zero fs →
      (c.arena = none → fails 3 none) ∧
      (c.arena ≠ none → (n = 0 ∨ 2 ^ 24 < n) → fails 2 (some .heapInvalid)) ∧
      (c.arena ≠ none → n ≠ 0 → n ≤ 2 ^ 24 →
        (c.take die (heapClass n) (s.sys.freeAt 0) = none → fails 1 (some .heapExhausted)) ∧
        (∀ b y, c.take die (heapClass n) (s.sys.freeAt 0) = some b →
          n ≤ b.size ∧ b.cls = heapClass n ∧ (b ∈ c.heap ∧ b.state = .free ∨ b.addr ∈ c.spots b.cls) ∧
          (engineSet s p (p.requester 4 die) (.flacon die) die
              (if zero then engineTouches .engineWrite b.addr b.size else []) = .go y →
            let runs := if zero then y.engineRuns p.id die p.ctx b.addr b.size else []
            ∀ z, y.pass p (.flacon die) [] runs = .ok z → z.writeFails p runs = none →
            Ends (.heapCommandServe p.id) s p 0 none
              [(codeS d.toNat, BitVec.ofNat 64 b.addr), (codeS (d.toNat + 1), merge b.wit b.mark), hstat 0 0]
              (fun u => { b with owner := die, state := .live } ∈ (u.sys.context p.ctx).heap ∧
                (∀ r ∈ runs, ∀ k j, r.key = some k → j < r.len → (commit s u).mem.byte (k + j) = 0)))))) ∧
    (served → p.instr = .hfree d a w fs → c.arena ≠ none →
      (∀ b, c.heap.find? (fun b => b.addr == n && b.state == .live) = some b →
        Ends (.heapCommandServe p.id) s p 0 none [(codeS d.toNat, 0), hstat 1 0] (fun u =>
          { b with state := .freeing, wit := p.wit, mark := mkWit 2 0 p.tick } ∈ (u.sys.context p.ctx).heap)) ∧
      ((∀ b ∈ c.heap, b.addr = n → b.state ≠ .live) →
        Ends (.heapCommandServe p.id) s p 2 (some (trapOf .heapInvalid (BitVec.ofNat 64 n)))
          [(codeS d.toNat, 2), hstat 1 2] (fun _ => True))) ∧
    (served → p.instr = .hqry d a fs →
      Ends (.heapCommandServe p.id) s p 0 none
        [(codeS d.toNat, BitVec.ofNat 64
          (match c.heap.find? (fun b => decide (b.addr ≤ n) && decide (n < b.addr + b.size)) with
            | some b => bits (BitVec.ofNat 64 b.addr) 55 8 * 2 ^ 8 + b.state.code * 2 ^ 6 + b.cls
            | none => 0)), hstat 2 0] (fun _ => True)) ∧
    ((s.sys.context ctx).heap.find? (fun b => b.addr == addr && b.state == .freeing) = some x →
      s.sys.settled (dieReader x.owner) x.wit = .yes → s.sys.settled (dieReader x.owner) x.mark = .yes →
      ∃ u, Does (.heapFreeReturn ctx addr) s u ∧ u.stores = [] ∧ { x with state := .free } ∈ (u.sys.context ctx).heap)

/-- R46, R47, R48, R329: a commit takes the pool's last frame, zeroes it and writes it into the leaf, which no TLB holds afterwards; a decommit
gives the leaf its reserve mode, once the host has given back the sectors they write; each ends with a device-scope witness once what used the old leaf is over, the decommit of a normal page after its
frame is pushed on the pool and the leaf's FRAME is zero. A page that has the wanted form already gives ALREADY, an empty pool POOL_EMPTY, and a
full one POOL_FULL. The host's commit is served in the same way, and its status and witness are returned to it. What the manual leaves open here is the model's choice (logs 38, 50 and 97). -/
def Obligations.PageCommandsServed : Prop :=
  ∀ (s : State) (p : Op) (d a : SReg) (w : OptS) (zero fs : Bool) (va key : Nat) (e : Word) (q : Pool) (ctx hva : Nat),
    let core := (s.sys.op? p.id = some p ∧ s.sys.wordTwo p = none ∧ p.args = [BitVec.ofNat 64 va] ∧ va < 2 ^ 56)
    let starts := core ∧ p.waiting = true ∧ s.sys.pageMay p = true ∧ walkQuiet s p.ctx va = true ∧
      s.sys.satisfied controlReader p.wit = .yes ∧ pageLeaf p va s = .leaf key e
    let i := q.count - 1
    let entry := fun n : Nat => mainKey 0 (q.frames + 8 * n)
    let frame := s.mem.value (entry i) 8 / 65536 % 2 ^ 32 * 65536
    let may := fun (l : List (Nat × Nat × Bool)) => ∃ y, s.sys.ctlFate p.ctx l = .go y
    let leaf := fun (f mode : Nat) =>
      (e &&& ~~~0x0000FFFFFFFF0030#64) ||| BitVec.ofNat 64 (f / 65536 % 2 ^ 32 * 65536 + mode * 16)
    let mode := if zero then 2 else 1
    let status := fun (sub n : Nat) (v : Word) => [(codeS d.toNat, BitVec.ofNat 64 n), (codeS (d.toNat + 1), v),
      (codeHstat, BitVec.ofNat 64 (sub * 2 ^ 24 + n))]
    let ends := fun (i : Instr) (sub n : Nat) (v : Word) (f : Upd → Prop) => Ends i s p n none (status sub n v) f
    let rewrites := fun (i : Instr) (l : List Store) => ∃ u q, Does i s (recallFirst s u) ∧ u.stores = l ∧
      u.sys.op? p.id = some q ∧ q.stage = .running ∧
      (∀ t ∈ u.sys.tlb, t.covers (s.sys.ctxTag p.ctx) (va / 65536 * 65536) = false) ∧
      (∀ f ∈ u.sys.found, f.covers p.ctx (va / 65536) = false)
    (p.instr = .pcommit d a w fs → starts →
      (pteSparse e = 0 → ends (.pageCommit p.id) 3 4 0 (fun u => u.stores = [])) ∧
      (pteSparse e ≠ 0 → s.pool p.ctx = none → ends (.pageCommit p.id) 3 5 0 (fun u => u.stores = [])) ∧
      (pteSparse e ≠ 0 → s.pool p.ctx = some q → may [(q.key, 24, false)] →
        (q.count = 0 → ends (.pageCommit p.id) 3 5 0 (fun u => u.stores = [])) ∧
        (q.count ≠ 0 → may [(entry i, 8, false)] → may [(q.key, 4, true), (mainKey 0 frame, 65536, true), (key, 8, true)] →
          rewrites (.pageCommit p.id)
          [.bytes q.key (leBytes 4 i), .clear (mainKey 0 frame) 65536, .bytes key (leBytes 8 (leaf frame 0).toNat)]))) ∧
    (p.instr = .pdecommit d a w zero fs → starts →
      (pteSparse e = mode → ends (.pageDecommit p.id) 4 4 0 (fun u => u.stores = [])) ∧
      (pteSparse e ≠ mode → pteSparse e ≠ 0 → may [(key, 8, true)] → rewrites (.pageDecommit p.id)
        [.bytes key (leBytes 8 (leaf (pteFrame e) mode).toNat)]) ∧
      (pteSparse e = 0 → s.pool p.ctx = none → ends (.pageDecommit p.id) 4 9 0 (fun u => u.stores = [])) ∧
      (pteSparse e = 0 → s.pool p.ctx = some q → may [(q.key, 24, false)] →
        (q.cap ≤ q.count → ends (.pageDecommit p.id) 4 9 0 (fun u => u.stores = [])) ∧
        (q.count < q.cap → may [(q.key, 4, true), (entry q.count, 8, true), (key, 8, true)] → rewrites (.pageDecommit p.id)
          [.bytes key (leBytes 8 (leaf (pteFrame e) mode).toNat)]))) ∧
    (p.instr = .pcommit d a w fs → core → p.stage = .running → s.sys.pageDrained p.ctx (va / 65536) = true →
      ends (.pageCommit p.id) 3 0 (mkWit 2 0 s.sys.time.now) (fun u => u.stores = [])) ∧
    (p.instr = .pdecommit d a w zero fs → s.sys.op? p.id = some p → p.stage = .running →
      p.args = [BitVec.ofNat 64 va, BitVec.ofNat 64 key, e] → va < 2 ^ 56 → key < 2 ^ 64 →
      s.sys.pageDrained p.ctx (va / 65536) = true → s.pool p.ctx = some q →
      may [(q.key, 24, false), (q.key, 4, true), (entry q.count, 8, true), (key, 8, false), (key, 8, true)] →
      let now := s.mem.word key
      ∃ u r, Does (.pageDecommit p.id) s (recallFirst s u) ∧ u.stores =
        [.bytes (entry q.count) (leBytes 8 (pteFrame e)), .bytes q.key (leBytes 4 (q.count + 1)),
         .bytes key (leBytes 8 ((now &&& ~~~0x0000FFFFFFFF0030#64) ||| BitVec.ofNat 64 (pteSparse now * 16)).toNat)] ∧
        u.sys.op? p.id = some r ∧ r.stage = .done ∧ r.status = 0 ∧ r.err = none ∧
        r.results = status 4 0 (mkWit 2 0 s.sys.time.now) ∧ r.pendS = p.pendS ∧ r.flag = p.flag) ∧
    (p.instr = .pdecommit d a w zero fs → core → p.stage = .running → s.sys.pageDrained p.ctx (va / 65536) = true →
      ends (.pageDecommit p.id) 4 0 (mkWit 2 0 s.sys.time.now) (fun u => u.stores = [])) ∧
    (s.sys.ctl.recovery = false → s.sys.ctl.held = false → ∃ r : Op, r.id = s.sys.nextId ∧ r.instr = .pcommit 0 0 none false ∧
      r.warp = none ∧ r.ctx = ctx ∧ r.args = [BitVec.ofNat 64 hva] ∧ r.stage = .queued ∧
      Does (.hostPageCommit ctx hva) s (.of { s.sys with ops := s.sys.ops ++ [r], nextId := s.sys.nextId + 1 })) ∧
    (∀ n v rest, s.sys.op? p.id = some p → p.warp = none → s.sys.taskRecord p = none → p.instr = .pcommit d a w fs →
      p.stage = .done → p.results = (codeS d.toNat, n) :: (codeS (d.toNat + 1), v) :: rest → s.sys.drained p.id = true →
      s.sys.ctl.held = false → ∃ u, Does (.engineCommandComplete p.id) s u ∧ u.stores = [] ∧ u.sys.op? p.id = none ∧
        u.sys.ctl.pageAnswer = some (p.status, v))

/-- R178, R177: a signal takes one from the count, a publish adds n and sets P, both leave bits 62:32, and the post is due when the count of a
published counter comes to zero; counts out of range underflow, and a second publish writes nothing. R178, R410, R179, R171, R176: a signal or publish acts once at its counter's home: it stores the word that the arithmetic gives, a publish its
record behind it too, posts the record when that is due, and completes; an underflow stores nothing and is an imprecise DEP_UNDERFLOW. The
address of the accepted record, behind the counter, is the model's choice (log 104). -/
def Obligations.CountersActOnWords : Prop :=
  (
  ∀ (w z : Word) (n : Nat) (post : Bool),
    let p := fun x : Word => x.getLsbD 63
    let count := fun x : Word => (x.setWidth 32).toInt
    let same := fun x y : Word => bits x 62 32 = bits y 62 32
    (dsigFate w = .writes z post → -(2 ^ 31) < count w →
      p z = p w ∧ count z = count w - 1 ∧ same z w ∧ (post = true ↔ p w = true ∧ count z = 0)) ∧
    (dsigFate w = .underflow ↔ (p w = true ∧ count w = 0) ∨ (p w = false ∧ count w = -(2 ^ 31))) ∧
    (dpubFate w n = .writes z post →
      p w = false ∧ p z = true ∧ count z = count w + n ∧ 0 ≤ count z ∧ same z w ∧ (post = true ↔ count z = 0)) ∧
    (dpubFate w n = .already ↔ p w = true) ∧
    (dpubFate w n = .underflow ↔ p w = false ∧ (2 ^ 31 ≤ n ∨ count w + n < 0 ∨ 2 ^ 31 ≤ count w + n))
  ) ∧ (
  ∀ (s : State) (p : Op) (w : Warp) (a d b : SReg) (ow : OptS) (dev tk fs : Bool) (key : Nat),
    let free := s.sys.op? p.id = some p ∧ p.err = none ∧ p.lost = [] ∧ s.sys.taskMay p = true ∧ s.sys.postHeld p.id = false ∧
      s.sys.counterKey p = some key ∧ keyKind key = 0 ∧ s.sys.quiet key 128 = true ∧ s.sys.frozenFrame key = false ∧
      s.sys.recalling key 128 = false ∧ s.sys.readWaits key 128 p.id = false ∧ s.sys.accessFails key 128 true = none
    let mine := p.warp = some w.id ∧ s.sys.warp? w.id = some w ∧ s.sys.counterBehind p = false
    let word := s.mem.word key
    let acts := fun (i : Instr) (fate : CounterFate) (record : List Word) =>
      let stores := fun z : Word => [Store.bytes key (leBytes 8 z.toNat)] ++
        (if record = [] then [] else [Store.bytes (key + 64) (wordBytes record)])
      let posted := if record = [] then s.mem.words (key + 64) 8 else record
      let result := fun v : Word => p.pendS.map (fun r => (codeS r, v))
      (fate = .underflow → ∃ u m, Does i s u ∧ u.stores = [] ∧ u.sys.op? p.id = none ∧ m ∈ u.sys.imprecise ∧
        m.info.cause = .depUnderflow ∧ m.info.tval = p.args.headD 0 ∧ m.warp = w.id) ∧
      (fate = .already → Finishes i s p w (result 1) (fun u => u.stores = [])) ∧
      (∀ z, fate = .writes z false → Finishes i s p w (result 0) (fun u => u.stores = stores z)) ∧
      (∀ z die n x, fate = .writes z true → s.sys.ticketAt p.ctx key = none →
        s.sys.recordBin p.ctx (paDie (keyPA key)) posted = some (die, n) →
        s.sys.posts.any (fun q => q.ctx == p.ctx && q.die == die && q.bin == n) = false →
        s.sys.bin? p.ctx die n = some x → x.room = true →
        Finishes i s p w (result 0) (fun u => u.stores = stores z ∧
          u.sys.bin? p.ctx die n = some ((x.accept posted (some (BitVec.ofNat 64 (keyPA (key + 64)))) s.sys.time.now).noted
            s.sys.time.cycle)))
    (free → mine → p.instr = .dsig a ow dev tk fs → acts (.counterDsigPerform p.id) (dsigFate word) []) ∧
    (free → mine → p.instr = .dpub d a b ow dev fs → (p.args.drop 2).length = 8 →
      acts (.counterDpubPerform p.id) (dpubFate word (p.args.getD 1 0).toNat) (p.args.drop 2)) ∧
    (free → p.warp = none → p.instr = .dsig a ow dev tk fs → p.set ≠ [] → (∀ v, p.stage ≠ .parked v) →
      ∀ z, dsigFate word = .writes z false →
        ∃ u, Does (.taskEndSignal p.id) s u ∧ u.stores = [.bytes key (leBytes 8 z.toNat)] ∧ u.sys.op? p.id = none)
  )

/-- R175, R176, R408, R411, R417: a post that reserved room is accepted, in order, with its delivery number in S[D]; a counter's post that waited
is accepted once there is room; and a device launch copies its LPB, its own context in it, to the tail of the queue and advances TAIL, or gives
status 1 for a queue it may not use. What the manual leaves open here is the model's choice (logs 44, 53 and 55). -/
def Obligations.PostsAndLaunchesAccepted : Prop :=
  ∀ (s : State) (p : Op) (w : Warp) (d : OptS) (a b c : SReg) (ow : OptS) (dev fs : Bool) (die n : Nat) (x : Bin)
    (ctx : Nat) (q : WaitingPost),
    let mine := s.sys.op? p.id = some p ∧ p.err = none ∧ s.sys.taskMay p = true ∧ p.warp = some w.id ∧
      s.sys.warp? w.id = some w
    let result := fun v : Word => p.pendS.map (fun r => (codeS r, v))
    (mine → p.instr = .qpost d a ow dev fs → p.args.drop 8 = [BitVec.ofNat 64 die, BitVec.ofNat 64 n] →
      die < 2 ^ 64 → n < 2 ^ 64 → s.sys.bin? p.ctx die n = some x →
      s.sys.taskBehind p (fun q => q.isPost && q.args.drop 8 == p.args.drop 8) = false →
      Finishes (.qpostAccept p.id) s p w (result (BitVec.ofNat 64 (x.accepted % 2 ^ 32 * 2 ^ 32 + n)))
        (fun u => u.stores = [] ∧ u.sys.bin? p.ctx die n =
          some ((({ x with reserved := x.reserved - 1 } : Bin).accept (p.args.take 8) none s.sys.time.now).noted
            s.sys.time.cycle))) ∧
    (s.sys.posts.find? (fun z => z.ctx == ctx && z.die == die && z.bin == n) = some q → s.sys.bin? ctx die n = some x →
      x.room = true → (s.sys.context ctx).frozen = false →
      (∀ p, q.op.bind s.sys.op? = some p → p.err = none) →
      ∃ u, Does (.binPostAccept ctx die n) s u ∧ u.stores = [] ∧ u.sys.posts = s.sys.posts.erase q ∧
        u.sys.bin? ctx die n = some ((x.accept q.record q.addr s.sys.time.now).noted s.sys.time.cycle)) ∧
    (mine → p.instr = .launch a b c ow fs →
      let runs := s.sys.opRuns p false (p.args.headD 0).toNat 256
      let queue := (p.args.getD 1 0).toNat
      let cfg := (s.sys.ctl.queue queue).cfg
      let line := mainKey 0 (bits cfg 47 12 * 4096)
      let size := 2 ^ bits cfg 59 56
      let tail := s.mem.value line 4
      let slot := mainKey 0 (bits cfg 47 12 * 4096 + 256 * (1 + tail % size))
      let bs := runBytes s.mem runs
      let words := (List.range 32).map (fun i => BitVec.ofNat 64 (leValue ((bs.drop (8 * i)).take 8)))
      let own := words.set 9 ((words.getD 9 0 &&& ~~~(0xFFF#64 <<< 32)) ||| BitVec.ofNat 64 (p.ctx % 4096 * 2 ^ 32))
      s.sys.runsQuiet runs = true → s.sys.runsFail runs = none →
      ((4096 ≤ queue ∨ size = 1 ∨ bits cfg 11 0 ≠ p.ctx) →
        Finishes (.launchEnqueue p.id) s p w (result 1) (fun u => u.stores = [])) ∧
      (queue < 4096 → size ≠ 1 → bits cfg 11 0 = p.ctx → (∃ y, s.sys.ctlFate p.ctx [(line, 16, false)] = .go y) →
        (tail + 2 ^ 32 - s.mem.value (line + 8) 4) % 2 ^ 32 < size →
        (∃ y, s.sys.ctlFate p.ctx [(slot, 256, true), (line, 4, true)] = .go y) →
        ∃ u, Does (.launchEnqueue p.id) s (recallFirst s u) ∧
          u.stores = [.bytes slot (wordBytes own), .bytes line (leBytes 4 ((tail + 1) % 2 ^ 32))] ∧ u.sys.op? p.id = none ∧
          u.sys.warp? w.id = some ((w.deliver { p with results := result 0 }).countDown p.flag)))

/-- R126, R322, R330, R355, R386, R391, R409, R172, R39: a command of a warp that has ended, its writes visible, completes with its status and
witness; ACCSTAT, QINFO and PQRY answer when they are served; a task's command that succeeds is followed by the signal of its SUCC; and a command
that its ticket resumed starts again. What the manual leaves open here is the model's choice (logs 20, 47 and 54). -/
def Obligations.EngineCommandsComplete : Prop :=
  ∀ (s : State) (p : Op) (w : Warp) (d a : SReg) (fs : Bool) (l : Nat) (e : Word) (r : List Word) (k : Block),
    let mine := s.sys.op? p.id = some p ∧ p.err = none ∧ p.warp = some w.id ∧ s.sys.warp? w.id = some w
    let i : Instr := .engineCommandComplete p.id
    let free := (s.sys.context p.ctx).frozen = false ∧ s.sys.ctl.held = false
    let spent := p.stage = .done ∧ s.sys.drained p.id = true ∧ s.sys.frozenBy p.engineOrigin = false ∧ s.sys.ctl.held = false
    let va := (p.args.getD 0 0).toNat
    (mine → spent → (heapForm p.instr).isSome = true → Finishes i s p w p.results (fun u => u.stores = [])) ∧
    (mine → spent → (∃ a b c sub fs, p.instr ∈ [.lmul d a b c fs, .ladd d a b c sub fs, .nttf d a b c fs, .ntti d a b c fs,
        .accrun d a b c fs]) →
      Finishes i s p w ([(codeS d.toNat, BitVec.ofNat 64 p.status), (codeS (d.toNat + 1), p.out)] ++ p.results)
        (fun u => u.stores = [])) ∧
    (mine → p.instr = .accstat d fs → s.sys.mayServe p (.accord p.core) = true →
      Finishes i s p w [(codeS d.toNat, w.accord ||| BitVec.ofNat 64 (min 255
          (s.sys.ops.filter (fun q => q.isAccrun && q.core == p.core)).length * 2 ^ 24)),
        (codeS (d.toNat + 1), w.accordTag)] (fun u => u.stores = [])) ∧
    (mine → p.instr = .qinfo d a fs → free →
      Finishes i s p w [(codeS d.toNat, s.sys.qinfo p.ctx (dieOf p.core) (p.args.headD 0))] (fun u => u.stores = [])) ∧
    (mine → p.instr = .pqry d a fs → p.waiting = true → free → walkQuiet s p.ctx va = true →
      let gives := fun v : Nat => Ends i s p 0 none [(codeS d.toNat, e), (codeS (d.toNat + 1), BitVec.ofNat 64 v),
        (codeHstat, BitVec.ofNat 64 (5 * 2 ^ 24))] (fun u => u.stores = [])
      (walk s p.ctx va = .absent l e → gives (l % 4 + 256)) ∧
      (walk s p.ctx va = .malformed l e ∨ walk s p.ctx va = .leaf l e → gives (l % 4))) ∧
    (s.sys.op? p.id = some p → p.warp = none → s.sys.taskRecord p = some r → s.sys.wordTwo p = none → spent →
      p.taskOk = true → s.sys.block? p.block = some k →
      (∀ d fs, p.instr ≠ .accstat d fs) → (∀ d a fs, p.instr ≠ .qinfo d a fs) →
      ∃ u, Does i s u ∧ u.stores = [] ∧
        (r.getD 1 0 = 0 → u.sys.ops = s.sys.ops.filter (fun q => q.id != p.id)) ∧
        (r.getD 1 0 ≠ 0 → ∃ q, u.sys.ops = s.sys.ops.filter (fun q => q.id != p.id) ++ [q] ∧ q.warp = none ∧
          q.instr = .dsig 0 none true false false ∧ q.args = [r.getD 1 0, k.tskid] ∧
          q.wit = merge (mkWit 2 0 s.sys.time.now) p.out)) ∧
    (s.sys.op? p.id = some p → p.stage = .resumed → Does (.engineCommandReplay p.id) s (.of (s.sys.modOp p.id
      (fun q => if q.stage = .resumed then { q with stage := .queued, pos := 0 } else q))))

/-- R354 to R358, R507, R235, R240: the long-number engine takes its next command in arrival order once its witness is satisfied. The product, sum or
difference of two arrays is stored as a canonical array where it fits, and LENGTH is its status where it does not; a transform stores, at each
place, the sum of its inputs times the powers of the root; a value that is no residue gives RANGE. What the manual leaves open here is the model's choice (logs 17 and 20). -/
def Obligations.LongCommandsRun : Prop :=
  ∀ (s : State) (p : Op) (y1 z1 y2 z2 : Sys),
    let die := dieOf p.core
    let arg := fun j => (p.args.getD j 0).toNat
    let i : Instr := .longCommandStart p.id
    let starts := s.sys.op? p.id = some p ∧ p.warp.isSome = true ∧ s.sys.mayServe p p.longOrigin = true ∧
      s.sys.longBehind p = false ∧ s.sys.satisfied (clusterReader (clusterOf p.core)) p.wit = .yes
    let runs := fun (y : Sys) (a n : Nat) => y.engineRuns p.id die p.ctx a n
    let done := fun (l : List Store) => Ends i s p 0 none p.results (fun u => u.stores = l)
    let ends := fun st : Nat => Ends i s p st none p.results (fun u => u.stores = [])
    let arith := fun (instr : Bool) (f : Int → Int → Int) (bound : Nat → Nat → Nat) (beyond : Nat → Nat → Nat → Nat → Bool) =>
      let d := arg 0
      let x := arg 1
      let y := arg 2
      let all := runs y1 d 16 ++ runs y1 x 16 ++ runs y1 y 16
      let hd := limbHeader (runBytes s.mem (runs y1 d 16))
      let hx := limbHeader (runBytes s.mem (runs y1 x 16))
      let hy := limbHeader (runBytes s.mem (runs y1 y 16))
      let m := min hd.cap (bound hx.len hy.len)
      let rx := runs y2 (x + 16) (4 * hx.len)
      let ry := runs y2 (y + 16) (4 * hy.len)
      let dst := runs y2 d (16 + 4 * m)
      let y3 := z2.runsRead p.ctx (rx ++ ry)
      let v := f (arrayValue hx (runBytes s.mem rx)) (arrayValue hy (runBytes s.mem ry))
      let n := limbCount v.natAbs
      instr = true → starts → d % 16 = 0 → x % 16 = 0 → y % 16 = 0 → farTrap [(d, 16), (x, 16), (y, 16)] = none →
      longSet s p ([d, x, y].flatMap (fun a => engineTouches .read a 16)) = .go y1 →
      y1.pass p p.longOrigin all [] = .ok z1 → z1.readFails p all = none → hd.bad = false → hx.bad = false → hy.bad = false → hx.len ≤ 2 ^ 21 → hy.len ≤ 2 ^ 21 →
      beyond d (16 + 4 * m) x (16 + 4 * hx.len) = false → beyond d (16 + 4 * m) y (16 + 4 * hy.len) = false →
      farTrap [(d, 16 + 4 * m), (x, 16 + 4 * hx.len), (y, 16 + 4 * hy.len)] = none →
      longSet { s with sys := z1.runsRead p.ctx all } p (engineTouches .engineWrite d (16 + 4 * m) ++
        engineTouches .read (x + 16) (4 * hx.len) ++ engineTouches .read (y + 16) (4 * hy.len)) = .go y2 →
      y2.pass p p.longOrigin (rx ++ ry) dst = .ok z2 → z2.readFails p (rx ++ ry) = none → z2.writeFails p dst = none →
      (hd.cap < n → ends 1) ∧
      (n ≤ hd.cap → done (runStores (runs y3 d 8) (leBytes 4 n ++ leBytes 4 (if v < 0 then 1 else 0)) ++
        runStores (runs y3 (d + 12) 4) (leBytes 4 0) ++ runStores (runs y3 (d + 16) (4 * n)) (leBytes (4 * n) v.natAbs)))
    let isMul := match p.instr with | .lmul _ _ _ _ _ => true | _ => false
    let isAdd := fun sub : Bool => match p.instr with | .ladd _ _ _ _ z _ => z == sub | _ => false
    let aliased := fun d n a k => overlaps d n a k && d != a
    let ntt := fun (is : Bool) (inv : Bool) =>
      let out := arg 0
      let inp := arg 1
      let par := p.args.getD 2 0
      let logn := bits par 4 0
      let prime := [469762049, 998244353, 167772161].getD (bits par 9 8) 1
      let n := 2 ^ logn
      let src := runs y1 inp (4 * n)
      let dst := runs y1 out (4 * n)
      let xs := words32 n (runBytes s.mem src)
      is = true → starts → bits par 63 10 = 0 → bits par 7 5 = 0 → 1 ≤ logn → logn < 24 → bits par 9 8 ≠ 3 →
      out % 64 = 0 → inp % 64 = 0 → farTrap [(out, 4 * n), (inp, 4 * n)] = none →
      (overlaps out (4 * n) inp (4 * n) = true → out = inp) →
      longSet s p (engineTouches .engineWrite out (4 * n) ++ engineTouches .read inp (4 * n)) = .go y1 →
      y1.pass p p.longOrigin src dst = .ok z1 → z1.readFails p src = none → z1.writeFails p dst = none →
      ((∃ v ∈ xs, prime ≤ v) → ends 4) ∧
      ((∀ v ∈ xs, v < prime) →
        done (runStores dst ((if inv then nttInverse prime logn xs else nttForward prime logn xs).flatMap (leBytes 4))))
    arith isMul (fun x y => x * y) (fun a b => a + b) overlaps ∧
    arith (isAdd false) (fun x y => x + y) (fun a b => max a b + 1) aliased ∧
    arith (isAdd true) (fun x y => x - y) (fun a b => max a b + 1) aliased ∧
    ntt (match p.instr with | .nttf _ _ _ _ _ => true | _ => false) false ∧
    ntt (match p.instr with | .ntti _ _ _ _ _ => true | _ => false) true

/-- R358: each place of a forward transform holds the sum, modulo the prime, of the inputs times the powers of ω = 3^((p − 1) / 2^n); the inverse
transform uses the inverse of ω and divides by the length. R384, R383, R385: a body that runs to its end leaves, for every vector, the sum of its symbols: value times input for a terminal, the value of
the rule for a reference; the sum over every prefix fits 128 bits. A body stops, with the status and cause of R386, at a symbol that cannot be
read, a reference that does not go down, a rule that is too deep, a column outside the matrix, a value too large for binary16 inputs, or a sum
that does not fit. A row's sums are stored at its place in the output, a stop or a failed write there ends the command with nothing more stored,
and a grammar whose rows are all done ends with OK and the depth of its deepest rule. What the manual leaves open here is the model's choice (log 20). -/
def Obligations.TransformsAndAccord : Prop :=
  (
  ∀ (c logn k : Nat) (xs : List Nat), c < 3 → 1 ≤ logn → logn < 24 → k < 2 ^ logn → xs.length = 2 ^ logn →
    let p := [469762049, 998244353, 167772161].getD c 1
    let w := 3 ^ ((p - 1) / 2 ^ logn) % p
    (nttForward p logn xs)[k]? = some (((List.range (2 ^ logn)).map (fun j => xs.getD j 0 * w ^ (j * k))).sum % p) ∧
    ∃ wi ni, wi * w % p = 1 ∧ ni * 2 ^ logn % p = 1 ∧ wi < p ∧ ni < p ∧ (nttInverse p logn xs)[k]? =
      some (ni * ((List.range (2 ^ logn)).map (fun j => xs.getD j 0 * wi ^ (j * k))).sum % p)
  ) ∧ (
  ∀ (s : State) (a : AccordEnv) (p : Op) (rule : Bool) (r first n lo hi : Nat) (x y : BodyRun) (rest : List (Nat × Nat)),
    let die := dieOf p.core
    let term := fun (w b : Nat) =>
      if 2 ^ 31 ≤ w then (a.rv.getD (w - 2 ^ 31) []).getD b 0
      else a.val.getD (w / 2 ^ 19) 0 * a.xs.getD (a.g.vecs * (w % 2 ^ 19) + b) 0
    let dst := s.sys.engineRuns p.id die p.ctx (a.g.out + 16 * a.g.vecs * n) (16 * a.g.vecs)
    let deep := a.deps.foldl max 0
    let reads := fun (ws : List Nat) =>
      ∀ j w, ws[j]? = some w → readSymbol s a.op die p.ctx (a.g.symbols + 4 * (first + j)) = .ok w
    let sum := fun (ws : List Nat) (j b : Nat) => x.acc.getD b 0 + ((ws.take j).map (fun w => term w b)).sum
    let fits := fun v : Int => -(2 ^ 127) ≤ v ∧ v < 2 ^ 127
    let stops := fun (q : Nat) (e : BodyStop) (status : Nat) (c : Option Cause) =>
      e.status = status ∧ e.cause = c.map (fun z => trapOf z (BitVec.ofNat 64 r)) ∧ e.sym = q
    (a.body s die p.ctx rule r first n x = .ok y → ∃ ws : List Nat, ws.length = n ∧ reads ws ∧
      (∀ b, b < a.g.vecs → y.acc.getD b 0 = sum ws n b ∧ ∀ j, 1 ≤ j → j ≤ n → fits (sum ws j b)) ∧
      (∀ w ∈ ws, 2 ^ 31 ≤ w → w - 2 ^ 31 < (if rule then r else a.g.rules) ∧
        (rule = true → a.deps.getD (w - 2 ^ 31) 0 + 1 ≤ y.d ∧ y.d ≤ max x.d a.g.limit))) ∧
    (∀ e, a.body s die p.ctx rule r first n x = .error (e, y) → ∃ ws : List Nat, ws.length < n ∧ reads ws ∧
      (∀ j, j ≤ ws.length → ∃ l, (y.earlier ++ [y.acc])[x.earlier.length + j]? = some l ∧
        ∀ b, b < a.g.vecs → l.getD b 0 = sum ws j b) ∧
      ((∃ why, readSymbol s a.op die p.ctx (a.g.symbols + 4 * (first + ws.length)) = .error why ∧ e.status = 8 ∧
          e.cause = some { trapOf .memError (BitVec.ofNat 64 why.2) with reason := why.1 } ∧ e.sym = first + ws.length) ∨
        (∃ w, readSymbol s a.op die p.ctx (a.g.symbols + 4 * (first + ws.length)) = .ok w ∧
          a.symbol rule r (first + ws.length) w y = .error e))) ∧
    (∀ q w,
      let refers := w - 2 ^ 31
      let allowed := if rule then r else a.g.rules
      let d := if rule then max x.d (1 + a.deps.getD refers 0) else x.d
      let big := a.g.half = true ∧ 2 ^ 22 < (a.val.getD (w / 2 ^ 19) 0).natAbs
      let passes := if 2 ^ 31 ≤ w then refers < allowed ∧ (rule = true → d ≤ a.g.limit) else w % 2 ^ 19 < a.g.cols ∧ ¬ big
      (2 ^ 31 ≤ w → allowed ≤ refers → ∃ e, a.symbol rule r q w x = .error e ∧ stops q e 6 (some .accordForward)) ∧
      (2 ^ 31 ≤ w → refers < allowed → rule = true → a.g.limit < d →
        ∃ e, a.symbol rule r q w x = .error e ∧ stops q e 5 (some .accordDepth) ∧ e.depth = some d) ∧
      (w < 2 ^ 31 → a.g.cols ≤ w % 2 ^ 19 → ∃ e, a.symbol rule r q w x = .error e ∧ stops q e 7 (some .accordBounds)) ∧
      (w < 2 ^ 31 → w % 2 ^ 19 < a.g.cols → big → ∃ e, a.symbol rule r q w x = .error e ∧ stops q e 3 none) ∧
      (∀ b, passes → b < a.g.vecs → ¬ fits (x.acc.getD b 0 + term w b) → (∀ j, j < b → fits (x.acc.getD j 0 + term w j)) →
        ∃ e, a.symbol rule r q w x = .error e ∧ stops q e 7 (some .accordBounds) ∧ e.vec = b)) ∧
    (∀ e, a.body s die p.ctx false n lo (hi - lo) a.start = .error (e, y) → s.sys.op? p.id = some p →
      let u := accordRows p a n ((lo, hi) :: rest) s
      u.stores = [] ∧ ∃ q, u.sys.op? p.id = some q ∧ q.stage = .done ∧ q.status = e.status ∧ q.err = e.cause ∧
        q.results = accReport 2 e.status n e.sym deep e.vec) ∧
    (∀ why, a.body s die p.ctx false n lo (hi - lo) a.start = .ok y → s.sys.writeFails p dst = some why → s.sys.op? p.id = some p →
      let u := accordRows p a n ((lo, hi) :: rest) s
      u.stores = [] ∧ ∃ q, u.sys.op? p.id = some q ∧ q.stage = .done ∧ q.status = 8 ∧
        q.err = some { trapOf .memError (BitVec.ofNat 64 why.2) with reason := why.1 }) ∧
    (s.sys.op? p.id = some p → (accordRows p a n [] s).stores = [] ∧
      ∃ q, (accordRows p a n [] s).sys.op? p.id = some q ∧ q.stage = .done ∧ q.status = 0 ∧ q.err = none ∧
        q.results = accReport 3 0 0 0 deep 0) ∧
    (a.body s die p.ctx false n lo (hi - lo) a.start = .ok y → s.sys.writeFails p dst = none → s.sys.op? p.id = some p →
      ∃ t, (accordRows p a n ((lo, hi) :: rest) s).stores =
          runStores dst (y.acc.flatMap (fun v => leBytes 16 (BitVec.ofInt 128 v).toNat)) ++
            (accordRows p a (n + 1) rest t).stores ∧
        (accordRows p a n ((lo, hi) :: rest) s).sys = (accordRows p a (n + 1) rest t).sys)
  )

/-- R374 to R384, R389: an Accord command starts when its place in the queue allows, waits for its witness, and, when every check of setup
passes, evaluates the grammar that its descriptor, offset arrays, value table and inputs give; a bad descriptor or a falling offset array ends it
with PARAM in setup, a bad input range or output address with WINDOW, a rule file outside the allocation with ACCORD_BOUNDS, an input that is no number with FORMAT.
R384, R385: the rules are evaluated in their order, each seeing the values of those below it, into the rule-value file, and then the rows; where a
rule stops, the rules below hold their values, each accumulator of the stopping rule its contents from before or the sum over a prefix of the body,
and every other accumulator its contents. Which of them it is is left open (log 6); what else the manual leaves open here is the model's choice
(log 20). -/
def Obligations.AccordCommandsStart : Prop :=
  (
  ∀ (s : State) (p : Op) (k : Block) (d a b c : SReg) (fs : Bool) (y1 z1 y2 y3 z3 y4 z4 : Sys)
    (xs : List Int),
    let die := dieOf p.core
    let i : Instr := .accrunSetupStart p.id
    let da := (p.args.getD 0 0).toNat
    let sb := p.args.getD 1 0
    let p1 := { p with pos := 1 }
    let s1 : State := { s with sys := s.sys.modOp p.id (fun q => { q with pos := 1 }) }
    let run := fun (y : Sys) (r : Nat × Nat) => y.engineRuns p.id die p.ctx r.1 r.2
    let rs := run y1 (da, 64)
    let desc := runBytes s.mem rs
    let field := fun o n => leValue ((desc.drop o).take n)
    let bad := field 10 2 ≠ 0 ∨ field 48 8 ≠ 0 ∨ field 56 8 ≠ 0 ∨ field 8 1 = 0 ∨ 15 < field 8 1 ∨ 1 < field 9 1 ∨ 2 ^ 19 < field 12 4 ∨
      (∃ o ∈ [16, 24, 32, 40], field o 8 % 4 ≠ 0) ∨ bits sb 63 54 ≠ 0
    let g := grammarOf desc sb (p.args.getD 2 0)
    let ts := engineTouches .read da 64
    let arrays := [(g.ruleOff, 4 * (g.rules + 1)), (g.rowOff, 4 * (g.rows + 1))]
    let ts2 := ts ++ arrays.flatMap (fun r => engineTouches .read r.1 r.2)
    let offRuns := arrays.flatMap (run y3)
    let offs := fun (r : Nat × Nat) => words32 (r.2 / 4) (runBytes s.mem (run z3 r))
    let ro := offs (g.ruleOff, 4 * (g.rules + 1))
    let no := offs (g.rowOff, 4 * (g.rows + 1))
    let ws := z3.windows k none
    let bodies := (bodiesOf ro ++ bodiesOf no).filter (fun x => x.1 < x.2)
    let syms := bodies.map (fun x => (g.symbols + 4 * x.1, 4 * (x.2 - x.1)))
    let out := (g.out, 16 * g.vecs * g.rows)
    let all := ts2 ++ engineTouches .read g.table 16384 ++ syms.flatMap (fun r => engineTouches .read r.1 r.2) ++
      engineTouches .engineWrite out.1 out.2
    let tab := run y4 (g.table, 16384)
    let inr := localRuns ws g.inp (g.esize * g.vecs * g.cols)
    let symRuns := syms.flatMap (run y4)
    s.sys.op? p.id = some p → p.instr = .accrun d a b c fs → s.sys.block? p.block = some k →
    s.sys.mayServe p (.accord p.core) = true → (p.pos = 0 → s.sys.accordMayStart p k = true) →
    (s.sys.satisfied (coreReader p.core) p.wit = .wait → Does i s (.of s1.sys)) ∧
    (s.sys.satisfied (coreReader p.core) p.wit = .yes →
      (da % 64 ≠ 0 → Ends i s p 1 none (accReport 0 1 0 0 0 0) (fun u => u.stores = [])) ∧
      (da % 64 = 0 → farTrap [(da, 64)] = none → accordSet s1 p1 ts = .go y1 →
        y1.pass p1 (.accord p.core) rs [] = .ok z1 → z1.readFails p1 rs = none →
        (bad → Ends i s p 1 none (accReport 0 1 0 0 0 0) (fun u => u.stores = [])) ∧
        (¬ bad →
          y2 = (z1.runsRead p.ctx rs).modOp p.id (fun q => { q with
            args := q.args.take 3 ++ [BitVec.ofNat 64 g.base, BitVec.ofNat 64 (g.rules * g.vecs)] }) →
          farTrap arrays = none → y2.tooManyPages p1 ts2 = false → accordSet { s with sys := y2 } p1 ts2 = .go y3 →
          y3.pass p1 (.accord p.core) offRuns [] = .ok z3 → z3.readFails p1 offRuns = none →
          let rise := rising ro = true ∧ rising no = true
          let reach_ := g.windowBad ws = false ∧ g.out % 16 = 0
          let room := g.rules ≠ 0 → g.base + g.rules * g.vecs ≤ 1024 * k.zCount
          (¬ rise → Ends i s p 1 none (accReport 0 1 0 0 0 0) (fun u => u.stores = [])) ∧
          (rise → ¬ reach_ → Ends i s p 2 none (accReport 0 2 0 0 0 0) (fun u => u.stores = [])) ∧
          (rise → reach_ → ¬ room → Ends i s p 7 (some (trapOf .accordBounds 0)) (accReport 0 7 0 0 0 0) (fun u => u.stores = [])) ∧
          (rise → reach_ → room → farTrap ((g.table, 16384) :: syms ++ [out]) = none → z3.tooManyPages p1 all = false →
          accordSet { s with sys := z3.runsRead p.ctx offRuns } p1 all = .go y4 →
          y4.pass p1 (.accord p.core) (tab ++ inr ++ symRuns) (run y4 out) = .ok z4 → z4.readFails p1 (tab ++ inr) = none →
          (inputs g (runBytes s.mem inr) = none → Ends i s p 3 none (accReport 0 3 0 0 0 0) (fun u => u.stores = [])) ∧
          (inputs g (runBytes s.mem inr) = some xs → Does i s (accordEvaluate p1 k
            { op := p1, g, val := (words32 4096 (runBytes s.mem tab)).map (fun v => toI true 32 (BitVec.ofNat 64 v)), xs, rv := [],
              deps := [] }
            (bodiesOf ro) (bodiesOf no) { s with sys := z4.runsRead p.ctx (tab ++ symRuns) }))))))
  ) ∧ (
  ∀ (s : State) (p : Op) (k : Block) (a : AccordEnv) (rules rows : List (Nat × Nat)) (runs : List BodyRun),
    let u := accordEvaluate p k a rules rows s
    let env := fun r : Nat => { a with rv := (runs.take r).map (·.acc), deps := (runs.take r).map (·.d) }
    let value := fun n : Nat => BitVec.ofInt 128 ((((runs[(n - a.g.base) / a.g.vecs]?).map (·.acc)).getD []).getD ((n - a.g.base) % a.g.vecs) 0)
    let filled := fun n : Nat => a.g.base ≤ n ∧ n < a.g.base + a.g.vecs * runs.length
    a.rv = [] → a.deps = [] → 0 < a.g.vecs → runs.length ≤ rules.length → s.sys.block? k.id = some k →
    (∀ r lo hi y, rules[r]? = some (lo, hi) → runs[r]? = some y →
      (env r).body s (dieOf p.core) p.ctx true r lo (hi - lo) a.start = .ok y) →
      (runs.length = rules.length → ∃ k1, u = accordRows p (env runs.length) 0 rows { s with sys := s.sys.setBlock k1 } ∧
        { k1 with acc := k.acc, badAcc := k.badAcc } = k ∧
        ∀ n, (filled n → k1.accAt n = value n) ∧ (¬ filled n → k1.accAt n = k.accAt n)) ∧
      (∀ e x lo hi, rules[runs.length]? = some (lo, hi) → s.sys.op? p.id = some p →
        (env runs.length).body s (dieOf p.core) p.ctx true runs.length lo (hi - lo) a.start = .error (e, x) →
        u.stores = [] ∧ (∃ q, u.sys.op? p.id = some q ∧ q.stage = .done ∧ q.status = e.status ∧ q.err = e.cause) ∧
        ∃ k1, u.sys.block? k.id = some k1 ∧ { k1 with acc := k.acc, badAcc := k.badAcc } = k ∧
          ∀ n, (filled n → k1.accAt n = value n) ∧
            (¬ filled n → ¬ (a.g.base + a.g.vecs * runs.length ≤ n ∧ n < a.g.base + a.g.vecs * (runs.length + 1)) →
              k1.accAt n = k.accAt n) ∧
            (∀ b, b < a.g.vecs → n = a.g.base + a.g.vecs * runs.length + b →
              k1.accAt n = k.accAt n ∨ ∃ l ∈ x.earlier ++ [x.acc], k1.accAt n = BitVec.ofInt 128 (l.getD b 0)))
  )

/-! ### Bins and tasks -/

/-- R427, R428, R174, R429: the oldest held record of a bin goes to its ring's tail; the ring's oldest records refill the queue, and one whose
read fails is dropped with its record in the fault log; a head whose timer has run out is eligible; a bin table is installed once the old one is empty; and work that has waited 65,536 cycles, and 65,536 more for each raise, is
raised by one class. R172, R173, R427, R181: a bin whose turn it is and whose head can be placed dispatches it: a record of KIND 0 becomes a block with one warp, whose S0 to
S7 are the record's words and which starts at the record's entry; another record becomes an engine command, or, when it is not carried out, a
failure in the fault log; a head whose TDIE has changed is not dispatched. What the manual leaves open here is the model's choice (logs 24, 62 and 92). -/
def Obligations.BinsKeepAndDispatch : Prop :=
  (
  ∀ (s : State) (ctx die bin : Nat) (b : Bin) (r : BinRec) (rest : List BinRec) (key launch flat : Nat) (g : Grid)
    (c : Claim),
    let calm := (s.sys.context ctx).frozen = false ∧ s.sys.ctl.held = false
    let place := fun n : Nat => bits b.cfg[1] 55 6 * 64 + 64 * (n % 2 ^ bits b.cfg[1] 4 0)
    let n := min (32 - b.hwq.length) b.ring.length
    let vas := (List.range n).map (fun j => place (b.head + j))
    let now := s.sys.time.cycle
    let a : Asker := .bin ctx die bin
    let ts := fun l : List Nat => l.map (fun va => ({ lane := 32, va, len := 64, acc := .read } : Touch))
    let fine := fun l : List Nat => setFate true (s.sys.fates a .engine none die ctx (ts l)) = .proceed ∧
      s.sys.unknown a none die ctx (ts l) = [] ∧ (l.length ≤ 1 ∨ ((∀ f ∈ s.sys.found, f.asker ≠ a) ∧
        ∀ va ∈ l, (s.sys.cachedLeaf none die ctx (va / 65536 * 65536)).isSome = true))
    let key_ := fun va : Nat => s.sys.vaKey a none die ctx va
    let refills := b.hwq.length < 16 ∧ b.refillParked = none ∧ calm
    let is := fun (i : Instr) (x : Bin) (l : List Store) =>
      ∃ u, Does i s u ∧ u.stores = l ∧ u.sys.bin? ctx die bin = some (x.noted now)
    (s.sys.bin? ctx die bin = some b →
      (∀ y, b.held = r :: rest → b.heldParked = none → calm →
        cpSet s ctx die bin (place b.tail) 64 .write = .go y (some key) → y.frozenFrame key = false →
        y.accessFails key 64 false = none → ∃ u, Does (.binRingWrite ctx die bin) s (recallFirst s u) ∧
          u.stores = [.bytes key (wordBytes r.words)] ∧ u.sys.bin? ctx die bin = some (({ b with
            held := rest, tail := b.tail + 1
            ring := b.ring ++ [{ no := r.no, tick := r.tick, tdie := r.tdie, addr := r.addr, ticket := r.words.getD 4 0 }]
            } : Bin).noted now)) ∧
      (refills → n ≠ 0 → fine vas →
        (∀ va ∈ vas, ∀ k, key_ va = some k → s.sys.quiet k 64 = true ∧ s.sys.accessFails k 64 true = none) →
        ∃ u x, Does (.binRefill ctx die bin) s u ∧ u.stores = [] ∧ u.sys.bin? ctx die bin = some x ∧
          x.ring = b.ring.drop n ∧ x.head = b.head + n ∧ x.held = b.held ∧ x.hwq.take b.hwq.length = b.hwq ∧
          (x.hwq.drop b.hwq.length).map (fun z => (z.no, z.tick, z.tdie, z.addr)) =
            (b.ring.take n).map (fun z => (z.no, z.tick, z.tdie, z.addr)) ∧
          (x.hwq.drop b.hwq.length).map (·.words) = vas.map (fun va => match key_ va with
            | some k => s.mem.words k 8
            | none => List.replicate 8 0)) ∧
      (∀ z k why, s.sys.NothingHeld → refills → b.ring = [z] → fine [place b.head] → key_ (place b.head) = some k → s.sys.quiet k 64 = true →
        s.sys.accessFails k 64 true = some why → (s.sys.context ctx).log.length < 256 →
        ∃ u x rec_, Does (.binRefill ctx die bin) s u ∧ u.sys.bin? ctx die bin = some x ∧ x.ring = [] ∧
          x.head = b.head + 1 ∧ x.hwq = b.hwq ∧ (u.sys.context ctx).log = (s.sys.context ctx).log ++ [rec_] ∧
          rec_.take 3 = [1, BitVec.ofNat 8 Cause.memError.num, 0]) ∧
      (b.hwq = r :: rest → b.expired = false → r.tick + bits b.cfg[2] 63 32 ≤ s.sys.time.now →
        is (.binTimerExpiry ctx die bin) { b with expired := true } []) ∧
      (∀ since, b.since = some since → since + 65536 * (b.raised + 1) ≤ now →
        min 3 (bits (((b.hwq.map (·.words)).headD []).headD 0) 57 56 + b.raised) < 3 →
        is (.workClassRaise die (.bin ctx bin)) { b with raised := b.raised + 1 } [])) ∧
    (s.sys.grid? launch = some g →
      (g.state = .running → g.installs.contains die = true → s.sys.binsVacant g.ctx die = true → s.sys.ctl.held = false →
        ∃ u, Does (.binTableInstall launch die) s u ∧ u.stores = [] ∧ u.sys.bins? g.ctx die = some (g.bins die) ∧
          (u.sys.grid? launch).map (·.installs) = some (g.installs.filter (fun z => z != die))) ∧
      (c ∈ g.claims → c.die = die → c.flat = flat → c.since + 65536 * (c.raised + 1) ≤ now → min 3 (g.prio + c.raised) < 3 →
        ∃ u h, Does (.workClassRaise die (.claimed launch flat)) s u ∧ u.sys.grid? launch = some h ∧
          { c with raised := c.raised + 1 } ∈ h.claims) ∧
      (∀ since raised, s.sys.gridSource die g = true → Table.get? g.raised die = some (since, raised) →
        since + 65536 * (raised + 1) ≤ now → min 3 (g.prio + raised) < 3 →
        ∃ u h, Does (.workClassRaise die (.grid launch)) s u ∧ u.sys.grid? launch = some h ∧
          Table.get? h.raised die = some (since, raised + 1)))
  ) ∧ (
  ∀ (s : State) (ctx die bin core : Nat) (t : Bins) (b : Bin) (r : BinRec) (rest : List BinRec) (at_ : Storage),
    let kind := bits (r.words.headD 0) 2 0
    let pops := fun (u : Upd) (runs : Nat) => u.sys.bin? ctx die bin = some (({ b with
      hwq := rest, running := b.running + runs, expired := false, since := none, raised := 0 } : Bin).noted
        s.sys.time.cycle)
    let block := fun (u : Upd) (k : Block) => k ∈ u.sys.blocks ∧ k.job = .task t.die bin r.no r.words ∧ k.core = core ∧
      k.ctx = t.ctx ∧ k.started = true ∧ k.scrBase = at_.scr ∧ k.handler = t.handler ∧ k.id = s.sys.nextId
    s.sys.bins? ctx die = some t → s.sys.bin? ctx die bin = some b → b.hwq = r :: rest →
    s.sys.taskPlace die b = some (core, at_) → (∀ k ∈ s.sys.blocks, k.id ≠ s.sys.nextId) →
    (r.unchanged = false → Does (.binDispatch ctx die bin) s (.of s.sys)) ∧
    (s.sys.turn die = some (.bin ctx bin) → r.unchanged = true →
    (kind = 0 → at_.spills ≠ [] → ∃ u k w, Does (.binDispatch ctx die bin) s u ∧ pops u 1 ∧ block u k ∧
      u.sys.warps = s.sys.warps ++ [w] ∧ w.block = k.id ∧ w.budget = 8 * (bits b.cfg[2] 12 8 + 1) ∧
      (∀ j, j < 8 → w.sn j = r.words.getD j 0) ∧ (∀ j, 8 ≤ j → j < 128 → r.words.length = 8 → w.sn j = 0) ∧
      ∃ b0, w.subs = [b0] ∧ b0.pc = BitVec.ofNat 64 (bits (r.words.headD 0) 55 3 * 8) ∧ b0.exec = allLanes) ∧
    (∀ i, kind ≠ 0 → taskInstr r.words = some i → ∃ u k p, Does (.binDispatch ctx die bin) s u ∧ pops u 1 ∧ block u k ∧
      u.sys.warps = s.sys.warps ∧ u.sys.ops = s.sys.ops ++ [p] ∧ p.instr = i ∧ p.warp = none ∧ p.block = k.id ∧
      p.wit = r.words.getD 6 0 ∧ p.args = (r.words.drop 3).take 3) ∧
    (kind ≠ 0 → taskInstr r.words = none → (s.sys.context t.ctx).log.length < 256 →
      ∃ u rec_, Does (.binDispatch ctx die bin) s u ∧ pops u 0 ∧ u.sys.blocks = s.sys.blocks ∧
        u.sys.ops = s.sys.ops ∧ (u.sys.context t.ctx).log = (s.sys.context t.ctx).log ++ [rec_] ∧
        rec_.take 3 = [3, 0xFF, 0xFF]))
  )

/-! ### Launches, blocks and grids -/

/-- R418, R419, R128: the control die rereads a queue's tail, and a tail that runs ahead of its ring disables the queue, which the host is told; the LPB of
the queue served next is validated, and its slot, the queue's HEAD, and, for a valid one, the reset ticket counter are written; a rejected one has its
status in the slot, makes no grid, and the host is told; and an accepted grid runs once its witness is settled. R420 to R422, R166, R168, R169, R174:
the checks of validation in their order, the first that fails giving the status, and the grid of an LPB that passes them. R423 to R425: a die
claims consecutive indices by an atomic add to the ticket counter, as many clusters as it has room for one after another; the claims keep the wait and
the raised class of the turn that made them (log 24); the clusters of a cooperative grid fill die after die, or none is placed. R59, R165, R167, R424, R60:
blocks are placed on the freest ranks of the freest cluster, in free storage where the sums hold; and a cluster's placed blocks start together with
their shared allocations, spill stacks and accumulators zero. What the manual leaves open here is the model's choice (logs 23, 24, 63, 64, 93, 97 and 128). -/
def Obligations.LaunchesAndPlacement : Prop :=
  (
  ∀ (s : State) (q code : Nat) (g : Grid),
    let x := s.sys.ctl.queue q
    let base := bits x.cfg 47 12 * 4096
    let line := mainKey 0 base
    let ctx := bits x.cfg 11 0
    let size := 2 ^ bits x.cfg 59 56
    let tail := BitVec.ofNat 32 (s.mem.value line 4)
    let slot := base + 256 * (1 + x.head.toNat % size)
    let key := mainKey 0 slot
    let launch := s.sys.ctl.launches.toNat
    let judged := validateLpb s launch ctx slot (bits x.cfg 55 54) (s.mem.words key 32)
    let answers := fun (u : Upd) (c : Nat) => u.stores.take 2 =
        [.bytes (mainKey 0 (slot + 248)) (leBytes 8 (launch * 2 ^ 32 + c)), .bytes (line + 8) (leBytes 4 (x.head + 1).toNat)] ∧
      (u.sys.ctl.queue q).head = x.head + 1 ∧ u.sys.ctl.lastQueue.toList.getD (bits x.cfg 55 54) 64 = q ∧ u.sys.ctl.launches = s.sys.ctl.launches + 1
    let calm := fun c : Context => c.frozen = false ∧ c.held = false
    (x.cfg.getLsbD 63 = true → (s.sys.context ctx).frozen = false → s.sys.opens ctx line 4 false = true → s.sys.quiet line 4 = true →
      s.sys.accessFails line 4 true = none →
      ((tail - x.head).toNat ≤ size → ∃ u, Does (.queueTailReread q) s u ∧ u.stores = [] ∧ u.sys.ctl.queue q = { x with tail := tail }) ∧
      (size < (tail - x.head).toNat → ∃ u,
        Does (.queueTailReread q) s (Upd.andThen s u (fun t => raiseEvent t 3 ctx (BitVec.ofNat 64 q) 0)) ∧
        u.stores = [] ∧ u.sys.ctl.queue q = { x with tail := tail, cfg := x.cfg &&& ~~~(1#64 <<< 63) })) ∧
    (s.sys.nextQueue = some q → s.sys.ctl.held = false → s.sys.quiet key 256 = true →
      (∀ a ∈ [(key, 256, false), (key + 248, 8, true), (line + 8, 4, true)],
        s.sys.opens ctx a.1 a.2.1 a.2.2 = true ∧ s.sys.accessFails a.1 a.2.1 (!a.2.2) = none) →
      (judged = .ok g → s.sys.frozenFrame g.ticketKey = false → s.sys.accessFails g.ticketKey 8 false = none →
        ∃ u, Does (.lpbTake q) s (recallFirst s u) ∧ answers u 0 ∧
        u.stores.drop 2 = [.bytes g.ticketKey (leBytes 8 0)] ∧
        u.sys.grids = s.sys.grids ++ [{ g with accept := s.sys.time.now }]) ∧
      (judged = .error (.status code) → ∃ u, Does (.lpbTake q) s (recallFirst s
          (Upd.andThen s u (fun t => raiseEvent t 2 ctx (BitVec.ofNat 64 launch) (BitVec.ofNat 64 code)))) ∧
        answers u code ∧ u.stores.length = 2 ∧ u.sys.grids = s.sys.grids)) ∧
    (s.sys.grid? g.launch = some g → g.state = .accepted → g.judged = false → calm (s.sys.context g.ctx) →
      s.sys.ctl.held = false → s.sys.unseen.any (fun u => u.origin == .host && decide (u.tick ≤ g.accept)) = false →
      s.sys.settled controlReader (mkWit 2 0 g.accept) = .yes →
      (s.sys.settled controlReader g.lpb[8] = .bad →
        Does (.gridBroadcast g.launch) s (.of (s.sys.setGrid { g with judged := true }))) ∧
      (s.sys.settled controlReader g.lpb[8] = .yes → ∃ u h, Does (.gridBroadcast g.launch) s u ∧ u.stores = [] ∧
        u.sys.grid? g.launch = some h ∧ h.state = .running ∧ h.judged = true ∧ h.lpb = g.lpb ∧
        h.installs = (if g.binTable = [] then [] else (List.range 6).filter (fun d => (bits g.lpb[9] 21 16).testBit d))))
  ) ∧ (
  ∀ (s : State) (ctx va n : Nat) (write : Bool), va < 2 ^ 56 → walkQuiet s ctx va = true →
    (∀ l e, walk s ctx va = .leaf l e →
      let key := s.sys.homeKey (pteKind e) (leafPA l e va)
      ((pteSparse e ≠ 0 ∨ (write = true ∧ pteW e = false)) → reach s ctx va n write = .error (.status 8)) ∧
      (pteSparse e = 0 → (write = true → pteW e = true) →
        (s.sys.opens ctx key n write = false → reach s ctx va n write = .error (.firewall key)) ∧
        (s.sys.opens ctx key n write = true → reach s ctx va n write = .ok (e, s.sys.placed (pteTag e) key)))) ∧
    (∀ l e, (walk s ctx va = .absent l e ∨ walk s ctx va = .malformed l e) → reach s ctx va n write = .error (.status 8)) ∧
    (∀ why, walk s ctx va = .failed why → reach s ctx va n write = .error (.status 8))
  ) ∧ (
  ∀ (s : State) (launch ctx slot prio : Nat) (w r c b : List Word), w.length = 32 →
    let f := fun i hi lo => bits (w.getD i 0) hi lo
    let judged := validateLpb s launch ctx slot prio w
    let stops := fun code : Nat => judged = .error (.status code)
    let warps := f 3 5 0
    let size := f 3 7 6 + 1
    let blocks := f 2 31 0 * f 2 47 32 * f 2 63 48
    let dead := fun d : Nat => (s.sys.die d).halted = true ∨ s.sys.frozenBy (.proc d) = true
    let dies := (List.range 6).filter (fun d => (f 9 21 16).testBit d)
    let aligned := (w.getD 4 0).toNat % 32 = 0 ∧ (w.getD 5 0).toNat % 8 = 0 ∧ (w.getD 16 0).toNat % 32 = 0
    let tables := aligned ∧ (w.getD 4 0 ≠ 0 → RoleTableOk r warps) ∧ (w.getD 5 0 ≠ 0 → CohortTableOk c warps) ∧
      (w.getD 16 0 ≠ 0 → BinTableOk b) ∧ ∀ p, RingPage b p → ∃ e key, reach s ctx (p * 65536) 64 true = .ok (e, key) ∧ pteKind e = 0
    let roles := if w.getD 4 0 = 0 then [({ entry := w.getD 0 0, access := w.getD 1 0, budget := 8 * f 3 13 8, warps := warps } : Role)]
      else (List.range (roleCount r)).map (roleAt r)
    let before := fun j : Nat => sumOf ((roles.take j).map (·.warps))
    let budgets := roles.flatMap (fun x => List.replicate x.warps x.budget)
    let need : Need := { scr := 4096 * f 3 24 14, spill := 1024 * f 3 40 34, zt := f 3 33 25, budgets := budgets }
    (f 9 43 32 ≠ ctx → stops 1) ∧
    (f 9 43 32 = ctx → (¬ LpbFields w → stops 2) ∧ (LpbFields w → ((blocks = 0 ∨ blocks % size ≠ 0) → stops 3) ∧
    (blocks ≠ 0 → blocks % size = 0 → ((dies = [] ∨ ∃ d ∈ dies, dead d) → stops 4) ∧ (dies ≠ [] → (∀ d ∈ dies, ¬ dead d) →
    (w.getD 4 0 ≠ 0 → (w.getD 4 0).toNat % 32 = 0 → CannotRead s ctx (w.getD 4 0).toNat 16 → stops 8) ∧
    (LpbNames s ctx (w.getD 4 0) 32 16 r →
    (w.getD 5 0 ≠ 0 → (w.getD 5 0).toNat % 8 = 0 → CannotRead s ctx (w.getD 5 0).toNat 256 → stops 8) ∧
    (LpbNames s ctx (w.getD 5 0) 8 256 c →
    (w.getD 16 0 ≠ 0 → (w.getD 16 0).toNat % 32 = 0 → CannotRead s ctx (w.getD 16 0).toNat 256 → stops 8) ∧
    (LpbNames s ctx (w.getD 16 0) 32 256 b →
    ((∃ p, RingPage b p ∧ reach s ctx (p * 65536) 64 true = .error (.status 8)) →
      (∀ p, RingPage b p → reach s ctx (p * 65536) 64 true = .error (.status 8) ∨ ∃ x, reach s ctx (p * 65536) 64 true = .ok x) → stops 8) ∧
    ((∀ p, RingPage b p → ∃ x, reach s ctx (p * 65536) 64 true = .ok x) → (¬ tables → stops 5) ∧ (tables →
    (¬ FitsEmpty need 1 → stops 6) ∧ (∀ k, 0 < k → FitsEmpty need k → ¬ FitsEmpty need (k + 1) →
    let fewer := f 9 8 8 = 1 ∧ dies.length * 10 * (4 * k / size) * size < blocks
    (fewer → stops 7) ∧ (¬ fewer →
    (reach s ctx (w.getD 6 0).toNat 8 true = .error (.status 8) → stops 8) ∧
    (∀ e key, reach s ctx (w.getD 6 0).toNat 8 true = .ok (e, key) →
      ((pteKind e ≠ 0 ∨ s.sys.accessFails key 8 false ≠ none) → stops 8) ∧
      (pteKind e = 0 → s.sys.accessFails key 8 false = none → ∃ g, judged = .ok g ∧ g.launch = launch ∧ g.ctx = ctx ∧
        g.slotPA = BitVec.ofNat 64 slot ∧ g.lpb.toList = w ∧ g.prio = min (f 9 1 0) prio ∧ g.roles = roles ∧ g.ticketKey = key ∧
        g.state = .accepted ∧ g.judged = false ∧ g.exhausted = false ∧ g.installs = [] ∧ g.claims = [] ∧ g.assigned = [] ∧ g.ended = [] ∧
        g.binTable = b ∧ ∀ i, i < 256 → g.cohorts.toList[i]? = some (match roles[i]? with
          | some x => BitVec.ofNat 64 (2 ^ 63 + (2 ^ x.warps - 1) * 2 ^ before i)
          | none => c.getD i 0))))))))))))))
  ) ∧ (
  ∀ (s : State) (g : Grid) (die cluster key m : Nat) (e : Word) (c : Claim) (y z : Sys) (k : Block),
    let size := g.clusterSize
    let amount := size * m
    let t := s.mem.value key 8
    let fin := min (t + amount) g.blocks
    let dies := (List.range 6).filter (fun d => (bits g.lpb[9] 21 16).testBit d)
    let calm := (s.sys.context g.ctx).frozen = false ∧ s.sys.ctl.held = false
    s.sys.grid? g.launch = some g →
    (s.sys.turn die = some (.grid g.launch) → reach s g.ctx (g.lpb[6]).toNat 8 true = .ok (e, key) →
      s.sys.quiet key 8 = true → s.sys.frozenFrame key = false → s.sys.accessFails key 8 true = none →
      m ≤ 16 / size → PlacesClusters g die m s.sys z → (m = 16 / size ∨ z.placeCluster g die 0 size = none) →
      ∃ u h new, Does (.blockClaim g.launch die) s (recallFirst s u) ∧ u.stores = [.bytes key (leBytes 8 ((t + amount) % 2 ^ 64))] ∧
        u.sys.grid? g.launch = some h ∧ h.assigned = g.assigned ++ (List.range (fin - t)).map (fun j => (t + j, die)) ∧
        (h.exhausted = true ↔ g.exhausted = true ∨ g.blocks ≤ t + amount) ∧ h.claims = g.claims ++ new ∧
        new.flatMap (fun x => (List.range x.count).map (fun j => x.flat + j)) = (List.range (fin - t)).map (fun j => t + j) ∧
        (∀ x ∈ new, x.die = die ∧ x.cycle = s.sys.time.cycle ∧
          (x.since, x.raised) = Table.getD g.raised die (s.sys.time.cycle, 0) ∧ 0 < x.count ∧ x.flat / size = (x.flat + x.count - 1) / size) ∧
        Table.get? h.raised die = some (s.sys.time.cycle, 0)) ∧
    (s.sys.turn die = some (.claimed g.launch c.flat) →
      g.claims.find? (fun x => x.die == die && x.flat == c.flat) = some c →
      s.sys.placeCluster g die c.flat c.count = some y →
      Does (.clusterPlacement g.launch die) s (.of (y.setGrid { g with claims := g.claims.erase c }))) ∧
    (g.state = .running → g.coop = true → g.exhausted = false → g.installs = [] → calm →
      (s.sys.context g.ctx).held = false → (∀ d ∈ dies, s.sys.diePlaces d = true) →
      ((∀ x, ¬ FillsDies g dies (g.blocks / size) s.sys x) → Does (.coopPlacement g.launch) s (.of s.sys)) ∧
      (FillsDies g dies (g.blocks / size) s.sys z → ∃ u h, Does (.coopPlacement g.launch) s u ∧ u.stores = [] ∧ u.sys.blocks = z.blocks ∧
        u.sys.warps = z.warps ∧ u.sys.grid? g.launch = some h ∧ h.exhausted = true)) ∧
    (calm → k ∈ s.sys.blocks → k.launch = g.launch → k.isTask = false → k.flat / size = cluster → k.started = false →
      ∃ u h, Does (.blockStart g.launch cluster) s u ∧ h ∈ u.sys.blocks ∧ h.id = k.id ∧ h.started = true ∧ (∀ n, h.accAt n = 0) ∧
        (∀ a, k.scrBase ≤ a → a < k.scrBase + k.scrSize → (commit s u).mem.byte (scratchKey k.core a) = 0) ∧
        ∀ w ∈ s.sys.warps, w.block = k.id → ∀ a, w.spillBase ≤ a → a < w.spillBase + w.spillSize →
          (commit s u).mem.byte (scratchKey k.core a) = 0)
  ) ∧ (
  ∀ (y z : Sys) (g : Grid) (die flat count : Nat), 0 < count → y.Fresh →
    (y.placeCluster g die flat count = none ↔ ¬ ∃ cores : List Nat, cores.Nodup ∧ cores.length = count ∧
      (∀ a ∈ cores, dieOf a = die ∧ (y.storage a g.need).isSome = true) ∧ ∀ a ∈ cores, ∀ b ∈ cores, clusterOf a = clusterOf b) ∧
    (y.placeCluster g die flat count = some z → ∃ (cores : List Nat) (new : List Block) (more : List Warp),
      cores.length = count ∧ BestCores y die g.need cores ∧ z.blocks = y.blocks ++ new ∧ z.warps = y.warps ++ more ∧
      new.map (fun x => (x.core, x.flat)) = cores.zipIdx.map (fun x => (x.1, flat + x.2)) ∧
      ∀ x ∈ new, x.launch = g.launch ∧ x.ctx = g.ctx ∧ x.rank = x.flat % g.clusterSize ∧ x.started = false ∧ x.nwarps = g.warps ∧
        x.scrSize = g.need.scr ∧ x.zCount = g.need.zt ∧ TotalsFit y x.core g.need ∧
        let mine := more.filter (fun v => v.block == x.id)
        StorageFree y x.core g.need { scr := x.scrBase, spills := mine.map (·.spillBase), z := x.zBase } ∧
        mine.map (·.budget) = g.need.budgets ∧ mine.map (·.index) = List.range g.need.budgets.length ∧
        ∀ v ∈ mine, v.part = v.index % 6 ∧ v.spillSize = g.need.spill ∧ v.sn 0 = g.slotPA ∧
          (∀ j, j < 6 → v.sn (1 + j) = g.lpb.toList.getD (10 + j) 0) ∧ v.sn 7 = BitVec.ofNat 64 x.flat)
  )

/-- R61, R173, R179, R426, R128: a block ends once its warps have exited and its operations completed: its grid counts it and keeps the tick of the latest end, the
bin of an engine task counts one task less (that of a warp task does so at the warp's EXIT), and the
blocks of a launch cluster leave their cores together; a grid all of whose blocks have ended is complete two ticks after the last, not before, and its completion
counter is signalled once. What the manual leaves open here is the model's choice (log 64). -/
def Obligations.BlocksAndGridsEnd : Prop :=
  ∀ (s : State) (k : Block) (g : Grid) (launch flat die bin no : Nat) (r : List Word) (b : Bin),
    let done := s.sys.block? k.id = some k ∧ s.sys.blockOver k = true
    let leaves := fun u : Upd => (∀ z ∈ u.sys.blocks, z.id = k.id → z.ending = true) ∧
      ((∀ z ∈ s.sys.blocks, z.first = k.first → z.id = k.id ∨ z.ending = true) →
        s.sys.saved.any (fun z => z.block.first == k.first) = false → ∀ z ∈ u.sys.blocks, z.first ≠ k.first)
    (done → k.job = .grid launch flat → s.sys.grid? launch = some g → g.state = .running →
      ∃ u h, Does (.blockEnd k.id) s u ∧ u.stores = [] ∧ leaves u ∧ u.sys.grid? launch = some h ∧
        h.ended = g.ended ++ [flat] ∧ (g.ended.length < g.blocks → h.accept = s.sys.time.now) ∧
        (g.blocks ≤ g.ended.length → h.accept = g.accept)) ∧
    (done → k.job = .task die bin no r → s.sys.bin? k.ctx die bin = some b →
      ∃ u, Does (.blockEnd k.id) s u ∧ u.stores = [] ∧ leaves u ∧
        (u.sys.bin? k.ctx die bin).map (·.running) = some (if k.engineWarp.isSome then b.running - 1 else b.running)) ∧
    (s.sys.block? k.id = some k → s.sys.blockOver k = false → Does (.blockEnd k.id) s (.of s.sys)) ∧
    (s.sys.grid? launch = some g → (g.ended.length < g.blocks ∨ s.sys.time.now < g.accept + 2) →
      Does (.gridComplete launch) s (.of s.sys)) ∧
    (s.sys.grid? launch = some g → g.state = .running → g.blocks ≤ g.ended.length → g.accept + 2 ≤ s.sys.time.now →
      ∃ u, Does (.gridComplete launch) s u ∧ u.stores = [] ∧ u.sys.grid? launch = none ∧
        (g.lpb[7] = 0 → u.sys.ops = s.sys.ops) ∧
        (g.lpb[7] ≠ 0 → ∃ p, u.sys.ops = s.sys.ops ++ [p] ∧ p.instr = .dsig 0 none true false false ∧ p.warp = none ∧
          p.wit = mkWit 2 0 s.sys.time.now ∧ p.args = [g.lpb[7], BitVec.ofNat 64 (launch % 2 ^ 32 * 2 ^ 32)]))

/-! ### Translation and the host ring -/

/-- R43: the oldest held fault record of a context goes to the ring's slot of TAIL, and TAIL advances; a ring without room becomes full, and takes records
again once HEAD has moved (a HEAD that stands in memory since before the ring was started counts as 0: log 28); a HEAD that leaves more records than the ring holds stops it. R30, R31, R33, R36, R37, R32: a walk that finds a leaf puts it into the die TLB, and every walk ends its miss and goes to the sets that asked for it; a set whose pages are
known lets its word issue again, or be in the wait again that the miss of its code page had hidden; a resumed sub-warp issues its word anew; and no TLB entry and no finished walk of an invalidated page, range or
context is left, the invalidation completing with a device-scope witness once what was translated before it is over, by every page of an entry that was dropped. What the manual leaves open here is the model's choice (logs 66, 72 and 97). -/
def Obligations.TranslationAndHostRing : Prop :=
  (
  ∀ (s : State) (ctx : Nat) (head : BitVec 32) (f : HeldFault),
    let c := s.sys.context ctx
    let ring := mainKey 2 (c.desc[3]).toNat
    let size := (c.desc[6]).toNat
    let counts := fun r : BitVec 32 => if r = c.ringStale then 0 else r
    let read := counts (BitVec.ofNat 32 (s.mem.value (ring + 8) 4))
    let slot := ring + 64 * (1 + c.ringTail.toNat % max size 1)
    let i : Instr := .hostRingWrite ctx
    let poll : Instr := .hostRingHeadPoll ctx head
    let state := fun (u : Upd) (r : RingState) => (u.sys.context ctx).ringState = r
    (c.desc[3] ≠ 0 → c.ringState = .ok → s.sys.heldFaults.find? (fun z => z.ctx == ctx) = some f →
      (∃ y, s.sys.ctlFate ctx [(ring + 8, 4, false), (ring, 4, true), (slot, 64, true)] = .go y) → c.frozen = false →
      s.sys.ctl.held = false →
      ((c.ringTail - read).toNat < size → ∃ u, Does i s (recallFirst s u) ∧ u.stores.take 2 =
          [.bytes slot (wordBytes f.record),
           .bytes ring (leBytes 4 (c.ringTail + 1).toNat)] ∧
        (u.sys.context ctx).ringTail = c.ringTail + 1 ∧ u.sys.heldFaults = s.sys.heldFaults.erase f) ∧
      ((c.ringTail - read).toNat = size → ∃ u, Does i s u ∧ u.stores = [] ∧ state u .full) ∧
      (size < (c.ringTail - read).toNat → ∃ u, Does i s u ∧ state u .error ∧ u.sys.heldFaults = s.sys.heldFaults)) ∧
    (c.desc[3] ≠ 0 → s.sys.opens ctx (ring + 8) 4 false = true → s.sys.links.cxlDown = false →
      (c.ringState = .ok → ∃ u, Does poll s u ∧ u.stores = [.bytes (ring + 8) (leBytes 4 head.toNat)] ∧ state u .ok) ∧
      (c.ringState = .full → (c.ringTail - counts head).toNat < size → ∃ u, Does poll s u ∧ state u .ok) ∧
      (c.ringState = .full → size < (c.ringTail - counts head).toNat → ∃ u, Does poll s u ∧ state u .error))
  ) ∧ (
  ∀ (s : State) (die ctx vpage va n level w sub : Nat) (pte : Word) (m : Miss) (x : Warp) (b : Sub) (k : Block)
    (pages : List Nat),
    let entry : TlbEntry := { place := .die die, ctx := s.sys.ctxTag ctx, base := vpage * 65536 / 2 ^ levelBits level, level, pte }
    let waits := s.sys.warp? w = some x ∧ x.sub? (some sub) = some b ∧ s.sys.block? x.block = some k
    let goesOn := fun r q : Wait => .of (s.sys.setWarp (x.setSub (some sub) { b with wait := r, under := q }))
    let r := walk s ctx (vpage * 65536)
    let walks := fun u : Upd => Does (.tableWalk die ctx vpage) s u ∧ u.stores = [] ∧
      u.sys.misses = s.sys.misses.filter (fun z => z != m) ∧
      u.sys.found = s.sys.found ++ m.askers.map (fun a => { asker := a, die := m.die, ctx := m.ctx, vpage := m.vpage, walk := r })
    let gone := fun (u : Upd) (v : Inval) (p : Nat → Nat → Prop) => u.stores = [] ∧
      (∀ c j, p c j → (∀ t ∈ u.sys.tlb, t.covers (s.sys.ctxTag c) (j * 65536) = false) ∧
        (∀ f ∈ u.sys.found, f.covers c j = false)) ∧
      (u.sys.invalDone v = false → v ∈ u.sys.invals) ∧
      (u.sys.invalDone v = true → v ∉ u.sys.invals ∧ u.sys.ctl.invalWit = mkWit 2 0 s.sys.time.now)
    let keeps := fun (u : Upd) (p : Nat → Prop) =>
      ∀ t ∈ s.sys.tlb, (∀ j, p j → t.covers (s.sys.ctxTag ctx) (j * 65536) = false) → t ∈ u.sys.tlb
    let inval := fun (c : Option Nat) (first : Nat) (count : Option Nat) =>
      ({ ctx := c, first, count, upto := s.sys.nextId
         also := match c, count with
           | some d, some m => s.sys.droppedPages d first m
           | _, _ => [] } : Inval)
    let first := va / 65536
    let free := s.sys.ctl.recovery = false ∧ s.sys.ctl.held = false
    let whole := fun (v : Inval) (p : Nat → Prop) => ∀ t ∈ s.sys.tlb, ∀ j i, p j →
      t.covers (s.sys.ctxTag ctx) (j * 65536) = true → t.covers (s.sys.ctxTag ctx) (i * 65536) = true → v.hits ctx i = true
    (s.sys.misses.find? (fun z => z.die == die && z.ctx == ctx && z.vpage == vpage) = some m →
      walkQuiet s ctx (vpage * 65536) = true →
      (r = .leaf level pte → ∃ u, walks u ∧ entry ∈ u.sys.tlb) ∧
      ((∀ l e, r ≠ .leaf l e) → ∃ u, walks u ∧ u.sys.tlb = s.sys.tlb)) ∧
    (waits → b.wait = .translating pages → s.sys.setReady (.sub w (some sub)) k pages = true →
      Does (.translationSetComplete w sub) s (goesOn (if b.under = .none then .translating [] else b.under) .none)) ∧
    (waits → b.wait = .resumed → Does (.parkedWarpResume w sub) s (goesOn .none b.under)) ∧
    (free → ∃ u, Does (.invalidatePage ctx va) s u ∧ whole (inval (some ctx) first (some 1)) (fun j => j = first) ∧
      gone u (inval (some ctx) first (some 1)) (fun c j => c = ctx ∧ j = first) ∧ keeps u (fun j => j = first)) ∧
    (free → ∃ u, Does (.invalidateRange ctx va n) s u ∧
      whole (inval (some ctx) first (some n)) (fun j => first ≤ j ∧ j < first + n) ∧
      gone u (inval (some ctx) first (some n)) (fun c j => c = ctx ∧ first ≤ j ∧ j < first + n) ∧
      keeps u (fun j => first ≤ j ∧ j < first + n)) ∧
    (free → ∃ u, Does (.invalidateContext ctx) s u ∧ gone u (inval (some ctx) 0 none) (fun c _ => c = ctx) ∧
      keeps u (fun _ => True)) ∧
    (free → ∃ u, Does .invalidateAll s u ∧ gone u (inval none 0 none) (fun _ _ => True))
  )

/-- R441, R442, R443, R449, R451: at a clause boundary a fatal block-halt ends its warp, and another makes it take BLOCK_HALT; an imprecise cause
enters the handler of its warp there, a cause of an access slice whose warp was in handler mode when it came then sends its block-halt, any other none, pends in handler mode, and becomes a record of KIND 1 when the warp has exited. What the manual leaves open here is the model's choice (logs 9 and 65). -/
def Obligations.CausesAtClauseBoundaries : Prop :=
  ∀ (s : State) (w : Warp) (b : Sub) (k : Block) (h : Halt) (m : Imprecise) (d : Handler),
    let at_ := s.sys.warp? w.id = some w ∧ s.sys.block? w.block = some k ∧ b.atBoundary = true ∧ s.sys.noHandler k = false ∧
      w.sub? (some b.id) = some b
    let found := s.sys.imprecise.find? (fun z => z.no == m.no) = some m
    let i : Instr := .impreciseDelivery m.no
    let left := fun u : Upd => u.sys.imprecise = s.sys.imprecise.filter (fun z => z.no != m.no)
    (at_ → k.started = true → w.halt = some h →
      (h.fatal = true → ∃ u, Does (.blockHalt w.id b.id) s u ∧ u.stores = [] ∧ u.sys.warp? w.id = none) ∧
      (h.fatal = false → w.handler = none → k.handler ≠ 0 → ∃ u v, Does (.blockHalt w.id b.id) s u ∧ u.stores = [] ∧
        u.sys.warp? w.id = some v ∧
        Entered w v b (trapOf .blockHalt (BitVec.ofNat 64 (h.cause.num * 256 + h.who))) b.pc k.handler)) ∧
    (at_ → found → m.warp = w.id → m.sub = b.id →
      (w.handler = none → w.halt = none → k.handler ≠ 0 → ∃ u v, Does i s u ∧ left u ∧
        ((m.halts = false ∨ s.sys.NoneHandlesHalt w) → u.stores = []) ∧
        u.sys.warp? w.id = some v ∧ Entered w v b m.info b.pc k.handler ∧
        ∀ x, s.sys.warp? x.id = some x → x.id ≠ w.id → (m.halts = false → u.sys.warp? x.id = some x) ∧
          (m.halts = true → x.block = w.block → x.handler = none → x.halt = none → x.sliceRaised ≠ some s.sys.time.cycle →
            u.sys.warp? x.id = some { x with halt := some { who := w.index, cause := m.info.cause, fatal := false, cycle := s.sys.time.cycle } })) ∧
      (w.handler = some d → d.has b.id = true → w.cause &&& m.info.cause.bit = 0 → ∃ u, Does i s u ∧ u.stores = [] ∧
        left u ∧ u.sys.warp? w.id = some { w with
          cause := w.cause ||| m.info.cause.bit, handler := some { d with pending := d.pending ++ [m.info] } })) ∧
    (found → s.sys.warp? m.warp = none → s.sys.saved.any (fun z => z.warps.any (fun x => x.warp.id == m.warp)) = false →
      (s.sys.context m.who.ctx).log.length < 256 → ∃ u r, Does i s u ∧ left u ∧
        (u.sys.context m.who.ctx).log = (s.sys.context m.who.ctx).log ++ [r] ∧
        r.take 3 = [1, BitVec.ofNat 8 m.info.cause.num, 0])

/-! ### Issue, time and hangs -/

/-- R430, R431, R432, R472: in every state `issueSelect` completes, and a partition's ports choose among the eligible sub-warps: port A the one it issued from last while that is eligible, of the highest class and
no yielder, and else the oldest of that class, port B the oldest of the highest class among the others whose word it can take; a paired word takes both; one that is
boosted goes first, the longest waiting of them; while issue is throttled at most one word issues every second cycle. In every state
`starvationBoost` completes: a sub-warp that has been eligible for 1,024 cycles without issuing is boosted, and goes first; any other is left as
it is. What the manual leaves open here is the model's choice (log 67). -/
def Obligations.PortsChoose : Prop :=
  ∀ (s : State) (core part : Nat) (last : Option (Nat × Nat)) (l : List Rival) (w : Warp) (b : Sub) (k : Block),
    let c := portChoices last l
    let waitsLongest := fun (x : Rival) (l : List Rival) => (∃ r ∈ l, r.boosted = true) →
      x.boosted = true ∧ ∀ r ∈ l, r.boosted = true → x.ready ≤ r.ready
    let stays := fun (cls : Nat) (r : Rival) => last = some (r.warp, r.sub) ∧ r.cls = cls ∧ r.age < 2 ^ 64
    let forB := fun x r : Rival => r ∈ l ∧ r.portB = true ∧ (r.warp, r.sub) ≠ (x.warp, x.sub)
    let limit := s.sys.issueLimit (dieOf core)
    let choices := portChoices (Table.get? s.sys.portA (6 * core + part)) (s.rivals core part)
    let chosen := choices.take (limit choices.length)
    let all := chosen.map (fun r => (r.warp, some r.sub)) ++ s.sys.accessReady core part
    let picks := all.take (limit all.length)
    let overdue := s.sys.canIssue w k (some b.id) b = true ∧ s.sys.waitOver w k (some b.id) b = true ∧
      b.ready + 1024 ≤ s.sys.time.cycle
    (c.length ≤ 2 ∧ (∀ r ∈ c, r ∈ l) ∧ (l ≠ [] → c ≠ []) ∧
      (∀ x rest, c = x :: rest → portAChoice last l = some x ∧ waitsLongest x l ∧
        ((∀ r ∈ l, r.boosted = false) → (∀ r ∈ l, r.cls ≤ x.cls) ∧
          ((∃ r ∈ l, stays x.cls r) → last = some (x.warp, x.sub)) ∧
          ((∀ r ∈ l, ¬ stays x.cls r) → ∀ r ∈ l, r.cls = x.cls → x.age ≤ r.age)) ∧
        (x.paired = true → rest = []) ∧ (x.paired = false → (∃ r, forB x r) → rest ≠ []) ∧
        (∀ z ∈ rest, forB x z ∧ waitsLongest z (l.filter (fun r => r.portB && (r.warp, r.sub) != (x.warp, x.sub))) ∧
          ((∀ r, forB x r → r.boosted = false) → ∀ r, forB x r → r.cls < z.cls ∨ (r.cls = z.cls ∧ z.age ≤ r.age))))) ∧
    (∃ u : Upd, exec (.issueSelect core part) s = .next (commit s u) ∧ u.stores = [] ∧
      u.sys.selected = s.sys.selected ++ picks ∧
      (∀ a rest, chosen = a :: rest → Table.get? u.sys.portA (6 * core + part) = some (a.warp, a.sub)) ∧
      (((s.sys.die (dieOf core)).throttled || s.sys.ctl.powerThrottle) = true →
        picks.length ≤ 1 ∧ (s.sys.time.cycle % 2 = 1 → picks = [])) ∧
      (((s.sys.die (dieOf core)).throttled || s.sys.ctl.powerThrottle) = false → picks = all)) ∧
    (s.sys.warp? w.id = some w → w.sub? (some b.id) = some b → s.sys.block? w.block = some k →
      (overdue → exec (.starvationBoost w.id b.id) s = .next (commit s
        (.of (s.sys.setWarp (w.setSub (some b.id) { b with boosted := true }))))) ∧
      (¬ overdue → exec (.starvationBoost w.id b.id) s = .next (commit s (.of s.sys))))

/-- R437, R438, R436: a context whose count reaches its threshold starts a new one, its wait-for graph is written where DIAG says, and each of its waiting warps traps
HANG with the kind of its wait; a warp that has
waited too long for something outside traps HANG with EXT set. R4, R88, R97 to R99: at a tick the visibility clock advances by one; performed writes become visible two ticks after their stamp; no frontier ever
falls, none of them reaches the tick itself or that of a write of its domain that is not yet visible. R464: at a tick a snoop that the host has not answered within TOHOST
ends, and no request is lost at a tick at which none ends; that TOHOST microseconds are 250 ticks each, counted from the snoop, is log 58. A home holds a read for
3 ticks (R89). What the manual leaves open here is the model's choice (logs 21, 58, 69 and 101). -/
def Obligations.TimeAndHangs : Prop :=
  (
  ∀ (s : State) (ctx : Nat) (w : Warp) (b : Sub) (k : Block),
    let c := s.sys.context ctx
    let can := s.sys.warp? w.id = some w ∧ s.sys.block? w.block = some k ∧ w.handler = none ∧ w.halt = none ∧ k.handler ≠ 0 ∧
      s.sys.NoneHandlesHalt w
    let area := bits c.hangcfg 35 0 * 4096
    let inside := fun x : Warp => s.sys.hangSub x (· == .internal)
    let place := fun x : Warp => ((s.sys.block? x.block).map (fun z => (z.core * 8 + x.part) * 16 + x.slot)).getD 0
    let entry := fun x : Warp => match s.sys.block? x.block, inside x with
      | some z, some y =>
        let r := s.sys.waitRecord z y
        leBytes 2 z.core ++ leBytes 1 x.part ++ leBytes 1 x.slot ++ leBytes 4 r.1 ++ leBytes 8 r.2.1 ++ leBytes 8 y.pc.toNat ++ leBytes 8 r.2.2
      | _, _ => []
    (c.hangcfg.getLsbD 63 = true → c.frozen = false → 2 ^ bits c.hangcfg 53 48 ≤ c.hang →
      (∃ u, Does (.hangDetect ctx) s (recallFirst s u) ∧ (u.sys.context ctx).hang = 0 ∧
        (area ≠ 0 → s.sys.opens ctx (mainKey 0 area) 4096 true = true → s.sys.accessFails (mainKey 0 area) 4096 false = none →
          ∃ ws : List Warp,
            ws.Perm ((s.sys.warpsOf ctx).filter (fun x => (inside x).isSome)) ∧ ws.Pairwise (fun x y => place x ≤ place y) ∧
            u.stores.head? = some (.bytes (mainKey 0 area) (leBytes 4 (min ws.length 126) ++ leBytes 4 (if 126 < ws.length then 1 else 0) ++
              leBytes 8 s.sys.clk ++ leBytes 4 ctx ++ List.replicate 44 0 ++ ((ws.map entry).take 126).flatten)))) ∧
      (area = 0 → (s.sys.warps.map (·.id)).Nodup →
        (∀ x ∈ s.sys.warpsOf ctx, x.handler = none ∧ x.halt = none ∧ s.sys.NoneHandlesHalt x ∧
          ∀ z, s.sys.block? x.block = some z → z.handler ≠ 0 ∧ ∀ y, inside x = some y → (s.sys.waitRecord z y).1 ≠ 0) →
        ∃ u, Does (.hangDetect ctx) s u ∧ u.stores = [] ∧
          ∀ x ∈ s.sys.warpsOf ctx, ∀ y z, s.sys.block? x.block = some z → inside x = some y → ∃ v, u.sys.warp? x.id = some v ∧
            Entered x v { y with wait := .none } (trapOf .hang (BitVec.ofNat 64 (s.sys.waitRecord z y).1)) y.pc z.handler)) ∧
    (can → w.sub? (some b.id) = some b → s.sys.waitKind w k b = .external → (s.sys.context k.ctx).frozen = false →
      (s.sys.context k.ctx).hangcfg.getLsbD 62 = true → b.ext.1 = b.since →
      2 ^ bits (s.sys.context k.ctx).hangcfg 41 36 ≤ b.ext.2 →
      ∃ (u : Upd) (v : Warp) (t : TrapInfo), Does (.externalTimeout w.id b.id) s u ∧ u.stores = [] ∧ u.sys.warp? w.id = some v ∧ t.cause = .hang ∧
        t.ext = true ∧ Entered w v { b with wait := .none } t b.pc k.handler)
  ) ∧ (
  ∀ (s : State), ∃ u, Does .visibilityTick s u ∧ u.stores = [] ∧
    let t := s.sys.time
    let v := u.sys.time
    let waits := u.sys.unseen.map (fun z => (z.origin, z.tick)) ++
      (u.sys.reqs.filter (fun r => r.kind.writes)).map (fun r => (r.origin, r.tick))
    let last := 250 * bits s.sys.ctl.ctocfg 31 16
    v.now = t.now + 1 ∧ v.cycle = t.cycle ∧ (∀ r ∈ u.sys.reqs, r ∈ s.sys.reqs) ∧
    ((∀ q ∈ s.sys.snooping, v.now < q.tick + last) → u.sys.reqs = s.sys.reqs) ∧
    (∀ q ∈ u.sys.snooping, q ∈ s.sys.snooping ∧ v.now < q.tick + last) ∧
    (∀ q, q ∈ u.sys.reading ↔ q ∈ s.sys.reading ∧ v.now < q.tick + 3) ∧
    u.sys.unseen = s.sys.unseen.filter (fun z => decide (v.now < z.tick + 2)) ∧
    (∀ c d, t.frontier c d ≤ v.frontier c d) ∧
    (∀ c d, c < 3 → v.frontier c d ≤ max (t.frontier c d) (v.now - 1)) ∧
    v.systemF ≤ max t.systemF v.deviceF ∧
    (∀ x ∈ waits, v.deviceF ≤ max t.deviceF (x.2 - 1) ∧
      (∀ c, x.1.cluster = some c → c < 60 → v.frontier 0 c ≤ max (t.frontier 0 c) (x.2 - 1)) ∧
      (∀ d, x.1.dieDomain = some d → d < 6 → v.frontier 1 d ≤ max (t.frontier 1 d) (x.2 - 1)))
  )

/-! ### Big numbers and tiles -/

/-- R338, R341, R343 to R348, R235, R236, R339: the big-number forms compute exactly on the values of their sources and write a canonical result, or, when
its magnitude needs more than 33 limbs, take LENGTH; the forms with a scalar result write it. R349, R350, R240 to R242: BSPILL writes a canonical limb array, its length, its sign and its limbs, as writes of the warp, and returns their witness, where the
array has room; BFILL reads one into a register, negative when its sign says so, and takes FORMAT for a malformed header. That the writes of one BSPILL are one operation of its warp,
which no flag counts, is the model's choice (log 107), as are the lanes of MEM_ERROR (log 110). -/
def Obligations.BigNumberForms : Prop :=
  (
  ∀ (s : State) (e : Env) (d : BitVec 8) (sd b c : SReg) (a : BigA) (ob : BigB) (k : UImm) (flag : Bool),
    let x := e.big a 0
    let y := e.bigB a ob
    let n := (e.uni k).toNat
    let one := e.checkBig [a] false = .ok ()
    let two := e.checkBig ([a] ++ ob.asSource) false = .ok ()
    let long := e.checkBig [a] true = .ok ()
    let m := toI flag 32 (e.w.s b)
    let writes := fun (i : Instr) (r : Int) => Ready i s e →
      (r.natAbs < 2 ^ 1056 → WritesBig i s e d r) ∧
      (2 ^ 1056 ≤ r.natAbs → Traps i s e (trapOf .length (d.zeroExtend 64)))
    let gives := fun (i : Instr) (v : Word) => Ready i s e → WritesScalar i s e sd v
    let order := fun (u v : Int) => if u < v then -1#64 else if u = v then 0 else 1
    let half := (2 : Int) ^ min n 1056
    (two → writes (.badd d a ob) (x + y)) ∧ (two → writes (.bsub d a ob) (x - y)) ∧
    (one → writes (.bneg d a) (-x)) ∧ (long → writes (.bnorm d a) x) ∧
    (two → gives (.bcmp sd a ob flag) (if flag then order x.natAbs y.natAbs else order x y)) ∧
    (one → n < 1056 → writes (.bshl d a k) (x * 2 ^ n)) ∧
    (one → x = 0 → Ready (.bshl d a k) s e → WritesBig (.bshl d a k) s e d 0) ∧
    (one → x ≠ 0 → 1056 ≤ n → Ready (.bshl d a k) s e → Traps (.bshl d a k) s e (trapOf .length (d.zeroExtend 64))) ∧
    (one → writes (.bshr d a k flag) (if flag then x.fdiv half else x.tdiv half)) ∧
    (one → writes (.bmuls d a k flag) (x * toI flag 32 (e.uni k))) ∧
    (one → Ready (.bdivs d a b c flag) s e →
      (m = 0 → Traps (.bdivs d a b c flag) s e (trapOf .divzero 0)) ∧
      (m ≠ 0 → (x.tdiv m).natAbs < 2 ^ 1056 → ∃ t v w, exec (.bdivs d a b c flag) s = .next t ∧ OnlyWarp s t e v ∧
        WordFrame e v ∧ e.w.putBig d (x.tdiv m) = .ok w ∧ v.vregs = w.vregs ∧ v.shapes = w.shapes ∧ v.tops = w.tops ∧
        v.flags = e.w.flags ∧ v.fpctl = e.w.fpctl ∧
        ∀ r : SReg, v.s r = if r = c then wrap 64 (x - x.tdiv m * m) else e.w.s r)) ∧
    (long → gives (.blen sd a) (BitVec.ofNat 64 ((match a with
        | .v r => (e.w.shapes[r.toNat]?.getD 0).toNat + 2 ^ 32 * (e.w.tops[r.toNat]?.getD 0).toNat
        | .queue _ => 0) + 2 ^ 8 * limbCount x.natAbs))) ∧
    (one → Ready (.bcvtTotc d a) s e →
      ((x < -(2 ^ 1023) ∨ 2 ^ 1023 ≤ x) → Traps (.bcvtTotc d a) s e (trapOf .length (bigReg a))) ∧
      (-(2 ^ 1023) ≤ x → x < 2 ^ 1023 → WritesLanesIn (.bcvtTotc d a) s e allLanes d .w32 false
        (fun j => (limb (x % 2 ^ 1024).toNat j).zeroExtend 64) e.w.fpctl)) ∧
    (one → Ready (.bcvtFromtc d a) s e →
      (x < 0 → Traps (.bcvtFromtc d a) s e (trapOf .format (bigReg a))) ∧
      (0 ≤ x → x < 2 ^ 1024 → WritesBig (.bcvtFromtc d a) s e d (if 2 ^ 1023 ≤ x then x - 2 ^ 1024 else x))) ∧
    (one → Ready (.bcvtF64 sd a) s e →
      let r := f64Fmt.round (RSel.mode .dyn e.w.fpctl) false (decide (x < 0)) x.natAbs 0
      (r.2 &&& e.w.fpctl.extractLsb' 16 5 = 0 → ∃ t v, exec (.bcvtF64 sd a) s = .next t ∧ OnlyWarp s t e v ∧ WordFrame e v ∧
        KeepsVectors e v ∧ v.fpctl = (e.w.fpctl ||| (r.2.zeroExtend 64 <<< 8)) ∧ v.flags = e.w.flags ∧
        ∀ q : SReg, v.s q = if q = sd then r.1 else e.w.s q) ∧
      (r.2 &&& e.w.fpctl.extractLsb' 16 5 ≠ 0 →
        Traps (.bcvtF64 sd a) s e { trapOf .fpx (r.2.zeroExtend 64) with tlanes := allLanes }))
  ) ∧ (
  ∀ (s : State) (e : Env) (d : BitVec 8) (r : SReg) (w : OptS) (head runs : List Run) (cap hbs bs : List Byte),
    let ws := s.sys.windows e.k (some e.w)
    let a := (e.w.s r).toNat
    let x := e.big (.v d) 0
    let n := limbCount x.natAbs
    let h := limbHeader hbs
    let m : Int := leValue ((bs.drop 16).take (4 * h.len))
    let piece := fun (off : Nat) (l : List Byte) => runStores (localRuns ws (a + off) l.length) l
    e.arrayCheck (e.w.s r) 16 = .ok head →
    (Ready (.bspill d r w) s e → e.checkBig [.v d] true = .ok () → e.arrayCheck (e.w.s r) (16 + 4 * n) = .ok runs →
      e.readRuns (localRuns ws (a + 8) 4) allLanes = .ok cap →
      (leValue cap < n → Traps (.bspill d r w) s e (trapOf .length (BitVec.ofNat 64 n))) ∧
      (n ≤ leValue cap → ∃ (p : Op) (rs : List Req), exec (.bspill d r w) s = .next (e.next
          { s.sys with ops := s.sys.ops ++ [p], reqs := s.sys.reqs ++ rs, nextId := s.sys.nextId + 1 + rs.length }
          (match w with
            | some q => e.w.setS q (s.sys.runsWit (.part e.k.core e.w.part) s.sys.nextId runs)
            | none => e.w)) ∧
        p = { e.op false with flag := none, stage := .running } ∧
        rs.map (fun q => (match q.kind with | .write l => Store.bytes q.key l | _ => .clear 0 0)) =
          piece 0 (leBytes 4 n ++ leBytes 4 (if x < 0 then 1 else 0)) ++ piece 12 (leBytes 4 0) ++
            piece 16 (leBytes (4 * n) x.natAbs) ∧
        ∀ q ∈ rs, q.origin = .part e.k.core e.w.part ∧ q.tick = s.sys.time.now ∧ q.op = s.sys.nextId)) ∧
    (Ready (.bfill d r w) s e → e.witnessIn (e.optS w) = .ok () → e.readRuns head allLanes = .ok hbs →
      (h.bad = true → Traps (.bfill d r w) s e (trapOf .format (e.w.s r))) ∧
      (h.bad = false → 33 < h.len → Traps (.bfill d r w) s e (trapOf .length (BitVec.ofNat 64 h.len))) ∧
      (h.bad = false → h.len ≤ 33 → e.arrayCheck (e.w.s r) (16 + 4 * h.len) = .ok runs → e.readRuns runs (e.limbLanes (a + 16) h.len) = .ok bs →
        WritesBig (.bfill d r w) s e d (if h.sign = 1 then -m else m)))
  )

/-- R352, R353, R363, R366, R369, R371, R252, R253, R72, R74: the tile forms change the accumulators that they name and no other, each element by its rule: BCONV
adds limb products, CRES carries a row and clears it, MMA adds the products of its groups, ZCLR clears, ZLD loads and ZST stores a row, ZADD adds a tile,
and ZCVT rounds a row into a register. R367, R368: MMQ arrives at its cohort's instance with its operands and waits; when the four members have arrived, each one's tile gains the products of its
own A group and the B groups of all four, and their warps go past the word; an infinity or NaN of a warp's own B quarter goes before QUAD. That a member whose
accumulators went bad while it waited traps alone, the others waiting on, is the model's choice (log 126). -/
def Obligations.TileForms : Prop :=
  (
  ∀ (s : State) (e : Env) (t t2 d c n : BitVec 8) (a b : BigA) (r : SReg) (last : OptS) (row : UImm) (flag : Bool) (ty : ZTy),
    let old := e.k.accAt
    let tiles := fun l : List Nat => ∀ z ∈ l, z < e.k.zCount ∧ z < 256 ∧ s.sys.tileOwned e.k z = false
    let clean := fun (lo m : Nat) => ∀ z ∈ e.k.badAcc, z < lo ∨ lo + m ≤ z
    let inside := fun (lo m z : Nat) => lo ≤ z ∧ z < lo + m
    let base := 1024 * t.toNat
    let pair := (e.w.fmt.toNat % 8 : Nat)
    let rowAt := base + 32 * ((e.uni row).toNat % 32)
    (let v := e.w.s r
     let i := bits v 4 0
     let c0 := bits v 20 8
     let x := (e.big a 0).natAbs
     let y := (e.big b (match a, b with | .queue p, .queue q => if p = q then 1 else 0 | _, _ => 0)).natAbs
     let sum := fun j : Nat => ((List.range 32).map (fun p =>
       if p ≤ j ∧ j - p < 32 then (limb x p).toNat * (limb y (j - p)).toNat else 0)).sum
     Ready (.bconv t a b r flag) s e → e.checkBig [a, b] false = .ok () →
     tiles ((List.range ((c0 + 62) / 32 - c0 / 32 + 1)).map (fun j => t.toNat + c0 / 32 + j)) → e.k.badAcc = [] →
     ChangesTiles (.bconv t a b r flag) s e e.w [] (fun z =>
       let col := 32 * (z / 1024 - t.toNat) + z % 32
       if t.toNat ≤ z / 1024 ∧ z % 1024 / 32 = i ∧ c0 ≤ col ∧ col < c0 + 63 then
         (if flag then old z - BitVec.ofNat 128 (sum (col - c0)) else old z + BitVec.ofNat 128 (sum (col - c0)))
       else old z)) ∧
    (let lo := base + 32 * bits (e.w.s r) 4 0
     let x := ((List.range 32).map (fun j => (old (lo + j)).toInt * 2 ^ (32 * j))).sum
     let carry := x.fdiv (2 ^ 1024)
     Ready (.cres d t r last) s e → tiles ([t.toNat] ++ (if last = none then [t.toNat + 1] else [])) → e.k.badAcc = [] →
     (last ≠ none → carry ≠ 0 → carry ≠ -1 → Traps (.cres d t r last) s e (trapOf .length (wrap 64 carry))) ∧
     ((last ≠ none → carry = 0 ∨ carry = -1) → ∃ w, ChangesTiles (.cres d t r last) s e w [] (fun z =>
         if inside lo 32 z then 0 else if last = none ∧ z = lo + 1024 then old z + BitVec.ofInt 128 carry else old z) ∧
       (∀ q j, q < 256 → j < 32 → w.vl q j = if q = d.toNat then limb (x % 2 ^ 1024).toNat j else e.w.vl q j) ∧
       (∀ q : SReg, w.s q = if last = some q then wrap 64 carry else e.w.s q))) ∧
    (Ready (.setfmt row) s e → exec (.setfmt row) s = .next (e.next s.sys { e.w with fmt := e.uni row &&& 7 })) ∧
    (let m := groupB e.w.fmt
     let pops := groupPops a 8 b m
     let ga := e.groupLanes a 8 0
     let gb := e.groupLanes b m (sharedPops a b 8)
     Ready (.mma t a b c) s e → pair ≤ 4 →
     (∀ z ∈ groupEnd a 8 ++ groupEnd b m ++ (if pair = 3 then [c.toNat + 1] else []), z ≤ e.w.budget) →
     tiles [t.toNat] → clean base 1024 → e.groupCheck pops = .ok () → e.groupFailed pops = .ok () →
     (∀ l ∈ (if pair = 2 then ga else []) ++ (if pair = 2 ∨ pair = 3 then gb else []), badHalf l = 0) →
     ChangesTiles (.mma t a b c) s e e.w pops (fun z =>
       if inside base 1024 z then old z + BitVec.ofInt 128 (((List.range (depthOf pair)).map (fun p =>
         elemA pair ga (e.w.v c.toNat) (z % 1024 / 32) p * elemB pair gb p (z % 32))).sum)
       else old z)) ∧
    (Ready (.zclr t n) s e → tiles ((List.range (n.toNat + 1)).map (fun j => t.toNat + j)) →
      ChangesTiles (.zclr t n) s e e.w [] (fun z => if inside base (1024 * (n.toNat + 1)) z then 0 else old z)) ∧
    (let l := e.groupLanes a 4 0
     let lane := fun q j => (l[q]?.getD zeroLanes)[j]?.getD 0
     Ready (.zld t a row) s e → tiles [t.toNat] → e.groupCheck (a.pops 4) = .ok () → e.groupFailed (a.pops 4) = .ok () →
     ChangesTiles (.zld t a row) s e e.w (a.pops 4) (fun z =>
       let j := z - rowAt
       if inside rowAt 32 z then lane 3 j ++ lane 2 j ++ lane 1 j ++ lane 0 j else old z)) ∧
    (Ready (.zst d t row) s e → tiles [t.toNat] → clean rowAt 32 →
      ∃ x v, exec (.zst d t row) s = .next x ∧ OnlyWarp s x e v ∧ WordFrame e v ∧ KeepsScalars e v ∧ v.fpctl = e.w.fpctl ∧
        ∀ q j, q < 256 → j < 32 → v.vl q j =
          if inside d.toNat 4 q then ((old (rowAt + j)) >>> (32 * (q - d.toNat))).setWidth 32 else e.w.vl q j) ∧
    (Ready (.zadd t t2 flag) s e → tiles [t.toNat, t2.toNat] → clean base 1024 → clean (1024 * t2.toNat) 1024 →
      ChangesTiles (.zadd t t2 flag) s e e.w [] (fun z =>
        let y := old (1024 * t2.toNat + z % 1024)
        if inside base 1024 z then (if flag then old z - y else old z + y) else old z)) ∧
    (let lo := base + 32 * bits (e.w.s r) 4 0
     let f := fun j : Nat => ty.convert e.w.fpctl (scaleVal (last.map e.w.s)) (old (lo + j)).toInt (weightOf pair)
       (e.w.lane .w32 d.toNat j)
     let raised := ((List.range 32).map (fun j => (f j).2)).foldl (fun x y => x ||| y) 0
     Ready (.zcvt d t r last ty flag) s e → pair ≤ 4 → (last ≠ none → pair = 3) → tiles [t.toNat] → clean lo 32 →
     raised &&& e.w.fpctl.extractLsb' 16 5 = 0 →
     ∃ w, ChangesTiles (.zcvt d t r last ty flag) s e w [] (fun z => if flag ∧ inside lo 32 z then 0 else old z) ∧
       w.fpctl = (e.w.fpctl ||| (raised.zeroExtend 64 <<< 8)) ∧
       ∀ q j, q < 256 → j < 32 → w.vl q j = if q = d.toNat then ((f j).1).setWidth 32 else e.w.vl q j)
  ) ∧ (
  ∀ (s : State) (e : Env) (t c : BitVec 8) (a b : BigA) (ms : List Nat) (k : Block) (m : MmqInst) (l : List MmqArrival)
    (inst : Nat),
    let pair := (e.w.fmt.toNat % 8 : Nat)
    let na := if pair = 3 then 9 else 8
    let nb := groupB e.w.fmt / 4
    let pops := groupPops a 8 b nb
    let ga := e.groupLanes a 8 0 ++ (match a with | .v r => [e.w.v (r.toNat + 8)] | .queue _ => [])
    let gb := e.groupLanes b nb (sharedPops a b 8)
    let bad := fun x : MmqArrival => ∃ z ∈ k.badAcc, z / 1024 = x.tile
    (Ready (.mmq t a b c) s e → pair ≤ 4 → (∀ z ∈ groupEnd a na ++ groupEnd b nb, z ≤ e.w.budget) →
      t.toNat < e.k.zCount → t.toNat < 256 → s.sys.tileOwned e.k t.toNat = false → e.k.badAcc = [] →
      e.groupCheck pops = .ok () → e.groupFailed pops = .ok () → (pair = 2 → ∀ z ∈ ga.take 8, badHalf z = 0) →
      s.sys.quad e.k c.toNat = some ms → e.memBad = none →
      (e.w.index ∉ ms → ((pair = 2 ∨ pair = 3) → ∀ z ∈ gb, badHalf z = 0) → Traps (.mmq t a b c) s e (trapOf .quad (c.zeroExtend 64))) ∧
      (e.w.index ∉ ms → (pair = 2 ∨ pair = 3) → (∃ z ∈ gb, badHalf z ≠ 0) → ∃ f, f.cause = .format ∧ Traps (.mmq t a b c) s e f) ∧
      (e.w.index ∈ ms → ∃ x y, exec (.mmq t a b c) s = .next x ∧ y ∈ x.sys.mmqs ∧ y.block = e.k.id ∧
        y.cohort = c.toNat ∧ y.inst = Table.getD e.w.mmqs c.toNat 0 ∧
        (∃ z ∈ y.arrivals, z.warp = e.w.id ∧ z.tile = t.toNat ∧ z.a = ga ∧ z.b = gb ∧ z.fmt = e.w.fmt ∧ z.pops = pops) ∧
        (∃ v, x.sys.warp? e.w.id = some v ∧ (v.sub? e.o).map (·.wait) = some (.mmq c.toNat y.inst)) ∧
        (∀ z, x.mem.byte z = s.mem.byte z))) ∧
    (s.sys.block? k.id = some k →
      s.sys.mmqs.find? (fun z => z.block == k.id && z.cohort == c.toNat && z.inst == inst) = some m →
      s.sys.quad k c.toNat = some ms → (∀ i ∈ ms, s.sys.participantExited k.launch (k.flat, i) = false) →
      l = ms.filterMap (fun i => m.arrivals.find? (fun x => (s.sys.warp? x.warp).map (·.index) == some i)) →
      l.length = 4 → (∀ x ∈ l, s.sys.tileOwned k x.tile = false ∧ pairOf x.fmt = pair ∧
        (pair = 2 ∨ pair = 3 → ∀ z ∈ x.b, badHalf z = 0) ∧
        ∃ w z, s.sys.warp? x.warp = some w ∧ w.block = k.id ∧ w.sub? (some x.sub) = some z) →
      ((∃ x ∈ l, bad x) → k.handler ≠ 0 → ∃ u h, Does (.mmqInstance k.id c.toNat inst) s u ∧ u.sys.block? k.id = some h ∧ h.acc = k.acc ∧
        ∀ x ∈ l, ¬ bad x → ∃ z ∈ u.sys.mmqs, z.block = k.id ∧ z.cohort = c.toNat ∧ z.inst = inst ∧ x ∈ z.arrivals) ∧
      ((∀ x ∈ l, ¬ bad x) → ∃ u h, Does (.mmqInstance k.id c.toNat inst) s u ∧ u.stores = [] ∧ u.sys.block? k.id = some h ∧
        (∀ z, h.accAt z = ((l.filter (fun x => x.tile == z / 1024)).map (fun x => BitVec.ofInt 128
          (((List.range (depthOf pair)).map (fun p =>
            elemA pair (x.a.take 8) (x.a[8]?.getD zeroLanes) (z % 1024 / 32) p *
              elemB pair (l.flatMap (·.b)) p (z % 32))).sum))).foldl (fun v y => v + y) (k.accAt z)) ∧
        (∀ x ∈ l, ∀ w z, s.sys.warp? x.warp = some w → w.sub? (some x.sub) = some z → ∃ v, u.sys.warp? x.warp = some v ∧
          v.queues = (w.popAll x.pops).queues ∧ v.sub? (some x.sub) = some z.past) ∧
        (∀ z ∈ u.sys.mmqs, z ∈ s.sys.mmqs ∧ ¬ (z.block = k.id ∧ z.cohort = c.toNat ∧ z.inst = inst))))
  )

/-! ### Control flow -/

/-- R395 to R397, R201, R211: a taken relative branch goes to its own address plus eight times its offset, where the target's checks pass, and one not taken goes past
the word; BRV needs the active lanes to agree, CALL links, and takes ILLEGAL of its target before UNGUARDED (R416), LOOP counts down, RET and JMPI go where a register says, and NOP has no effect. What the manual leaves open here is the model's choice (log 13). -/
def Obligations.BranchForms : Prop :=
  ∀ (s : State) (e : Env) (off : BitVec 22) (r : SReg) (z : Bool) (m : OptS) (v : BitVec 8) (t : Word) (votes : LaneMask),
    let here := (e.b.pc.toNat : Int) + 8 * off.toInt
    let branch := fun (i : Instr) (w : Warp) (taken : Prop) => Ready i s e →
      (taken → e.target here false = .ok t → t = wrap 64 here ∧ Goes i s e w (e.b.jumped t)) ∧
      (¬ taken → Goes i s e w e.b.past)
    let jump := fun (i : Instr) (toward : Int) => Ready i s e → e.target toward true = .ok t →
      t = wrap 64 toward ∧ Goes i s e e.w (e.b.jumped t)
    let x := e.w.sx e.o r
    branch (.bra off) e.w True ∧
    branch (.brs r z off) e.w (x = 0 ↔ z = true) ∧
    branch (.brz m off) e.w ((match m with | some q => (e.w.s q).setWidth 32 | none => e.b.exec) = 0#32) ∧
    (e.guard? = none → branch (.call r off) (e.w.setS r (e.b.pc + 8)) True) ∧
    (∀ g, e.guard? = some g → Ready (.call r off) s e → (e.target here false = .ok t → Traps (.call r off) s e g) ∧
      ∀ q, e.target here false = .error (.trap q) → Traps (.call r off) s e (if q.cause = .illegal then q else g)) ∧
    branch (.loop r off) (e.w.setSx e.o r (x - 1)) (x ≠ 1) ∧
    jump (.ret r) (e.w.s r).toNat ∧ jump (.jmpi r off) ((e.w.s r).toNat + 8 * off.toInt) ∧
    ((∀ i, i < 32 → (votes.getLsbD i = true ↔ e.b.active i = true ∧ (e.w.vl v.toNat i = 0 ↔ z = true))) →
      (votes = 0 ∨ votes = e.b.exec → branch (.brv v z off) e.w (votes ≠ 0)) ∧
      (votes ≠ 0 → votes ≠ e.b.exec → Ready (.brv v z off) s e →
        Traps (.brv v z off) s e { trapOf .uniformity (votes.zeroExtend 64) with tlanes := votes })) ∧
    (Ready .nop s e → exec .nop s = .next (e.next s.sys e.w))

/-- R183, R184, R398, R167, R179: BSPLIT runs one path, splits the sub-warp where no slice votes both ways and an entry is free, or serialises its two paths; JOIN takes the
pending path, ends a serial region, or merges with the sibling that waits; EXIT retires the lanes of its path, and the last sub-warp's EXIT ends the warp, and with it the task that it runs. What the manual leaves open here is the model's choice (logs 14 and 15). -/
def Obligations.DivergenceForms : Prop :=
  ∀ (s : State) (e : Env) (c : CondVS) (off : BitVec 22) (pc : Word) (t : LaneMask) (p x n : LaneMask) (rest : List Frame)
    (entry : Nat) (fall : Bool) (sib : Sub),
    let no := e.b.exec &&& ~~~t
    let past := e.b.past
    let toward := e.b.jumped pc
    let serial := fun (b : Sub) (next : Option (Word × LaneMask)) =>
      { b with frames := Frame.serial e.b.perm e.b.exec next :: e.b.frames }
    let slice := fun k : Nat => 0xF#32 <<< (4 * k)
    let both := ∃ k, k < 8 ∧ t &&& slice k ≠ 0 ∧ no &&& slice k ≠ 0
    let free := (List.range 4).find? (fun j => !e.w.splits.contains j)
    let child := fun (b : Sub) (l : LaneMask) (fall : Bool) => { b with
      lset := l, perm := e.b.perm &&& l, exec := e.b.exec &&& l, frames := Frame.split entry fall none :: e.b.frames }
    let gone := e.w.exited ||| e.b.perm
    (Ready (.bsplit c off) s e →
      (∀ i, i < 32 → (t.getLsbD i = true ↔ e.b.active i = true ∧ (match c with
        | .v r => e.w.vl r.toNat i ≠ 0
        | .s r => (e.w.s r).getLsbD i = true))) →
      (t = 0 → Goes (.bsplit c off) s e e.w (serial past none)) ∧
      (t ≠ 0 → e.target ((e.b.pc.toNat : Int) + 8 * off.toInt) false = .ok pc →
        (no = 0 → Goes (.bsplit c off) s e e.w (serial toward none)) ∧
        (no ≠ 0 → both ∨ free = none →
          Goes (.bsplit c off) s e e.w (serial { toward with perm := t, exec := t } (some (past.pc, no)))) ∧
        (no ≠ 0 → ¬ both → free = some entry → ∃ l z v, (∀ i, i < 32 → (l.getLsbD i = true ↔ t &&& slice (i / 4) ≠ 0)) ∧
          exec (.bsplit c off) s = .next z ∧ z.sys.warp? e.w.id = some v ∧ v.splits = e.w.splits ++ [entry] ∧
          v.subs = e.w.subs.map (fun b => if b.id == e.b.id then child past (e.b.lset &&& ~~~l) true else b) ++
            [{ child toward l false with id := s.sys.nextId }] ∧
          (∀ a, z.mem.byte a = s.mem.byte a)))) ∧
    (Ready .join s e →
      (e.b.frames = [] → Traps .join s e (trapOf .convergence 0)) ∧
      (e.b.frames = .serial p x (some (pc, n)) :: rest → e.target pc.toNat false = .ok pc → Goes .join s e e.w { toward with
        perm := n &&& ~~~e.w.exited, exec := n &&& ~~~e.w.exited, frames := .serial p x none :: rest }) ∧
      (e.b.frames = .serial p x none :: rest → Goes .join s e e.w { past with
        perm := p &&& ~~~e.w.exited, exec := x &&& ~~~e.w.exited, frames := rest }) ∧
      (e.b.frames = .split entry fall (some n) :: rest →
        Goes .join s e { e.w with splits := e.w.splits.filter (fun k => k != entry) }
          { past with lset := e.b.lset ||| n, frames := rest }) ∧
      (e.b.frames = .split entry fall none :: rest →
        (e.w.waiting entry e.b.id = none → Waits .join s e (.join entry)) ∧
        (e.w.waiting entry e.b.id = some sib → ∃ z v, exec .join s = .next z ∧ z.sys.warp? e.w.id = some v ∧
          v.subs.length < e.w.subs.length ∧ v.splits = e.w.splits.filter (fun k => k != entry) ∧
          ∃ b, v.sub? (some (if fall then e.b.id else sib.id)) = some b ∧ b.lset = e.b.lset ||| sib.lset ∧
            b.perm = e.b.perm ||| sib.perm ∧ b.exec = e.b.exec ||| sib.exec ∧
            b.frames = (if fall then rest else sib.frames.tail)))) ∧
    (Ready .exit s e → e.o = none → exec .exit s =
      .next { s with sys := s.sys.setWarp (e.w.setSub none { e.b with wait := .exiting }) }) ∧
    (Ready .exit s e → e.o ≠ none →
      (e.b.frames = .serial p x (some (pc, n)) :: rest → e.target pc.toNat false = .ok pc → Goes .exit s e { e.w with exited := gone } { toward with
        perm := n &&& ~~~gone, exec := n &&& ~~~gone, frames := .serial p x none :: rest }) ∧
      (e.b.frames = [] → e.w.subs = [e.b] → ∃ z, exec .exit s = .next z ∧ z.sys.warp? e.w.id = none ∧
        (∀ k, k ≠ e.w.id → z.sys.warp? k = s.sys.warp? k) ∧ (∀ a, z.mem.byte a = s.mem.byte a) ∧
        (e.k.isTask = false → z.sys.ops = s.sys.ops ∧ z.sys.bins = s.sys.bins) ∧
        (∀ die bin no l q, e.k.job = .task die bin no l → s.sys.bin? e.k.ctx die bin = some q →
          (z.sys.bin? e.k.ctx die bin).map (·.running) = some (q.running - 1))) ∧
      (e.b.frames = .split entry fall none :: rest → e.w.subs = [e.b, sib] → sib.id ≠ e.b.id → e.w.handler = none →
        ∃ z v b, exec .exit s = .next z ∧ z.sys.warp? e.w.id = some v ∧ v.subs = [b] ∧ v.exited = gone ∧ b.id = sib.id ∧
          b.exec = sib.exec))

/-! ### Traps and special registers -/

/-- R440, R441, R446, R447, R449, R451: a trap of a sub-warp enters the handler that LPB word 17 names: CAUSE, EPC, TVAL, TLANES and TINFO say what happened, EXEC takes the
permanent mask, and the other warps of the block receive a block-halt. In handler mode the cause pends and the sub-warp goes on; without a handler, the warp
ends, and its fault record is written. What the manual leaves open here is the model's choice (log 9). -/
def Obligations.TrapsEnterTheHandler : Prop :=
  ∀ (s : State) (w v2 : Warp) (b : Sub) (k : Block) (t : TrapInfo) (d : Handler),
    let u := takeTrap s w (some b.id) b t
    s.sys.warp? w.id = some w → w.sub? (some b.id) = some b → s.sys.block? w.block = some k →
    (w.handler = none → w.halt = none → k.handler ≠ 0 → (s.sys.NoneHandlesHalt w → u.stores = []) ∧
      ∃ v, u.sys.warp? w.id = some v ∧
      Entered w v b t b.pc k.handler ∧
      (s.sys.warp? v2.id = some v2 → v2.id ≠ w.id → v2.block = w.block → v2.halt = none → v2.handler = none →
        v2.sliceRaised ≠ some s.sys.time.cycle →
        (u.sys.warp? v2.id).map (·.halt) =
          some (some { who := w.index, cause := t.cause, fatal := false, cycle := s.sys.time.cycle }))) ∧
    (w.handler = none → w.halt = none → k.handler = 0 → s.sys.NoneHandlesHalt w → (s.sys.context k.ctx).log.length < 256 →
      u.sys.warp? w.id = none ∧ ∃ r, (u.sys.context k.ctx).log = (s.sys.context k.ctx).log ++ [r] ∧
        r.take 3 = [2, BitVec.ofNat 8 t.cause.num, 0]) ∧
    (w.handler = some d → d.has b.id = true → w.cause &&& t.cause.bit = 0 → u.stores = [] ∧ ∃ v,
      u.sys.warp? w.id = some v ∧ v.cause = w.cause ||| t.cause.bit ∧ v.epc = w.epc ∧ v.tval = w.tval ∧
      v.sub? (some b.id) = some b.past ∧
      ∃ d2, v.handler = some d2 ∧ d2.pending = d.pending ++ [{ t with opc := b.pc }])

/-- R412 to R414, R444, R191, R244, R453: TRAP and BKPT take their causes with their code, or BKPT stops its sub-warp and hands the debug unit its PC; SRD reads a special register and SWR writes its writable bits, those of a
handler only in handler mode; TRET takes the pending cause of lowest number, or returns to where the trap was taken with the mask of that time. What the manual leaves open here is the model's choice (logs 16 and 57). -/
def Obligations.SystemForms : Prop :=
  ∀ (s : State) (e : Env) (u : UImm) (code off : BitVec 16) (rd : BitVec 8) (sel : Special) (h : Handler),
    let v := e.uni u
    let k := e.k
    let put := fun (q : Special) (w : Warp) => Ready (.swr q u) s e →
      exec (.swr q u) s = .next (e.next s.sys w)
    let handling := e.w.handler = some h ∧ h.has e.b.id = true
    let handler := fun (q : Special) (w : Warp) => handling → put q w
    let reads : List (Special × Word) :=
      [ (.exec, e.b.exec.zeroExtend 64), (.warpid, BitVec.ofNat 64 (if k.isTask then 0 else e.w.index)),
        (.clusterid, BitVec.ofNat 64 (clusterOf k.core)), (.clrank, BitVec.ofNat 64 k.rank),
        (.dieid, BitVec.ofNat 64 (dieOf k.core)), (.coreid, BitVec.ofNat 64 k.core), (.fmt, e.w.fmt), (.nbv, e.w.nbv),
        (.fpctl, e.w.fpctl), (.nttth, e.w.nttth), (.phase, e.w.phase), (.clock, BitVec.ofNat 64 s.sys.clk),
        (.cause, e.w.cause), (.epc, e.w.epc), (.tval, e.w.tval), (.tlanes, e.w.tlanes.zeroExtend 64), (.tskid, k.tskid),
        (.tinfo, e.w.tinfo), (.hstat, e.w.hstat), (.capptr, (s.sys.context k.ctx).capva), (.ctxid, BitVec.ofNat 64 (bits (s.sys.context k.ctx).desc[0] 12 1)) ]
    (Ready (.trap u) s e → Traps (.trap u) s e (trapOf .software (match u with
      | .s r => e.w.s r
      | .imm m => m.zeroExtend 64))) ∧
    (Ready (.bkpt code) s e →
      ((s.sys.context k.ctx).claimed = false → Traps (.bkpt code) s e (trapOf .breakpoint (code.zeroExtend 64))) ∧
      ((s.sys.context k.ctx).claimed = true →
        let y := (s.sys.setWarp (e.w.setSub e.o { e.b.past with wait := .debugger })).mark k.ctx
        exec (.bkpt code) s = .next { s with sys := { y with ctl := { y.ctl with
          broken := y.ctl.broken ++ [{ warp := e.w.id, sub := e.b.id, pc := e.b.pc }] } } })) ∧
    (Ready (.phint off) s e →
      ((s.sys.preempting k).isSome = false → exec (.phint off) s = .next (e.next s.sys e.w)) ∧
      ((s.sys.preempting k).isSome = true → exec (.phint off) s = .next (e.next s.sys { e.w with
        hint := some ((e.b.pc &&& ~~~63#64) + 64 * off.signExtend 64).toNat }))) ∧
    (Ready (.srd rd .laneid) s e → WritesLanes (.srd rd .laneid) s e rd .w32 false (fun j => BitVec.ofNat 64 j)) ∧
    (Ready (.srd rd sel) s e → sel ≠ .laneid → ∃ x, WritesScalar (.srd rd sel) s e (rd.setWidth 7) x ∧
      ∀ y, (sel, y) ∈ reads → x = y) ∧
    put .exec (e.w.setSub e.o { e.b with exec := v.setWidth 32 &&& e.b.perm }) ∧
    put .fmt { e.w with fmt := v &&& 7 } ∧ put .fpctl { e.w with fpctl := v &&& 0x1F1F03 } ∧
    put .nttth { e.w with nttth := v } ∧ put .phase { e.w with phase := v &&& 63 } ∧
    put .hstat { e.w with hstat := v &&& 0xFF0000FF } ∧ (v = 1 ∨ v = 2 → put .nbv { e.w with nbv := v }) ∧
    (v ≠ 1 → v ≠ 2 → Ready (.swr .nbv u) s e → ∃ x, Traps (.swr .nbv u) s e (trapOf .illegal x)) ∧
    handler .epc { e.w with epc := v, handler := some { h with epcWritten := true } } ∧
    handler .tval { e.w with tval := v } ∧ handler .tlanes { e.w with tlanes := v.setWidth 32 } ∧
    handler .tinfo { e.w with tinfo := v } ∧
    handler .cause { e.w with
      cause := e.w.cause &&& (v ||| h.cause.bit)
      handler := some { h with pending := h.pending.filter (fun t => v.getLsbD t.cause.num) } } ∧
    (sel ∈ [Special.cause, .epc, .tval, .tlanes, .tinfo] → env? (.swr sel u) s = some e → e.misplaced = false →
      e.outOfRange = false → e.handler? = none →
      Traps (.swr sel u) s e (trapOf .illegal (Instr.word (.swr sel u)))) ∧
    (Ready .tret s e → e.w.handler = none → ∃ x, Traps .tret s e (trapOf .illegal x)) ∧
    (Ready .tret s e → handling →
      (h.pending = [] → h.epcWritten = false → h.queued = [] → e.o = some e.b.id → ∃ z v b, exec .tret s = .next z ∧
        z.sys.warp? e.w.id = some v ∧ v.handler = none ∧ v.cause = 0 ∧ v.sub? (some e.b.id) = some b ∧
        b.pc = (if h.cause = .software ∨ h.cause = .breakpoint then e.w.epc + 8 else e.w.epc) ∧
        b.exec = h.shadow &&& e.b.perm &&& ~~~e.w.exited ∧ (∀ a, z.mem.byte a = s.mem.byte a)) ∧
      (h.pending ≠ [] → e.o = some e.b.id → ∃ z v t, exec .tret s = .next z ∧ z.sys.warp? e.w.id = some v ∧ t ∈ h.pending ∧
        (∀ q ∈ h.pending, t.cause.num ≤ q.cause.num) ∧ v.tval = t.tval ∧ v.tlanes = t.tlanes ∧ v.tinfo = t.tinfo ∧
        v.epc = h.epc ∧ ∃ d, v.handler = some d ∧ d.cause = t.cause ∧
          d.pending = h.pending.filter (fun q => q.cause != t.cause)))

/-! ### Streams -/

/-- R332 to R335, R77, R79: STRM and QMARK add a job to a queue of the access slice, STRM once its queue's earlier stream has pushed; jobs act one
by one: a marker is pushed while the queue has room, and so is an entry of a stream's group, once its elements can be read, the high entry of a
64-bit group behind the low one; a word that waits for entries of a full queue leaves room for as many as it has taken (log 125); QDISC discards up to the first marker; STRMEND waits for the streams it names; and the slice ends behind its EXIT
when every job is done. What the manual leaves open here is the model's choice (logs 9, 43, 99 and 125). -/
def Obligations.StreamForms : Prop :=
  ∀ (s : State) (e : Env) (q : BitVec 2) (a b c : SReg) (sz : Sz) (sext locl : Bool) (m : BitVec 4) (v : BitVec 16) (d : SReg)
    (w : Warp) (k : Block) (x : Access) (rest : List QJob) (t : Stream) (y z0 : Sys) (runs : List (List Run)) (lost : List (Nat × Reason))
    (more : List QEntry) (front : List QEntry),
    let streaming := fun n : Nat => ∃ z j, e.w.access = some z ∧ .stream j ∈ z.jobs[n]?.getD []
    let job := fun (i : Instr) (j : QJob) => Ready i s e → exec i s = .next (e.next s.sys { e.w with
      access := e.w.access.map (fun z => { z with
        jobs := z.jobs.setIfInBounds q.toNat ((z.jobs[q.toNat]?.getD []) ++ [j]) }) })
    let streams := ∃ n, n < 4 ∧ m.getLsbD n = true ∧ streaming n
    let strm : Instr := .strm q a b c sz sext locl
    let next := if t.pos + 1 < t.n0 * t.n1 then [QJob.stream { t with pos := t.pos + 1, high := none }] else []
    let runsHere := s.sys.warp? w.id = some w ∧ s.sys.block? w.block = some k ∧ w.access = some x ∧ x.ended = false ∧
      x.parked = false ∧ (s.sys.context k.ctx).frozen = false ∧ s.sys.ctl.held = false ∧ (s.sys.preempting k).isSome = false
    let pushed := fun (u : Upd) (jobs : List QJob) (l : List QEntry) => u.stores = [] ∧ ∃ z, u.sys.warp? w.id = some z ∧
      z.queue q = w.queue q ++ l ∧ z.access.map (fun p => p.jobs[q.toNat]?.getD []) = some jobs
    (¬ streaming q.toNat → job strm (.stream
      { q := q, base := e.w.sx e.o a, desc := e.w.sx e.o b, strides := e.w.sx e.o c, sz := sz, sext := sext, locl := locl,
        pos := 0, high := none, pc := e.b.pc, parked := none })) ∧
    (streaming q.toNat → Ready strm s e → Waits strm s e (.streams (1#4 <<< q.toNat))) ∧
    job (.qmark q v) (.mark v) ∧
    (Ready (.strmend m) s e → (¬ streams → exec (.strmend m) s = .next (e.next s.sys e.w)) ∧
      (streams → Waits (.strmend m) s e (.streams m))) ∧
    (Ready (.qdisc d q) s e →
      (e.w.queue q = front ++ .marker v :: more → (∀ z ∈ front, ∀ n, z ≠ .marker n) →
        exec (.qdisc d q) s = .next (e.next s.sys
          ((e.w.setQueue q more).setS d (BitVec.ofNat 64 (2 ^ 63 + v.toNat))))) ∧
      ((∀ z ∈ e.w.queue q, ∀ n, z ≠ .marker n) → (∃ z, e.w.access = some z ∧ z.ended = true) →
        exec (.qdisc d q) s = .next (e.next s.sys ((e.w.setQueue q []).setS d 0)))) ∧
    let room := (w.queue q).length < 16 ∨ ∃ b ∈ w.subs, ∃ n, b.wait = .queue q n ∧ (w.queue q).length < 16 + min n (w.queue q).length
    (runsHere → x.jobsOf q = .mark v :: rest → room →
      ∃ u, Does (.streamPush w.id q.toNat) s u ∧ pushed u rest [.marker v]) ∧
    (runsHere → (16 ≤ (w.queue q).length) → (∀ b ∈ w.subs, ∀ n, b.wait ≠ .queue q n) → Does (.streamPush w.id q.toNat) s (.of s.sys)) ∧
    (runsHere → x.jobsOf q = .stream t :: rest → room →
      (t.high = none → streamLocate s w k x t = .go y runs → runs.all y.runsQuiet = true →
        y.asks (.stream w.id q.toNat) (.part k.core w.part) k.ctx (runLines runs) = .ok (z0, lost) → y.warps = s.sys.warps →
        let es := t.entries z0 s.mem lost runs
        ∃ u, Does (.streamPush w.id q.toNat) s u ∧ pushed u (match es.2 with
          | some z => .stream { t with high := some z } :: rest
          | none => next ++ rest) [es.1]) ∧
      (∀ z, t.high = some z → ∃ u, Does (.streamPush w.id q.toNat) s u ∧ pushed u (next ++ rest) [z])) ∧
    (s.sys.warp? w.id = some w → w.access = some x → x.sub.wait = .exiting → x.ended = false →
      (∀ j, j < 4 → x.jobs[j]?.getD [] = []) →
      Does (.accessSliceEnd w.id) s (.of (s.sys.setWarp { w with access := some { x with ended := true } })))

/-! ### Barriers, signals and reductions -/

/-- R400 to R403: BAR and BARARR, when their mask, witness and level pass, record one arrival at the instance of their level; BAR then waits for it, BARARR goes on, and
a second arrival waits for the open instance; BARWT waits for the latest arrival or reads its result. An instance completes once every participant has arrived or
exited: the waiting ones read the join of the witnesses, once it is settled where they asked for that; unequal masks trap MEMBERSHIP. What the manual leaves open here is the model's choice (log 41). -/
def Obligations.BarrierForms : Prop :=
  ∀ (s : State) (e : Env) (o : BarOp) (d : OptS) (n : BitVec 8) (lvl : BarLevel) (settle again : Bool) (slot : BarSlot) (inst : Nat)
    (bar : BarInst) (w : Warp) (b : Sub) (k : Block) (v : Word),
    let key := e.barKey o.lvl o.n.toNat
    let mask : LaneMask := match o.m with
      | some r => (e.w.s r).setWidth 32
      | none => allLanes
    let ok := e.b.exec = mask ∧ witBad s.sys.clk (e.optS o.w) = false ∧ e.usable o.lvl o.n.toNat = true
    let at_ := (e.w.barSlot key = none ∧ inst = 0) ∨
      (e.w.barSlot key = some slot ∧ slot.arrived = inst ∧ (slot.result = .spent ∨ ∃ x, slot.result = .done x))
    let y := s.sys.arrive key inst { block := e.k.flat, warp := e.w.index, wit := e.optS o.w, mask := e.b.exec }
    let w1 := e.w.setBarSlot { key := key, arrived := inst + 1, result := .open_ }
    let put := fun (x : Warp) (r : OptS) (z : Word) => match r with
      | some q => x.setS q z
      | none => x
    let both := fun i : Instr => i = .bar o ∨ i = .bararr o
    let wt : Instr := .barwt d n lvl settle
    let mine := e.w.barSlot (e.barKey lvl n.toNat)
    let here := fun p : Nat × Nat => (bar.arrivals.any (fun a => a.block == p.1 && a.warp == p.2) ||
      s.sys.participantExited ((s.sys.keyLaunch bar.key).getD 0) p) = true
    let done : Instr := .barrierComplete bar.key bar.inst
    let joined := bar.arrivals.foldl (fun z a => merge z a.wit) 0
    let equal := ∀ a ∈ bar.arrivals, ∀ a' ∈ bar.arrivals, a.mask = a'.mask
    let ends := s.sys.barriers.find? (fun z => z.key == bar.key && z.inst == bar.inst) = some bar ∧
      (∀ p ∈ s.sys.participants bar.key, here p)
    let waits := s.sys.warp? w.id = some w ∧ w.barSlot bar.key = some slot ∧ slot.arrived = bar.inst + 1 ∧
      w.waitsAt bar.key bar.inst = some (b, d, settle, again) ∧ w.sub? (some b.id) = some b
    let left := fun u : Upd => u.sys.barriers = s.sys.barriers.filter (fun z => !(z.key == bar.key && z.inst == bar.inst))
    (Ready (.bararr o) s e → ok → at_ → exec (.bararr o) s = .next (e.next y w1)) ∧
    (Ready (.bar o) s e → ok → at_ → exec (.bar o) s = .next { s with sys := (y.setWarp (w1.setSub e.o
      { e.b with wait := .barrier key inst o.d o.settle false, since := s.sys.time.now })).mark e.k.ctx }) ∧
    (∀ i, both i → Ready i s e →
      (e.b.exec ≠ mask → Traps i s e { trapOf .convergence (e.b.exec ++ mask) with tlanes := e.b.exec ^^^ mask }) ∧
      (e.b.exec = mask → witBad s.sys.clk (e.optS o.w) = true → Traps i s e (trapOf .witness (e.optS o.w))) ∧
      (e.b.exec = mask → witBad s.sys.clk (e.optS o.w) = false → e.usable o.lvl o.n.toNat = false →
        Traps i s e (trapOf .membership (o.n.zeroExtend 64))) ∧
      (ok → e.w.barSlot key = some slot → slot.result = .open_ →
        Waits i s e (.barrier key (slot.arrived - 1) none false true))) ∧
    (Ready wt s e →
      ((mine = none ∨ ∃ z, mine = some z ∧ z.result = .spent) → Traps wt s e (trapOf .membership (n.zeroExtend 64))) ∧
      (mine = some slot → slot.result = .open_ → Waits wt s e (.barrier slot.key (slot.arrived - 1) d settle false)) ∧
      (mine = some slot → slot.result = .done v →
        (settle = false ∨ s.sys.settled (coreReader e.k.core) v = .yes → exec wt s = .next (e.next s.sys (put e.w d v))) ∧
        (settle = true → s.sys.settled (coreReader e.k.core) v = .wait → Waits wt s e (.settle v d)))) ∧
    (ends → equal → (s.sys.warps.map (·.id)).Nodup → ∃ u, Does done s u ∧ u.stores = [] ∧ left u ∧
      (waits → u.sys.warp? w.id = some (
        let z := w.setBarSlot { slot with result := .done joined }
        if again then z.setSub (some b.id) { b with wait := .none }
        else if settle then z.setSub (some b.id) { b with wait := .settle joined d, since := s.sys.time.now }
        else (put z d joined).setSub (some b.id) b.past)) ∧
      (s.sys.warp? w.id = some w → (∀ z, w.barSlot bar.key = some z → z.arrived ≠ bar.inst + 1) →
        u.sys.warp? w.id = some w)) ∧
    (ends → ¬ equal → waits → s.sys.warps = [w] → s.sys.block? w.block = some k → w.handler = none → w.halt = none → k.handler ≠ 0 →
      s.sys.NoneHandlesHalt w → ∃ u z, Does done s u ∧ u.stores = [] ∧ left u ∧ u.sys.warp? w.id = some z ∧
        Entered (w.setBarSlot { slot with result := .spent }) z { b with wait := .none }
          (trapOf .membership (BitVec.ofNat 64 bar.key.n)) b.pc k.handler) ∧
    (s.sys.warp? w.id = some w → w.sub? (some b.id) = some b → s.sys.block? w.block = some k → b.wait = .settle v d →
      s.sys.settled (coreReader k.core) v = .yes → Does (.barrierSettleRelease w.id b.id) s
        (.of (s.sys.setWarp ((put w d v).setSub (some b.id) b.past))))

/-- R404, R405, R406, R469: SIGX sends a signal that takes effect, after the earlier ones to its target, once its witness is settled, and WAITX waits for a counter of its
context; XRED contributes to its group, whose instance gives every contributor the reduction, lane by lane, when all have come with one operation, and
every package of the group can be reached. That the contributions of the other packages come with the step as an input is the model's choice (log 40). -/
def Obligations.SignalsAndReductions : Prop :=
  ∀ (s : State) (e : Env) (c : BitVec 8) (a b : SReg) (d : OptS) (settle : Bool) (rd ra : BitVec 8) (g : BitVec 4) (op : XOp)
    (p : Op) (ctx : Nat) (v : Word) (l : List XContrib) (first : XContrib) (rest : List XContrib) (peers : List (Option XOp × Lanes64)),
    let toward := e.w.s b
    let valid := toward = 0x8000000000000000 ∨
      (toward.toNat < 64 ∧ (toward.toNat = s.sys.ctl.packageId ∨ (s.sys.links.left = false ∧ toward.toNat ∉ s.sys.links.gone ∧
        (Table.get? s.sys.ctl.routes toward.toNat).isSome = true)))
    let now := (s.sys.context e.k.ctx).counter c.toNat
    let grp := Table.getD s.sys.ctl.grpcfg g.toNat (0, 0)
    let member := grp.2 ≠ 0 ∧ grp.1.getLsbD s.sys.ctl.packageId = true
    let q := { e.op false with pendV := [rd.toNat, rd.toNat + 1] }
    let lanes : Lanes64 := Vector.ofFn (fun i : Fin 32 => e.w.lane .w64 ra.toNat i)
    let mine := fun x : Nat × Nat × List XContrib => x.1 = e.k.ctx ∧ x.2.1 = g.toNat
    let add := p.args.headD 0
    let dest := p.args.getD 1 0
    let effect : Instr := .sigxTakeEffect p.id
    let sent := s.sys.op? p.id = some p ∧ p.instr = .sigx c a b settle ∧ s.sys.sigBehind p = false ∧
      s.sys.settled (coreReader p.core) p.wit = .yes
    let x := s.sys.context p.ctx
    let cs := (firstContribs l).take grp.2
    let reduce : Instr := .collectiveReduce ctx g.toNat peers
    let f := fun u w : Word => match first.xop with
      | .add => u + w | .smin => if u.toInt ≤ w.toInt then u else w | .smax => if u.toInt ≤ w.toInt then w else u
      | .and => u &&& w | .or => u ||| w | .xor => u ^^^ w
    let total := fun i : Nat => ((rest.map (·.lanes)) ++ peers.map (·.2)).foldl (fun z y => f z (y[i]?.getD 0)) (first.lanes[i]?.getD 0)
    (Ready (.sigx c a b settle) s e →
      (valid → Sends (.sigx c a b settle) s e s.sys e.w { e.op false with
        flag := none, args := [e.w.s a, toward], wit := if settle then mkWit 3 0 s.sys.time.now else 0 } []) ∧
      (¬ valid → Traps (.sigx c a b settle) s e (trapOf .illegal toward))) ∧
    (env? (.sigx c a b settle) s = some e → e.misplaced = false → e.outOfRange = false → s.sys.pendingS e.w.id b.toNat = false → ¬ valid →
      Traps (.sigx c a b settle) s e (trapOf .illegal toward)) ∧
    (Ready (.waitx c a d) s e →
      ((e.w.s a).toNat ≤ now.toNat → exec (.waitx c a d) s = .next (e.next s.sys (match d with
        | some r => e.w.setS r now
        | none => e.w))) ∧
      (now.toNat < (e.w.s a).toNat → Waits (.waitx c a d) s e (.counter c (e.w.s a)))) ∧
    (Ready (.xred rd ra g op) s e → e.flagFull q = false →
      (¬ member → Sends (.xred rd ra g op) s e s.sys e.w
        { q with stage := .done, err := some (trapOf .membership (g.zeroExtend 64)) } []) ∧
      (member → ∃ y, Sends (.xred rd ra g op) s e y e.w q [] ∧ { y with xreds := s.sys.xreds } = s.sys ∧
        (∀ z, z ∈ y.xreds → mine z → { op := q.id, who := e.w.id, xop := op, lanes := lanes } ∈ z.2.2) ∧
        (∃ z ∈ y.xreds, mine z) ∧ (∀ z, ¬ mine z → (z ∈ y.xreds ↔ z ∈ s.sys.xreds)))) ∧
    (sent →
      (dest.getLsbD 63 = false → dest.toNat = s.sys.ctl.packageId → ∃ u, Does effect s u ∧ u.stores = [] ∧
        u.sys.ops = s.sys.ops.filter (fun o => o.id != p.id) ∧
        (∀ n, (u.sys.context p.ctx).counter n = if n = c.toNat then x.counter n + add else x.counter n)) ∧
      (dest.getLsbD 63 = true → evEnabled s.sys.ctl.evcfg = true →
        (s.sys.ctl.eventTail - s.sys.ctl.eventHead).toNat < evSize s.sys.ctl.evcfg → ∃ u data, Does effect s u ∧
        u.stores = [.bytes (mainKey 2 (evBase s.sys.ctl.evcfg + 32 * (s.sys.ctl.eventTail.toNat % evSize s.sys.ctl.evcfg))) data] ∧
        data.length = 32 ∧ data.take 4 = leBytes 2 5 ++ leBytes 2 p.ctx ∧
        data.drop 16 = leBytes 8 c.toNat ++ leBytes 8 add.toNat ∧ u.sys.ctl.eventTail = s.sys.ctl.eventTail + 1)) ∧
    ((∀ u ∈ s.sys.unseen, u.origin ≠ .host) → (∀ r ∈ s.sys.reqs, r.origin ≠ .host) →
      s.sys.ctl.recovery = false → s.sys.ctl.held = false → ∃ u, Does (.hostCounterWrite ctx c v) s u ∧ u.stores = [] ∧ (u.sys.context ctx).counter c.toNat = v ∧
        ∀ n, n ≠ c.toNat → (u.sys.context ctx).counter n = (s.sys.context ctx).counter n) ∧
    (s.sys.xreds.find? (fun z => z.1 == ctx && z.2.1 == g.toNat) = some (ctx, g.toNat, l) → cs = first :: rest →
      cs.length = grp.2 → peers.length + 1 = maskCount grp.1 → s.sys.maskReached grp.1 = true → s.sys.op? p.id = some p →
      (∃ z ∈ cs, z.op = p.id) →
      ((∀ z ∈ rest, z.xop = first.xop) → (∀ z ∈ peers, z.1 = some first.xop) → ∃ u z, Does reduce s u ∧ u.stores = [] ∧ u.sys.op? p.id = some z ∧ z.stage = .done ∧
        z.err = p.err ∧ ∀ i, i < 32 → (codeV (p.pendV.headD 0) i, total i) ∈ z.results ∧
          (codeV (p.pendV.headD 0 + 1) i, total i >>> 32) ∈ z.results) ∧
      (((∃ z ∈ rest, z.xop ≠ first.xop) ∨ ∃ z ∈ peers, z.1 ≠ some first.xop) → ∃ u z, Does reduce s u ∧ u.stores = [] ∧
        u.sys.op? p.id = some z ∧ z.stage = .done ∧ z.err = some (trapOf .membership (g.zeroExtend 64)))) ∧
    (s.sys.maskReached grp.1 = false → Does reduce s (.of s.sys))

/-! ### Pre-emption, the context switch and freezes -/

/-- R454 to R459, R415: a pre-emption request is recorded where its frames fit, and refused with a status where they do not, or with SIZE 0; a sub-warp stops at a clause boundary that permits it after 2^20 cycles and at any after
2^21, or at the word at which it waits; a stopped warp with nothing outstanding leaves, its frame holding its registers as R457 lays them out; the blocks of a launch cluster leave with its last warp, or
once that has exited (R458); and a block returns with
the registers of the frame, what no record named reading as at warp start. A request is granted where what it needs fits beside what is owed to those granted before it. That a spill stack reads as zero after a
restore is the model's choice (log 45), and so is what the manual leaves open here besides (logs 30, 32, 75, 78 and 97). -/
def Obligations.Preemption : Prop :=
  ∀ (s : State) (unit : PreemptUnit) (k : Block) (ks : List Block) (w : Warp) (b : Sub) (p : Preempt) (sb : SavedBlock) (x : SavedWarp) (ctx : Nat),
    let y := s.sys
    let named := y.blocks.filter (fun z => unitNames unit z && !z.ending && z.engineWarp.isNone)
    let ask : Instr := .preemptRequest unit
    let whole := (∃ id, unit = .block id) → ∀ z ∈ named, z.size = 1
    let opens := fun (c : Nat) (l : List (Nat × Nat × Bool)) => ∀ a ∈ l, y.opens c a.1 a.2.1 a.2.2 = true
    let quiet := fun l : List (Nat × Nat × Bool) => ∀ a ∈ l, a.2.2 = false → y.quiet a.1 a.2.1 = true
    let stop : Instr := .preemptTimeout w.id b.id
    let waited := y.time.cycle - p.cycle
    let may := y.warp? w.id = some w ∧ w.sub? (some b.id) = some b ∧ y.block? w.block = some k ∧ y.preempting k = some p ∧
      k.started = true ∧ b.stopped = false ∧ (y.die (dieOf k.core)).halted = false ∧ y.ctl.held = false
    let stops := Does stop s (.of (y.setWarp { w.setSub (some b.id) { b with stopped := true } with hint := none }))
    let live := w.hint.bind (hintRecord s k)
    let at_ := y.nextFrame k.ctx
    let now := y.time
    let back : Instr := .preemptRestore sb.block.id
    let owing := y.blocks.filter (fun z => z.ctx == ctx && !z.ending && z.engineWarp.isNone &&
      (named.any (fun m => m.id == z.id) || y.preempts.any (fun q => unitNames q.unit z)))
    let owes := (owing.map (fun z => z.frameSize + ((y.warps.filter (fun v => v.block == z.id)).map Warp.frameSize).sum)).sum + y.switchOwes ctx
    let fits := (y.context ctx).saveSize ≠ 0 ∧ y.nextFrame ctx + owes ≤ (y.context ctx).saveBase + (y.context ctx).saveSize
    let free := y.ctl.held = false ∧ y.ctl.recovery = false
    (free → unitContext unit named = none ∨ ¬ whole → Does ask s (.of (y.answered .invalid))) ∧
    (free → unitContext unit named = some ctx → whole →
      (¬ fits → Does ask s (.of (y.answered .noSpace))) ∧
      (fits →
        (named = [] ∨ (∃ q ∈ y.preempts, q.unit = unit) → Does ask s (.of (y.answered .ok))) ∧
        (named = k :: ks → (∀ q ∈ y.preempts, q.unit ≠ unit) → Does ask s (.of
          (({ y with preempts := y.preempts ++ [{ unit := unit, cycle := y.time.cycle }] } : Sys).answered .ok))))) ∧
    (may → b.wait = .none → b.place = .boundary →
      (2 ^ 20 ≤ waited → s.permitsHere w k b = true → stops) ∧ (2 ^ 21 ≤ waited → stops) ∧
      (waited < 2 ^ 21 → s.permitsHere w k b = false → Does stop s (.of y))) ∧
    (may → b.wait ≠ .none → b.wait ≠ .debugger → 2 ^ 20 ≤ waited → stops) ∧
    (may → waited < 2 ^ 20 → Does stop s (.of y)) ∧
    (y.warp? w.id = some w → y.block? w.block = some k → y.maySave w k = true → w.budget ≤ 256 →
      opens k.ctx (saveAccesses s w k) → y.accessFails (mainKey 0 at_) w.frameSize false = none →
      (w.hint.map (walkQuiet s k.ctx)).getD true = true → quiet (saveAccesses s w k) →
      ∃ u data more, Does (.preemptSave w.id) s (recallFirst s u) ∧ u.sys.warp? w.id = none ∧ u.stores = .bytes (mainKey 0 at_) data :: more ∧
        (∃ z ∈ u.sys.saved, z.block.id = k.id ∧ ∃ q ∈ z.warps, q.warp.id = w.id ∧ q.frame = at_ ∧ q.live = live ∧
          q.warp.sregs = w.sregs ∧ q.warp.vregs = w.vregs) ∧
        data.length = 3072 + 136 * w.budget + (if w.access.isSome then 8704 else 0) ∧
        data.take 2 = leBytes 2 1 ∧ (data.drop 4).take 4 = leBytes 4 data.length ∧
        (∀ c, w.subs.head? = some c → (data.drop 8).take 16 = leBytes 8 c.pc.toNat ++ leBytes 8 c.header.toNat) ∧
        (data.drop 24).take 8 = leBytes 8 k.tskid.toNat ∧
        (∀ r, r < 128 → (data.drop (2048 + 8 * r)).take 8 = leBytes 8 (if liveS live r then (w.sn r).toNat else 0)) ∧
        (∀ v i, v < w.budget → i < 32 →
          (data.drop (3072 + 128 * v + 4 * i)).take 4 = leBytes 4 (if liveV live v then (w.vl v i).toNat else 0)) ∧
        (∀ v, v < w.budget → liveV live v = true → (data.drop (3072 + 128 * w.budget + 8 * v)).take 8 =
          leBytes 4 ((w.shapes[v]?).getD 0x80).toNat ++ leBytes 4 ((w.tops[v]?).getD 0).toNat)) ∧
    (y.warp? w.id = none → y.saved.find? (fun z => z.warps.any (fun q => q.warp.id == w.id)) = some sb → sb.out = false → y.ctl.held = false →
      (∀ v ∈ y.warps, ∀ z ∈ y.blocks, z.first = sb.block.first → v.block ≠ z.id) →
      (∀ z ∈ y.blocks, z.first = sb.block.first → ∀ v ∈ y.saved, v.block.id = z.id → v.block.first = z.first ∧ v.out = false) →
      (∀ q ∈ y.ops, ∀ z ∈ y.blocks, z.first = sb.block.first → q.block ≠ z.id) →
      opens sb.block.ctx (clusterFrames (y.leavers sb.block.first) (y.nextFrame sb.block.ctx)) →
      ∃ u, Does (.preemptSave w.id) s (recallFirst s u) ∧ (∀ z ∈ u.sys.blocks, z.first ≠ sb.block.first) ∧
        ∃ z ∈ u.sys.saved, z.block.id = sb.block.id ∧ z.out = true) ∧
    (free → y.savedCluster sb.block.id = [sb] → sb.warps = [x] → y.roomBack sb = true → x.intact s.mem = true →
      (y.context sb.block.ctx).held = false → (y.context sb.block.ctx).frozen = false → y.warp? x.warp.id = none →
      y.block? sb.block.id = none → opens sb.block.ctx (restoreReads [sb]) → quiet (restoreReads [sb]) →
      (∀ c ∈ x.warp.subs, match c.wait with
        | .barrier _ _ _ _ _ => False
        | _ => True) →
      ∃ u v z, Does back s (recallFirst s u) ∧
        .clear (scratchKey sb.block.core x.warp.spillBase) x.warp.spillSize ∈ u.stores ∧ u.sys.warp? x.warp.id = some v ∧ u.sys.block? sb.block.id = some z ∧ z.core = sb.block.core ∧
        z.scrBase = sb.block.scrBase ∧ v.part = x.warp.part ∧ v.slot = x.warp.slot ∧
        (∀ r : SReg, v.s r = if liveS x.live r.toNat then s.mem.word (mainKey 0 x.frame + 2048 + 8 * r.toNat) else 0) ∧
        (∀ r i, r < 256 → i < 32 → v.vl r i = if r < x.warp.budget ∧ liveV x.live r = true then
          BitVec.ofNat 32 (s.mem.value (mainKey 0 x.frame + 3072 + 128 * r + 4 * i) 4) else 0) ∧
        (∀ r, r < 256 → liveV x.live r = false → v.shapes[r]? = some 0x80 ∧ v.tops[r]? = some 0) ∧
        (∀ c, v.sub? (some c) = (x.warp.sub? (some c)).map (fun q => q.restored now.now now.cycle)) ∧
        { v with sregs := x.warp.sregs, vregs := x.warp.vregs, shapes := x.warp.shapes, tops := x.warp.tops,
                 subs := x.warp.subs, access := x.warp.access } = x.warp)

/-- R460, R473, R55: the steps of a context switch come one after the other, each only when what it waits for is over, and none begins while a die of its context is halted; the
released freeze lets its context, function or port go on, or, when it aborts, takes the context's warps and blocks with it and aborts its grids. What the manual leaves open here is the
model's choice (logs 78, 79 and 97). -/
def Obligations.SwitchesAndFreezes : Prop :=
  ∀ (s : State) (out inn n : Nat) (w : Switch) (f : Freeze) (ctx : Nat),
    let y := s.sys
    let go := fun (p : SwitchPhase) => Instr.contextSwitch out inn p
    let free := y.ctl.held = false ∧ y.ctl.recovery = false
    let busy := fun (p : SwitchPhase) => y.onHaltedDie out = true ∨ (p = .restore ∧ y.onHaltedDie inn = true)
    let due := fun (p q : SwitchPhase) => y.switching = some w ∧ w.out = out ∧ w.inn = inn ∧ w.phase = p ∧ free ∧ switchNext p = some q
    let after := fun (p q : SwitchPhase) => due p q ∧ ¬ busy q
    let at_ := fun (u : Upd) (p : SwitchPhase) => u.sys.switching = some { out := out, inn := inn, phase := p, tick := y.time.now }
    let mine := y.blocks.filter (fun k => k.ctx == out && !k.ending && k.engineWarp.isNone)
    let tables := y.bins.filter (fun b => b.ctx == out)
    let dies := (y.ownedDies out).map (fun d => y.dieScratch d out)
    let need := y.saveNeed mine + dies.sum + binsNeed * tables.length
    let place := mainKey 0 (y.nextFrame out)
    let data := tables.flatMap Bins.savedBytes
    let x := y.savedContext out
    let z := y.savedContext inn
    let still := fun (p : SwitchPhase) => Does (go p) s (.of y)
    let held := y.freezes[n]? = some f ∧ f.released = false
    let others := ∃ g ∈ y.freezes.set n { f with released := true }, g.released = false ∧ g.held = f.held
    ((y.ctl.held = true ∨ y.ctl.recovery = true) → ∀ p, still p) ∧
    (free → y.switching = none →
      (∀ p, p ≠ .stop → still p) ∧
      (busy .stop → Does (go .stop) s (.of (y.answered .busy))) ∧
      (¬ busy .stop → y.saveFits out need = false → Does (go .stop) s (.of (y.answered .noSpace))) ∧
      (¬ busy .stop → y.saveFits out need = true → ∃ u, Does (go .stop) s u ∧ u.stores = [] ∧ at_ u .stop ∧
        (u.sys.context out).held = true ∧ ∀ c, c ≠ out → u.sys.context c = y.context c)) ∧
    (∀ p q, due p q → busy q → Does (go q) s (.of (y.answered .busy))) ∧
    (after .stop .preempt → ∃ u, Does (go .preempt) s u ∧ u.stores = [] ∧ at_ u .preempt ∧
      (mine ≠ [] → u.sys.preempts = y.preempts ++ [{ unit := .context out, cycle := y.time.cycle }])) ∧
    (after .preempt .drain →
      ((∃ k ∈ y.blocks, k.ctx = out) ∨ (∃ p ∈ y.ops, p.ctx = out) ∨ (∃ r ∈ y.reqs, r.ctx = out) → still .drain) ∧
      ((∀ k ∈ y.blocks, k.ctx ≠ out) → (∀ p ∈ y.ops, p.ctx ≠ out) → (∀ r ∈ y.reqs, r.ctx ≠ out) →
        ∃ u, Does (go .drain) s u ∧ u.stores = [] ∧ at_ u .drain)) ∧
    (after .drain .saveBins →
      (tables = [] → ∃ u, Does (go .saveBins) s u ∧ u.stores = [] ∧ at_ u .saveBins ∧ u.sys.bins = y.bins) ∧
      (tables ≠ [] → y.NothingHeld → y.opens out place data.length true = true → y.accessFails place data.length false = none →
        ∃ u, Does (go .saveBins) s u ∧ u.stores = [.bytes place data] ∧ at_ u .saveBins ∧
          u.sys.bins = y.bins.filter (fun b => b.ctx != out) ∧
          u.sys.savedContext out = { x with bins := tables, binAt := y.nextFrame out, ctx := out })) ∧
    (after .saveBins .saveScratch →
      (y.ownedDies out = [] → ∃ u, Does (go .saveScratch) s u ∧ at_ u .saveScratch ∧ u.stores = []) ∧
      ∀ d, y.ownedDies out = [d] → (∀ e ∈ x.dies, e.1 ≠ d) → y.NothingHeld → y.opens out place (y.dieScratch d out) true = true →
        y.accessFails place (y.dieScratch d out) false = none →
        ∃ u, Does (go .saveScratch) s u ∧ at_ u .saveScratch ∧
          (u.sys.savedContext out).dies = x.dies ++ [(d, (y.die d).dsrcfg, y.nextFrame out)] ∧
          u.stores = copyRange s.mem (dieKey d 0) place (y.dieScratch d out)) ∧
    (after .saveScratch .settle →
      (y.settled controlReader (mkWit 2 0 w.tick) = .yes → ∃ u, Does (go .settle) s u ∧ u.stores = [] ∧ at_ u .settle) ∧
      (y.settled controlReader (mkWit 2 0 w.tick) ≠ .yes → still .settle)) ∧
    (after .settle .install → ∃ u, Does (go .install) s u ∧ u.stores = [] ∧ at_ u .install ∧
      (out = inn → ∀ t ∈ u.sys.tlb, t.ctx ≠ y.ctxTag out)) ∧
    (after .install .restore → z.dies = [] → (∀ b ∈ y.saved, b.block.ctx ≠ inn) →
      (z.bins ≠ [] → y.opens inn (mainKey 0 z.binAt) (z.bins.flatMap Bins.savedBytes).length false = true ∧
        y.quiet (mainKey 0 z.binAt) (z.bins.flatMap Bins.savedBytes).length = true) →
      ∃ u, Does (go .restore) s u ∧ u.stores = [] ∧ u.sys.switching = none ∧ (u.sys.context inn).held = false ∧
        u.sys.bins = y.bins ++ z.bins ∧ u.sys.ctl = { y.ctl with status := .ok }) ∧
    (held → free → (y.grids.map (·.launch)).Nodup → ∃ u v, Does (.freezeResume n) s u ∧ Does (.freezeAbort n) s v ∧ u.stores = [] ∧
      u.sys.freezes = y.freezes.set n { f with released := true } ∧ v.sys.freezes = y.freezes.set n { f with released := true } ∧
      u.sys.warps = y.warps ∧ u.sys.blocks = y.blocks ∧ u.sys.ops = y.ops ∧
      (f.held = .context ctx →
        (others → (u.sys.context ctx).frozen = (y.context ctx).frozen) ∧ (¬ others → (u.sys.context ctx).frozen = false) ∧
        (∀ c, c ≠ ctx → u.sys.context c = y.context c) ∧
        (∀ q ∈ v.sys.warps, ∀ k, y.block? q.block = some k → k.ctx ≠ ctx) ∧
        (∀ g ∈ v.sys.grids, g.ctx = ctx → g.state = .complete ∨ g.state = .aborted) ∧
        (∀ k ∈ v.sys.blocks, k.ctx = ctx → k.started = true) ∧ (∀ b ∈ v.sys.saved, b.block.ctx ≠ ctx)) ∧
      (∀ fn, f.held = .function fn →
        (others → u.sys.ctl.hostFrozen = y.ctl.hostFrozen) ∧
        (¬ others → u.sys.ctl.hostFrozen = y.ctl.hostFrozen.filter (fun i => i != fn))) ∧
      (∀ p, f.held = .ingress p →
        (others → u.sys.links.frozenPorts = y.links.frozenPorts) ∧
        (¬ others → u.sys.links.frozenPorts = y.links.frozenPorts.filter (fun i => i != p))))

/-! ### The host, the paths and the extents -/

/-- R89, R130, R155, R461 to R465, R54, R55, R163, R467, R468: a host write is stored with the current tick and completed, a host read waits for the writes it must see and returns the sector, a snoop
changes nothing; an access that no region permits freezes its function, whose accesses end with an error or with poison; a path that goes down fails every request on it with LINK, and the 16th failed
flit in succession takes its port down; the clock of a package that is not the master is set forward only, no request's time passing meanwhile, and a package that has left its domain keeps its ports down. What the
manual leaves open here is the model's choice (logs 58, 59, 98, 99, 112 and 117). -/
def Obligations.HostAndPaths : Prop :=
  ∀ (s : State) (fn pa line port : Nat) (data : List Byte) (path : Path) (p : Op) (count : BitVec 52),
    let y := s.sys
    let key := mainKey 0 (pa % 2 ^ 42)
    let n := data.length
    let sector := key / 64 * 64
    let served := y.ctl.booted = true ∧ y.ctl.held = false ∧ y.links.cxlDown = false
    let gone := y.ctl.hostFrozen.contains fn = true
    let may := fun (k m : Nat) (write : Bool) => y.permits .hostFn (y.hostMask fn) k m write
    let write : Instr := .cxlMemWrite fn pa data
    let read : Instr := .cxlMemRead fn pa
    let reply := fun (k : Nat) (st : HostStatus) (bs : List Byte) => some { fn := fn, pa := keyPA k, status := st, data := bs : HostAnswer }
    let only := fun (i : Instr) (k : Nat) (st : HostStatus) => Does i s (.of { y with hostAnswer := reply k st [] })
    let frozen := fun (i : Instr) (k : Nat) (w : Bool) (st : HostStatus) => ∃ u, Does i s u ∧
      u.sys.ctl.hostFrozen = y.ctl.hostFrozen ++ [fn] ∧ u.sys.hostAnswer = reply k st [] ∧
      u.sys.freezes = y.freezes ++
        [{ held := .function fn, requester := .host, ctx := fn, pa := keyPA k, write := w, tick := y.clk, released := false }] ∧
      (evEnabled y.ctl.evcfg = false → u.stores = [] ∧ u.sys.unseen = y.unseen)
    let isDown := fun (l : Links) (q : Path) => match q with
      | .cxl => l.cxlDown
      | .expander => l.expanderDown
      | .port m => l.portDown.toList.getD m false
    let on := fun q : Path => ∀ m, q = .port m → m < 8
    let stuck := y.links.left = true ∧ ∃ m, path = .port m
    let fails := y.links.retries.toList.getD port 0 + 1
    let ahead := (count.toNat + 2 ^ 52 - y.clk) % 2 ^ 52
    (served → 0 < n → pa % 64 + n ≤ 64 →
      (gone → only write key .error) ∧ (¬ gone → may key n true = false → frozen write key true .error) ∧
      (¬ gone → may key n true = true →
        (y.frozenFrame key = true ∨ y.readWaits key n 0 = true → Does write s (.of y)) ∧
        (y.frozenFrame key = false → y.readWaits key n 0 = false →
          ((y.accessFails key n false).isSome = true → only write key .error) ∧
          (y.accessFails key n false = none → ∃ u, Does write s u ∧ u.stores = [.bytes key data] ∧ u.sys.hostAnswer = reply key .ok [] ∧
            u.sys.unseen = y.unseen ++ [{ origin := .host, tick := y.time.now, key := key, size := n, op := 0 }])))) ∧
    (served →
      (gone → only read sector .poisoned) ∧ (¬ gone → may sector 64 false = false → frozen read sector false .poisoned) ∧
      (¬ gone → may sector 64 false = true →
        ((y.accessFails sector 64 false).isSome = true → only read sector .error) ∧
        (y.accessFails sector 64 false = none →
          (y.quiet sector 64 = false → Does read s (.of (y.holdRead .host [(sector, 64)]))) ∧
          (y.quiet sector 64 = true → ∃ u, Does read s u ∧ u.stores = [] ∧
            (y.poisoned sector 64 = true →
              u.sys.hostAnswer = reply sector .poisoned (s.mem.bytes sector 64) ∧ u.sys.hostHeld = y.hostHeld) ∧
            (y.poisoned sector 64 = false → u.sys.hostAnswer = reply sector .ok (s.mem.bytes sector 64) ∧ sector ∈ u.sys.hostHeld ∧
              Table.get? u.sys.holder sector = some fn))))) ∧
    (¬ served → Does write s (.of y) ∧ Does read s (.of y)) ∧
    Does (.hostSnoop line) s (.of y) ∧
    (on path → (y.reqs.map (·.id)).Nodup → ∃ u, Does (.linkDown path) s u ∧ u.stores = [] ∧ isDown u.sys.links path = true ∧
      (∀ q, q ≠ path → isDown u.sys.links q = isDown y.links q) ∧
      (∀ r ∈ y.reqs, y.onPath path r.key = false → r ∈ u.sys.reqs) ∧
      (∀ r ∈ y.reqs, y.onPath path r.key = true → ∀ q ∈ u.sys.reqs, q.id = r.id → ∃ a, q.kind = .asked a (some .link)) ∧
      (y.op? p.id = some p → p.err = none →
          (∃ r ∈ y.reqs, y.onPath path r.key = true ∧ r.op = p.id ∧ r.isHeld = false ∧ ∀ a o, r.kind ≠ .asked a o) →
        ∃ q t, u.sys.op? p.id = some q ∧ q.err = some t ∧ t.reason = .link)) ∧
    (stuck ∨ y.ctl.recovery = true ∨ y.ctl.held = true → Does (.linkRestore path) s (.of y)) ∧
    (on path → ¬ stuck → y.ctl.recovery = false → y.ctl.held = false → ∃ v, Does (.linkRestore path) s v ∧ v.stores = [] ∧ isDown v.sys.links path = false ∧
      (∀ q, q ≠ path → isDown v.sys.links q = isDown y.links q) ∧ v.sys.reqs = y.reqs) ∧
    (port < 8 → ∃ u, Does (.flitCrcFail port) s u ∧ u.stores = [] ∧
      (fails < 16 → u.sys.links.retries.toList.getD port 0 = fails ∧ u.sys.links.portDown = y.links.portDown ∧ u.sys.reqs = y.reqs) ∧
      (16 ≤ fails → u.sys.links.retries.toList.getD port 0 = 0 ∧ u.sys.links.portDown.toList.getD port false = true ∧
        ∀ r ∈ u.sys.reqs, y.onPath (.port port) r.key = false ∨ ∃ a, r.kind = .asked a (some .link))) ∧
    ((y.links.left = true ∨ y.links.master = y.ctl.packageId ∨ 2 ^ 51 ≤ ahead) → Does (.clockSync count) s (.of y)) ∧
    (y.links.left = false → y.links.master ≠ y.ctl.packageId → ahead < 2 ^ 51 →
      ∃ u, Does (.clockSync count) s u ∧ u.stores = [] ∧ u.sys.clk = count.toNat ∧ u.sys.time.now = y.time.now + ahead ∧
      { u.sys with time := { u.sys.time with now := y.time.now }, links := y.links, reqs := y.reqs, snooping := y.snooping } = y ∧
      u.sys.reqs = y.reqs.map (fun r => { r with left := r.left + ahead }) ∧
      u.sys.snooping = y.snooping.map (fun q => { q with tick := q.tick + ahead }) ∧
      u.sys.links = { y.links with synced := true }) ∧
    (∃ u, Does .skewLoss s u ∧ u.stores = [] ∧ u.sys.links.left = true ∧ ∀ m, m < 8 → u.sys.links.portDown.toList.getD m false = true)

/-- R158 to R161, R470, R472: an extent's withdrawn regions come online with zero bytes; an orderly release makes its online regions releasing, and then, their accepted requests performed and their lines written
back, withdrawn; the host is acknowledged of both; a forced one withdraws them at once, fails the writes under way to them and drops their lines. In recovery, or held in reset, the package takes none of them. -/
def Obligations.ExtentsComeAndGo : Prop :=
  ∀ (s : State) (die first count : Nat) (r : Req),
    let y := s.sys
    let state := fun (z : Sys) (i : Nat) => ((z.die die).region i).state
    let within := fun i : Nat => first ≤ i ∧ i < first + count ∧ i < 2048
    let at_ := fun (a i : Nat) => a < 2 ^ 48 ∧ a / 2 ^ 37 = die ∧ a % 2 ^ 37 / 2 ^ 26 = i
    let gone := fun i : Nat => within i ∧ (state y i = 1 ∨ state y i = 2)
    let named := fun (l : List Nat) (st : Nat) => ∀ i, i ∈ l ↔ within i ∧ state y i = st
    (y.ctl.recovery = true ∨ y.ctl.held = true → ∀ j : Instr, j ∈ [.extentAdd die first count, .extentReleaseOrderly die first count,
      .extentReleaseForced die first count] → Does j s (.of y)) ∧
    (y.ctl.recovery = false → y.ctl.held = false → die < 6 →
      (∃ u l, Does (.extentAdd die first count) s (recallFirst s u) ∧ named l 0 ∧ u.sys.ctl = { y.ctl with extentAck := some (die, l, true) } ∧
        (∀ i, state u.sys i = if within i ∧ state y i = 0 then 1 else state y i) ∧
        (s.mem.wf = true → ∀ a,
          (∀ i, within i → state y i = 0 → at_ a i → (commit s u).mem.byte a = 0) ∧
          ((∀ i, within i → state y i = 0 → ¬ at_ a i) → (commit s u).mem.byte a = s.mem.byte a))) ∧
      ((∃ i, within i ∧ state y i = 1) → ∃ u, Does (.extentReleaseOrderly die first count) s u ∧ u.stores = [] ∧
        u.sys.cached = y.cached ∧ ∀ i, state u.sys i = if within i ∧ state y i = 1 then 2 else state y i) ∧
      ((∀ i, within i → state y i ≠ 1) → (∃ r ∈ y.reqs, r.arrived = true ∧ ∃ i, within i ∧ state y i = 2 ∧ at_ r.key i) →
        Does (.extentReleaseOrderly die first count) s (.of y)) ∧
      ((∀ i, within i → state y i ≠ 1 ∧ state y i ≠ 2) → Does (.extentReleaseOrderly die first count) s (.of y)) ∧
      ((∀ i, within i → state y i ≠ 1) → (∃ i, within i ∧ state y i = 2) →
        (∀ r ∈ y.reqs, r.arrived = true → ∀ i, within i → state y i = 2 → ¬ at_ r.key i) →
        ∃ u l, Does (.extentReleaseOrderly die first count) s u ∧ u.stores = [] ∧ named l 2 ∧
        u.sys.ctl = { y.ctl with extentAck := some (die, l, false) } ∧
        (∀ i, state u.sys i = if within i ∧ state y i = 2 then 0 else state y i) ∧
        (∀ c ∈ u.sys.cached, ∀ i, within i → state y i = 2 → ¬ at_ c.1 i)) ∧
      (((∃ i, gone i) → ∃ u, Does (.extentReleaseForced die first count) s u ∧
          (evEnabled y.ctl.evcfg = false → u.stores = []) ∧
          (∀ i, state u.sys i = if gone i then 0 else state y i) ∧ (∀ c ∈ u.sys.cached, ∀ i, gone i → ¬ at_ c.1 i) ∧
          (∀ i, r ∈ y.reqs → r.kind.writes = true → gone i → at_ r.key i → ∀ q ∈ u.sys.reqs, q.id ≠ r.id)) ∧
        ((∀ i, ¬ gone i) → Does (.extentReleaseForced die first count) s (.of y))))

/-! ### Registers of the control die -/

/-- R65, R67, R146 to R148, R151, R162, R417, R435, R456, R466, R470, R474: a write of a configuration register that it accepts sets its writable fields, with status OK, and leaves everything else; one that it does not
accept changes nothing but the status, INVALID; in recovery, or held in reset, no register answers. A change of DSRCFG comes in three steps, BUSY between the last two, and zeroes the die scratchpad; a new hash
version permutes the lines of its region; a queue whose control line the firewall does not open freezes its context. That V of Root going from 0 to 1 is the creation that clears the external counters is the model's
reading (log 27), that the lines of a rehashed region keep their slots its choice (log 18), and so is that a queue whose control line cannot be read does not come into use (log 128), and what the manual leaves open
here besides (logs 26, 28, 29, 74 and 97). -/
def Obligations.ConfigurationWrites : Prop :=
  ∀ (s : State) (die i q ctx : Nat) (v old : Word) (firmware : Bool),
    let y := s.sys
    let ok := y.answered .ok
    let d := y.die die
    let refused := fun i : Instr => Does i s (.of (y.answered .invalid))
    let ctl := fun (i : Instr) (c : Control) => Does i s (.of { y with ctl := { c with status := .ok } })
    let dsr : Instr := .dsrcfgWrite die v
    let fields := v &&& 0x0FFF000F
    let now := d.dsrcfg &&& 0x0FFF000F
    let g := d.region i
    let table : Instr := .regionTableWrite die i v
    let ver := (v &&& 3).toNat
    let regionOk := v &&& 0xFFFFFFFF0000FF2C = 0
    let set := { d with regions := Table.set d.regions i { g with noremap := v.getLsbD 4, hver := ver } }
    let inside := fun a : Nat => a < 2 ^ 48 ∧ a / 2 ^ 37 = die ∧ a % 2 ^ 37 / 2 ^ 26 = i
    let toward := fun a : Nat => a / 65536 * 65536 + 256 * (a / 256 % 256 ^^^ (Config.frameHash g.hver (a % 2 ^ 37 / 65536)).toNat ^^^
      (Config.frameHash ver (a % 2 ^ 37 / 65536)).toNat) + a % 256
    let field := fun (m : Word) (reg : Word) => (reg &&& ~~~m) ||| (v &&& m)
    let timeout := fun n : Nat => 50 ≤ n ∧ n ≤ 64000
    let log := fun n : Nat => 16 ≤ n ∧ n ≤ 48
    let x := y.ctl.queue q
    let line := mainKey 0 (qcfgBase v)
    let qctx := qcfgCtx v
    let shut := { x with cfg := v &&& 0x7FFFFFFFFFFFFFFF }
    let fresh := qcfgEn v = true ∧ (qcfgEn x.cfg = false ∨ qcfgBase x.cfg ≠ qcfgBase v)
    let c := y.context ctx
    let desc : Instr := .contextDescriptorWrite ctx i v
    let shape : Instr := .shapeRecordWrite i v
    let remap : Instr := .remapcfgWrite die v firmware
    let hang : Instr := .hangcfgWrite ctx v
    (y.ctl.recovery = false → y.ctl.held = false →
      (die < 6 → dsrcfgOk v = true →
        (d.dsrNew = none → fields ≠ now → Does dsr s (.of (ok.setDie die { d with dsrNew := some fields }))) ∧
        (d.dsrNew = none → fields = now → Does dsr s (.of ok)) ∧ (d.dsrNew = some old → old ≠ fields → Does dsr s (.of y)) ∧
        (d.dsrNew = some fields → d.dsrcfg &&& 0x80000000 = 0 →
          (y.ownersOn die now fields = true → Does dsr s (.of y)) ∧
          (y.ownersOn die now fields = false → ∃ u, Does dsr s u ∧ u.stores = [] ∧ (u.sys.die die).dsrcfg = now ||| 0x80000000 ∧
            (∀ z ∈ u.sys.cached, z ∈ y.cached))) ∧
        (d.dsrNew = some fields → d.dsrcfg &&& 0x80000000 ≠ 0 → ∃ u, Does dsr s u ∧ u.stores = [.clear (dieKey die 0) (2 ^ 27)] ∧
          (u.sys.die die).dsrcfg = fields ∧ (u.sys.die die).dsrNew = none)) ∧
      ((6 ≤ die ∨ dsrcfgOk v = false) → refused dsr) ∧
      (die < 6 → i < 2048 → regionOk →
        (ver = g.hver → Does table s (.of (ok.setDie die set))) ∧
        (ver ≠ g.hver → ∃ u, Does table s u ∧ { u.sys with poison := y.poison } = ok.setDie die set ∧
          (s.mem.wf = true → ∀ a, (inside a → (commit s u).mem.byte (toward a) = s.mem.byte a) ∧
            (¬ inside a → (commit s u).mem.byte a = s.mem.byte a)))) ∧
      ((6 ≤ die ∨ 2048 ≤ i ∨ ¬ regionOk) → refused table) ∧
      (i < 64 → v &&& 0xFFFFFFFFFFFF0FC0 = 0 → v &&& 0x7000 ≠ 0x7000 → ctl shape { y.ctl with shapes := y.ctl.shapes.setIfInBounds i v }) ∧
      ((64 ≤ i ∨ v &&& 0xFFFFFFFFFFFF0FC0 ≠ 0 ∨ v &&& 0x7000 = 0x7000) → refused shape) ∧
      (die < 6 → v &&& 63 = 0 → (v &&& 0xFFFFFFFFFFC0).toNat < kind00End → Does remap s (.of (ok.setDie die { d with
        remapcfg := field (if firmware then 0xFFFF000000000000 else 0xFFFFFFFFFFC0) d.remapcfg }))) ∧
      ((6 ≤ die ∨ v &&& 63 ≠ 0 ∨ kind00End ≤ (v &&& 0xFFFFFFFFFFC0).toNat) → refused remap) ∧
      (v &&& 0x7FF000000000003F = 0 → ctl (.remaplogWrite v) { y.ctl with remaplog := v }) ∧
      (v &&& 0x7FF000000000003F ≠ 0 → refused (.remaplogWrite v)) ∧
      (v &&& 0xFFFF000000000000 = 0 → timeout (bits v 47 32) → timeout (bits v 31 16) → timeout (bits v 15 0) →
        ctl (.ctocfgWrite v) { y.ctl with ctocfg := v }) ∧
      ((v &&& 0xFFFF000000000000 ≠ 0 ∨ ¬ timeout (bits v 47 32) ∨ ¬ timeout (bits v 31 16) ∨ ¬ timeout (bits v 15 0)) →
        refused (.ctocfgWrite v)) ∧
      (v &&& 0x3FC0FC0000000000 = 0 → log (bits v 53 48) → log (bits v 41 36) →
        Does hang s (.of (ok.setContext ctx { c with hangcfg := v }))) ∧
      ((v &&& 0x3FC0FC0000000000 ≠ 0 ∨ ¬ log (bits v 53 48) ∨ ¬ log (bits v 41 36)) → refused hang) ∧
      Does (.savecfgWrite ctx v) s (.of (ok.setContext ctx { c with savecfg := v &&& 0xFFFFFFFFFFFF0000 })) ∧
      ctl (.evcfgWrite v) { y.ctl with evcfg := field 0x800FFFFFFFFFFFE0 y.ctl.evcfg } ∧
      (q < 4096 → qcfgOk v = true →
        (¬ fresh → Does (.qcfgWrite q v) s (.of (ok.setQueue q { x with cfg := v }))) ∧
        (fresh → y.opens qctx line 12 false = true →
          (y.quiet line 12 = false → Does (.qcfgWrite q v) s (.of (y.holdRead .control [(line, 12)]))) ∧
          (y.quiet line 12 = true → (y.accessFails line 12 true).isSome = true → Does (.qcfgWrite q v) s (.of (ok.setQueue q shut))) ∧
          (y.quiet line 12 = true → y.accessFails line 12 true = none → ∃ z, z.cfg = v ∧ z.tail.toNat = s.mem.value line 4 ∧
            z.head.toNat = s.mem.value (line + 8) 4 ∧ Does (.qcfgWrite q v) s (.of ((y.fillFor line 12 false qctx 0).answered .ok |>.setQueue q z)))) ∧
        (fresh → y.opens qctx line 12 false = false → ∃ u, Does (.qcfgWrite q v) s u ∧ (u.sys.context qctx).frozen = true ∧
          u.sys.ctl.queue q = shut)) ∧
      ((4096 ≤ q ∨ qcfgOk v = false) → refused (.qcfgWrite q v)) ∧
      (i < 7 → ∃ u, Does desc s u ∧ u.stores = [] ∧ (∀ k, k ≠ ctx → u.sys.context k = y.context k) ∧
        (u.sys.context ctx).desc = c.desc.setIfInBounds i (if i = 0 then v &&& 0xFFFFFFFFFFFF else v) ∧
        { u.sys with contexts := y.contexts } = ok ∧
        (u.sys.context ctx).counters = (if i = 0 ∧ v.getLsbD 0 = true ∧ (c.desc[0]).getLsbD 0 = false then [] else c.counters) ∧
        (i = 3 → (u.sys.context ctx).ringTail = 0 ∧ (u.sys.context ctx).ringState = .ok ∧
          (u.sys.context ctx).ringStale.toNat = s.mem.value (mainKey 2 v.toNat + 8) 4)) ∧
      (7 ≤ i → refused desc)) ∧
    (y.ctl.recovery = true ∨ y.ctl.held = true → ∀ j : Instr, j ∈ [table, shape, remap, .remaplogWrite v, .ctocfgWrite v, hang, .savecfgWrite ctx v,
      .evcfgWrite v, .qcfgWrite q v, desc] → Does j s (.of y))

/-- R53, R412, R433, R452, R453, R462, R406, R467, R468, R470, R472, R474: the plain registers take the values in their range, with status OK, from the physical function only; the fault log and the Sillage table
are cleared; a claim of the debug unit halts warps at BKPT, and its end lets them go on; a die halts and is released; in recovery the mailbox alone answers, and a package held in reset answers nothing. What the
manual leaves open here is the model's choice (logs 29, 94, 95 and 105). -/
def Obligations.PlainRegisterWrites : Prop :=
  ∀ (s : State) (die ctx n : Nat) (r : PlainReg) (v mask : Word) (core : Nat) (w : Warp) (k : Block) (b : Sub) (lo hi : Nat),
    let y := s.sys
    let ok := y.answered .ok
    let write := fun (r : PlainReg) => Instr.registerWrite true r v
    let ctl := fun (i : Instr) (c : Control) => Does i s (.of { y with ctl := { c with status := .ok } })
    let c := y.context ctx
    let keep := fun t : Table (Vector Nat 14) => t.filter (fun e => e.1 / 64 != core)
    let free := fun z : Sub => if z.wait = .debugger then { z with wait := .none } else z
    let fw : FwRegion := { base := lo, limit := hi, kind := (v &&& 3).toNat, read := v.getLsbD 2, write := v.getLsbD 3, classes := v.extractLsb' 4 4 }
    Does (.registerWrite false r v) s (.of y) ∧
    (y.ctl.held = false → Does (write .mailbox) s (.of { y with ctl := { y.ctl with mailbox := v } })) ∧
    (y.ctl.recovery = true ∨ y.ctl.held = true → (r ≠ .mailbox → Does (write r) s (.of y)) ∧ Does (.faultLogClear ctx) s (.of y)) ∧
    (y.ctl.held = true → Does (write .mailbox) s (.of y)) ∧
    (y.ctl.recovery = false → y.ctl.held = false →
      (r ≠ .mailbox → PlainReg.accepts r v = false → Does (write r) s (.of (y.answered .invalid))) ∧
      ctl (write .remapHead) { y.ctl with remapHead := v.setWidth 32 } ∧
      ctl (write .eventHead) { y.ctl with eventHead := v.setWidth 32 } ∧
      Does (write (.capva ctx)) s (.of (ok.setContext ctx { c with capva := v })) ∧
      (n < 16 → 0 < v.toNat → v.toNat ≤ 65535 →
        ctl (write (.grpcfg n mask)) { y.ctl with grpcfg := Table.set y.ctl.grpcfg n (mask, v.toNat) }) ∧
      ((16 ≤ n ∨ v.toNat = 0 ∨ 65535 < v.toNat) → Does (write (.grpcfg n mask)) s (.of (y.answered .invalid))) ∧
      (n < 64 → v.toNat < 8 → ctl (write (.route n)) { y.ctl with routes := Table.set y.ctl.routes n v.toNat }) ∧
      (1000 ≤ v.toNat → v.toNat ≤ 2400 → ctl (write .pwrcap) { y.ctl with pwrcap := v.toNat }) ∧
      ((v.toNat < 1000 ∨ 2400 < v.toNat) → Does (write .pwrcap) s (.of (y.answered .invalid))) ∧
      (v.toNat < 64 → ctl (write .packageId) { y.ctl with packageId := v.toNat }) ∧
      ctl (write (.hostMask n)) { y.ctl with hostMasks := Table.set y.ctl.hostMasks n v } ∧
      (n < 8 → ctl (write (.portMask n)) { y.ctl with portMasks := Table.set y.ctl.portMasks n v }) ∧
      (n < 64 → Does (write (.region n (lo, hi))) s (.of { ok with fwRegions := y.fwRegions.setIfInBounds n fw })) ∧
      (v.toNat < 64 → Does (write .clockMaster) s (.of { ok with links := { y.links with master := v.toNat } })) ∧
      (n < 64 → v.toNat ≤ 1 → ∃ u, Does (write (.departed n)) s u ∧ u.stores = [] ∧ { u.sys with links := y.links } = ok ∧
        { u.sys.links with gone := y.links.gone } = y.links ∧
        ∀ id, id ∈ u.sys.links.gone ↔ if id = n then v.toNat = 1 else id ∈ y.links.gone) ∧
      (n < 2 ^ 26 → Config.plainRegister n = true → ctl (write (.other n)) { y.ctl with others := Table.set y.ctl.others n v }) ∧
      ((2 ^ 26 ≤ n ∨ Config.plainRegister n = false) → Does (write (.other n)) s (.of (y.answered .invalid))) ∧
      Does (.faultLogClear ctx) s (.of (ok.setContext ctx { c with log := [], dropped := 0 })) ∧
      (∃ u t, Does (.sillageClear none) s u ∧ u.stores = [] ∧ u.sys.ctl = { y.ctl with sillage := [], status := .ok } ∧
        Does (.sillageClear (some core)) s t ∧ t.stores = [] ∧ t.sys.ctl = { y.ctl with sillage := keep y.ctl.sillage, status := .ok } ∧
        u.sys.warps = y.warps ∧ t.sys.warps = y.warps)) ∧
    (∃ u t, Does (.debugUnitClaim ctx true) s u ∧ Does (.debugUnitClaim ctx false) s t ∧ u.stores = [] ∧ t.stores = [] ∧
      u.sys = y.setContext ctx { c with claimed := true } ∧ (t.sys.context ctx).claimed = false ∧
      (y.warp? w.id = some w → y.block? w.block = some k → k.ctx = ctx → w.sub? (some b.id) = some b →
        ∃ z, t.sys.warp? w.id = some z ∧ z.sub? (some b.id) = some (free b) ∧ { z with subs := w.subs } = w)) ∧
    Does (.dieHalt die) s (.of (y.setDie die { y.die die with halted := true })) ∧
    Does (.dieRelease die) s (.of (y.setDie die { y.die die with halted := false }))

/-! ### Management: pages, monitors, boot and resets -/

/-- R50 to R52, R54, R55, R89, R149, R150, R152, R154, R85: a page migrates in six steps, each once the step before is done: its frame is frozen, the writes and atomics that its home had accepted drain, its lines are
copied, its leaf takes the new frame unless it has been written, or is not the context's to write, the page is invalidated, and the source released; what cannot migrate is turned away with a status; at the end of an epoch every conflict count is halved; a bank's next subarray is refreshed when its time has
come; a scrub counts a corrected word, and marks one that cannot be corrected unless the cache can fetch it again. What the manual leaves open here is the model's choice (logs 33, 37, 80, 97, 106, 113 and 115). -/
def Obligations.MigrationEpochsAndScrubs : Prop :=
  ∀ (s : State) (ctx va dst : Nat) (m : Migration) (k : Nat) (e : Word) (stack chan bank place : Nat) (region die : Nat) (w : Warp) (kb : Block)
    (sp : ScrubPlace) (r lane i : Nat) (q : BitVec 2) (x : QEntry) (l : Lanes) (n last : Nat),
    let y := s.sys
    let v := va / 65536
    let go := fun p : MigPhase => Instr.pageMigration ctx va dst p
    let still := fun p : MigPhase => Does (go p) s (.of y)
    let src := pteFrame e
    let fresh : Migration :=
      { ctx := ctx, vpage := v, src := src, dst := dst, pte := e, leafKey := k, phase := .freeze, background := false, stale := false }
    let reads := y.permits .engine (y.openRegions ctx) (mainKey 0 src) 65536 false
    let writes := y.permits .engine (y.openRegions ctx) (mainKey 0 dst) 65536 true
    let at_ := fun p : MigPhase => y.migration? ctx v = some m ∧ m.dst = dst ∧ m.phase = p ∧ m.ctx = ctx ∧ m.vpage = v ∧
      m.background = false ∧ y.ctl.held = false
    let held := Upd.of (walkHold s .control ctx va)
    let walked := walkFills s ctx (v * 65536) y
    let drained := y.quiet (mainKey 0 m.src) 65536 = true ∧ ∀ r ∈ y.reqs, r.arrived = true → r.kind.writes = true → r.bounced = false →
      overlaps r.key r.size (mainKey 0 m.src) 65536 = false
    let answers := fun c : CtlStatus => Does (go .freeze) s (.of (walked.answered c))
    let moves := fun (u : Upd) (p : MigPhase) => u.sys.migration? ctx v = some { m with phase := p }
    let line := fun (f i : Nat) => y.placed (pteTag m.pte) (mainKey 0 (f + 256 * i))
    let key := (stack * 32 + chan) * 64 + bank
    let now := y.time.cycle
    let refresh : Instr := .refresh stack chan bank
    let refreshed := fun n : Nat => Does refresh s (.of { y with refresh := Table.set y.refresh key (n, now) })
    let scrub := fun (p : ScrubPlace) (f : ScrubFind) => Instr.memoryScrub p f
    let broken := fun p : ScrubPlace => scrub p .uncorrectable
    let unit := poisonUnit place
    let bad := { y with poison := if y.poison.contains unit then y.poison else y.poison ++ [unit] }
    let marks := fun (p : ScrubPlace) (b : BadReg) =>
      Does (broken p) s (.of (y.setWarp { w with bad := if w.bad.contains b then w.bad else w.bad ++ [b] }))
    (y.ctl.held = false → y.migration? ctx v = none →
      (∀ p, p ≠ .freeze → still p) ∧ (walkQuiet s ctx va = false → Does (go .freeze) s held) ∧
      (walkQuiet s ctx va = true →
        (walkRefused s ctx v = none → smallLeaf s ctx v = none → answers .rejected) ∧
        (smallLeaf s ctx v = some (k, e) →
          ((∃ q ∈ y.migrations, q.src = src ∨ q.dst = dst) → answers .busy) ∧
          ((∀ q ∈ y.migrations, q.src ≠ src ∧ q.dst ≠ dst) →
            (dst % 65536 ≠ 0 ∨ kind00End ≤ dst ∨ dst = src → answers .invalid) ∧
            (dst % 65536 = 0 → dst < kind00End → dst ≠ src →
              (reads = true → writes = true →
                Does (go .freeze) s (.of (({ walked with migrations := y.migrations ++ [fresh] } : Sys).answered .ok))) ∧
              (reads = false ∨ writes = false → ∃ u, Does (go .freeze) s (recallFirst s u) ∧ (u.sys.context ctx).frozen = true ∧
                u.sys.migrations = y.migrations)))))) ∧
    (at_ .freeze → (¬ drained → still .drain) ∧ (drained → ∃ u, Does (go .drain) s u ∧ u.stores = [] ∧ moves u .drain)) ∧
    (at_ .drain →
      (y.framesOnline m = true → ∃ u, Does (go .copy) s (recallFirst s u) ∧ moves u .copy ∧
        u.stores = (List.range 256).map (fun i => .bytes (line m.dst i) (s.mem.bytes (line m.src i) 256))) ∧
      (y.framesOnline m = false → ∃ u, Does (go .copy) s u ∧ u.stores = [] ∧ u.sys.migration? ctx v = none)) ∧
    (at_ .copy → walkQuiet s ctx va = false → Does (go .switch) s held) ∧
    (at_ .copy → walkQuiet s ctx va = true →
      (smallLeaf s ctx v = some (m.leafKey, m.pte) → m.stale = false → y.opens ctx m.leafKey 8 true = false →
        ∃ u, Does (go .switch) s (recallFirst s u) ∧ (u.sys.context ctx).frozen = true ∧ u.sys.migration? ctx v = none) ∧
      (smallLeaf s ctx v = some (m.leafKey, m.pte) → m.stale = false → y.opens ctx m.leafKey 8 true = true →
          y.accessFails m.leafKey 8 false = none →
        ∃ u, Does (go .switch) s (recallFirst s u) ∧ moves u .switch ∧
          u.stores = [.bytes m.leafKey (leBytes 8 (leafWith m.pte dst 0).toNat)]) ∧
      (smallLeaf s ctx v ≠ some (m.leafKey, m.pte) ∨ m.stale = true →
        ∃ u, Does (go .switch) s u ∧ u.stores = [] ∧ u.sys.migration? ctx v = none)) ∧
    (at_ .switch → ∃ u, Does (go .invalidate) s u ∧ u.stores = [] ∧ moves u .invalidate ∧
      (∀ t ∈ u.sys.tlb, t.covers (y.ctxTag ctx) (v * 65536) = false) ∧
      (∀ p ∈ u.sys.ops, p.ctx = ctx → ∀ l ∈ p.set, l.vpage = v → l.pte = leafWith m.pte dst 0)) ∧
    (at_ .invalidate → (y.sourceIdle m = false → still .release) ∧
      (y.sourceIdle m = true → ∃ u, Does (go .release) s u ∧ u.stores = [] ∧ u.sys.migration? ctx v = none)) ∧
    (y.time.now / 2 ^ 20 ≤ y.ctl.epoch → Does .epochEnd s (.of y)) ∧
    (y.ctl.epoch < y.time.now / 2 ^ 20 → (∀ d, d < 6 → (y.die d).remapcfg.getLsbD 63 = false) → ∃ u, Does .epochEnd s u ∧ u.stores = [] ∧
      u.sys.ctl = { y.ctl with epoch := y.time.now / 2 ^ 20 } ∧ u.sys.migrations = y.migrations ∧
      (die < 6 → (u.sys.die die).samples = [] ∧ (u.sys.die die).region region =
        { (y.die die).region region with conf := ((y.die die).region region).conf / 2 })) ∧
    (Table.get? y.refresh key = none → refreshed 1) ∧
    (Table.get? y.refresh key = some (n, last) →
      (last + (if y.hot.contains stack then 275000 else 550000) ≤ now → refreshed ((n + 1) % 64)) ∧
      (now < last + (if y.hot.contains stack then 275000 else 550000) → Does refresh s (.of y))) ∧
    Does (scrub sp .clean) s (.of y) ∧ (∀ f, y.scrubDie sp = none → Does (scrub sp f) s (.of y)) ∧
    (∀ d, y.scrubDie sp = some d → d < 6 → ∃ u, Does (scrub sp .corrected) s u ∧ u.stores = [] ∧ { u.sys with dies := y.dies } = y ∧
      u.sys.die d = { y.die d with corrected := (y.die d).corrected + 1 }) ∧
    (2 ^ 50 ≤ place → Does (broken (.memory place)) s (.of bad)) ∧
    (place < 2 ^ 50 → (Table.get? y.cached unit = some true → Does (broken (.memory place)) s (.of bad)) ∧
      (Table.get? y.cached unit = some false →
        Does (broken (.memory place)) s (.of { y with cached := Table.erase y.cached unit })) ∧
      (Table.get? y.cached unit = none → Does (broken (.memory place)) s (.of y))) ∧
    (place < 2 ^ 48 → Table.get? y.cached unit = none → Does (broken (.stack place)) s (.of bad)) ∧
    ((2 ^ 48 ≤ place ∨ Table.get? y.cached unit ≠ none) → Does (broken (.stack place)) s (.of y)) ∧
    (y.warp? w.id = some w → y.block? w.block = some kb →
      marks (.vreg w.id r lane) (.v r (1#32 <<< lane)) ∧ marks (.shape w.id r) (.f r) ∧ marks (.sreg w.id r) (.s r) ∧
      marks (.xreg w.id r) (.x r) ∧
      (w.queue q = [.data l, x] → i = 0 → Does (broken (.queue w.id q i lane)) s
        (.of (y.setWarp (w.setQueue q [.failed l (1#32 <<< lane) .none 0 0, x])))) ∧
      ((w.queue q).length ≤ i → Does (broken (.queue w.id q i lane)) s (.of y))) ∧
    (y.block? kb.id = some kb → Does (broken (.acc kb.id i)) s
      (.of (y.setBlock { kb with badAcc := if kb.badAcc.contains i then kb.badAcc else kb.badAcc ++ [i] })))

/-- R66, R114, R470 to R472, R474, R475, R159: boot checks the image, measures and starts it, brings every region online and writes the chain of capabilities, or stays in recovery; measurements are extended and reported; the monitors throttle
and raise their events; a package reset loses everything of the package but what the firmware image decides, and a die reset all state of the die, the clock running on. CTX 0 in a thermal event is the model's choice
(log 60), and so is its stamp, that of the host port's origin at the current tick (log 38), and what the manual leaves open here besides (logs 34, 35, 81, 82, 83, 95 and 114). Whether an image's signature is good is a
constant of the part that the model leaves without a value, so that no witness meets `good`. -/
def Obligations.BootMonitorsAndResets : Prop :=
  ∀ (s : State) (image signature digest nonce : List Byte) (r : Req) (k die stack watts : Nat) (reading : Word) (g : Grid) (b : Block),
    let y := s.sys
    let boot : Instr := .boot image signature
    let good := Config.imageSigned image signature = true ∧ Config.rollbackCounter ≤ Config.imageVersion image
    let wait := y.ctl.booted = true ∨ y.ctl.held = true
    let extended := fun (n : Nat) (d : List Byte) => BitVec.ofNat 256 (leValue (sha3 (leBytes 32 (y.ctl.measure.toList.getD n 0).toNat ++ d)))
    let body := Config.identity ++ y.ctl.measure.toList.flatMap (fun m => leBytes 32 m.toNat) ++ nonce ++ leBytes 8 y.clk
    let ctl := fun (i : Instr) (c : Control) => Does i s (.of { y with ctl := c })
    let lost := fun a : Nat => a < 2 ^ 48 ∨ (2 ^ 50 ≤ a ∧ a < 2 ^ 50 + 2 ^ 52)
    let slot := mainKey 2 (evBase y.ctl.evcfg + 32 * (y.ctl.eventTail.toNat % evSize y.ctl.evcfg))
    let package := fun (i : Instr) (c : Control) => ∃ u, Does i s u ∧ u.sys = { Sys.reset with ctl := c, free := y.free } ∧
      (s.mem.wf = true → ∀ a, (lost a → (commit s u).mem.byte a = 0) ∧
        ((∀ q ∈ y.reqs, q.kind.writes = false) → ¬ lost a → (commit s u).mem.byte a = s.mem.byte a)) ∧
      (y.reqs = [r] → r.kind.writes = true → (y.context r.who.ctx).log.length < 256 → y.op? r.op = none →
        evEnabled y.ctl.evcfg = true → (y.ctl.eventTail - y.ctl.eventHead).toNat < evSize y.ctl.evcfg → ∃ data, .bytes slot data ∈ u.stores ∧
          data.take 4 = leBytes 2 1 ++ leBytes 2 r.who.ctx)
    let scratch := fun a : Nat => (2 ^ 51 + die * 2 ^ 27 ≤ a ∧ a < 2 ^ 51 + (die + 1) * 2 ^ 27) ∨
      (2 ^ 50 + die * 40 * 2 ^ 22 ≤ a ∧ a < 2 ^ 50 + (die + 1) * 40 * 2 ^ 22)
    (wait → Does boot s (.of y)) ∧
    (¬ wait → ¬ good → ctl boot { y.ctl with recovery := true }) ∧
    (¬ wait → good → ∃ u, Does boot s u ∧ u.sys.ctl.booted = true ∧ u.sys.ctl.recovery = false ∧
      u.sys.ctl.measure = y.ctl.measure.setIfInBounds 0 (extended 0 (sha3 image)) ∧
      (die < 6 → ∀ r, ((u.sys.die die).region r).state = 1) ∧ u.sys.warps = y.warps ∧
      (s.mem.wf = true → ∀ a, a < 2 ^ 48 → (a < u.sys.ctl.capPage ∨ u.sys.ctl.capPage + 65536 ≤ a) → (commit s u).mem.byte a = 0) ∧
      (s.mem.wf = true → u.sys.ctl.capPage % 65536 = 0 ∧ ∃ off : Nat → Nat, off 0 = 0 ∧ ∀ n, n < 7 → off n + 8 ≤ 65536 ∧
        let h := (commit s u).mem.value (u.sys.ctl.capPage + off n) 8
        h % 2 ^ 16 = n + 1 ∧ 0 < h / 2 ^ 24 % 256 ∧ h / 2 ^ 32 = if n = 6 then 0 else off (n + 1))) ∧
    (0 < k → k < 8 → y.ctl.booted = true →
      ctl (.measurementExtend k digest) { y.ctl with measure := y.ctl.measure.setIfInBounds k (extended k digest) }) ∧
    (nonce.length = 32 → y.ctl.booted = true →
      ctl (.attestationRequest nonce) { y.ctl with report := body ++ (Config.attestationSignature Config.devicePublicKey body).toList }) ∧
    Does (.thermalThrottle die) s (.of (y.setDie die { y.die die with throttled := true })) ∧
    (evEnabled y.ctl.evcfg = true → (y.ctl.eventTail - y.ctl.eventHead).toNat < evSize y.ctl.evcfg →
      ∃ u, Does (.thermalEvent die reading) s u ∧
        u.sys = { y with ctl := { y.ctl with eventTail := y.ctl.eventTail + 1, msix := y.ctl.msix + 1 },
                         unseen := y.unseen ++ [{ origin := .host, tick := y.time.now, key := slot, size := 32, op := 0 }] } ∧
        u.stores = [.bytes slot
          (leBytes 2 9 ++ leBytes 2 0 ++ leBytes 4 0 ++ leBytes 8 y.clk ++ leBytes 8 (die % 2 ^ 64) ++ leBytes 8 reading.toNat)]) ∧
    ((evEnabled y.ctl.evcfg = false ∨ evSize y.ctl.evcfg ≤ (y.ctl.eventTail - y.ctl.eventHead).toNat) →
      ctl (.thermalEvent die reading) { y.ctl with evcfg := if bits y.ctl.evcfg 62 52 < 2047 then y.ctl.evcfg + 0x10000000000000
        else y.ctl.evcfg }) ∧
    (∃ u, Does (.stackHotRefresh stack) s u ∧ u.stores = [] ∧ stack ∈ u.sys.hot ∧ { u.sys with hot := y.hot } = y) ∧
    (watts ≤ y.ctl.pwrcap → Does (.powerCapThrottle watts) s (.of y)) ∧
    (y.ctl.pwrcap < watts → ctl (.powerCapThrottle watts) { y.ctl with powerThrottle := true }) ∧
    Does (.monitorFallsBelowThreshold (.die die)) s (.of (y.setDie die { y.die die with throttled := false })) ∧
    ctl (.monitorFallsBelowThreshold .power) { y.ctl with powerThrottle := false } ∧
    Does (.monitorFallsBelowThreshold (.stack stack)) s (.of { y with hot := y.hot.filter (fun n => n != stack) }) ∧
    package .packageColdReset Control.reset ∧
    package .packageWarmReset { Control.reset with booted := y.ctl.booted, recovery := y.ctl.recovery } ∧
    package .thermalTrip { Control.reset with held := true } ∧
    (die < 6 → ∃ u, Does (.computeDieReset die) s u ∧ u.sys.die die = Die.reset ∧ (∀ d, d ≠ die → u.sys.die d = y.die d) ∧
      (∀ w ∈ u.sys.warps, ∀ q, y.block? w.block = some q → dieOf q.core ≠ die) ∧ (∀ q ∈ u.sys.blocks, dieOf q.core ≠ die) ∧
      (∀ p ∈ u.sys.ops, dieOf p.core ≠ die) ∧ (∀ n ∈ u.sys.bins, n.die ≠ die) ∧ u.sys.time.now = y.time.now ∧
      (∀ t ∈ u.sys.hostHeld, paDie (keyPA t) ≠ die) ∧ (∀ q ∈ u.sys.snooping, paDie (keyPA q.sector) ≠ die) ∧
      ((y.grids.map (·.launch)).Nodup → b ∈ y.blocks → dieOf b.core = die → b.isTask = false → g ∈ u.sys.grids →
        g.launch = b.launch → g.state = .complete ∨ g.state = .aborted) ∧
      (s.mem.wf = true → (∀ a, scratch a → (commit s u).mem.byte a = 0) ∧
        (evEnabled y.ctl.evcfg = false → (∀ c ∈ y.cached, c.2 = true → paDie c.1 ≠ die) →
          ∀ a, ¬ scratch a → (commit s u).mem.byte a = s.mem.byte a)))

/-- R347: BBITS writes to S[D] the bit length of abs(a), 0 to 1,024, which is 0 for a = 0; with .tz, the number of trailing zero bits of abs(a), and 0 for a = 0. -/
def Obligations.BitLengths : Prop :=
  ∀ (s : State) (e : Env) (d : SReg) (a : BigA) (tz : Bool),
    let m := (e.big a 0).natAbs
    Ready (.bbits d a tz) s e → e.checkBig [a] false = .ok () → ∃ r : Nat, r ≤ 1024 ∧
      WritesScalar (.bbits d a tz) s e d (BitVec.ofNat 64 r) ∧ (m = 0 → r = 0) ∧
      (m ≠ 0 → tz = false → 0 < r ∧ 2 ^ (r - 1) ≤ m ∧ m < 2 ^ r) ∧
      (m ≠ 0 → tz = true → m % 2 ^ r = 0 ∧ m / 2 ^ r % 2 = 1)

/-- R282: FCLASS sets exactly one bit of its result, the one of its table, from the fields of the encoding as it is stored, whatever NBV holds, and raises no flag. -/
def Obligations.ClassesOfFloats : Prop :=
  ∀ (s : State) (e : Env) (o : FpA),
    let f := o.f.fmt
    Ready (.fclass o) s e → ∃ c : Nat → Nat, WritesLanes (.fclass o) s e o.d .w32 false (fun j => BitVec.ofNat 64 (2 ^ c j)) ∧
      ∀ j, j < 32 → c j ≤ 9 ∧
        let x := (e.laneA o.f.sz o.a j).toNat
        let frac := x % 2 ^ f.fb
        let ex := x / 2 ^ f.fb % 2 ^ f.eb
        let neg := x / 2 ^ (f.fb + f.eb) % 2 = 1
        let top := 2 ^ f.eb - 1
        (c j = 0 ↔ ex = top ∧ 0 < frac ∧ frac < 2 ^ (f.fb - 1)) ∧ (c j = 1 ↔ ex = top ∧ 2 ^ (f.fb - 1) ≤ frac) ∧
        (c j = 2 ↔ ex = top ∧ frac = 0 ∧ neg) ∧ (c j = 9 ↔ ex = top ∧ frac = 0 ∧ ¬ neg) ∧
        (c j = 3 ↔ 0 < ex ∧ ex < top ∧ neg) ∧ (c j = 8 ↔ 0 < ex ∧ ex < top ∧ ¬ neg) ∧
        (c j = 4 ↔ ex = 0 ∧ 0 < frac ∧ neg) ∧ (c j = 7 ↔ ex = 0 ∧ 0 < frac ∧ ¬ neg) ∧
        (c j = 5 ↔ ex = 0 ∧ frac = 0 ∧ neg) ∧ (c j = 6 ↔ ex = 0 ∧ frac = 0 ∧ ¬ neg)

/-! ### The whole machine -/

/-- R210, R211, R215, R220, R223, R185, R79, R416: a word is turned away before its meaning: one that stands where it may not, or names a register out of range, traps ILLEGAL with the word, as do the forms
whose own ILLEGAL goes before UNGUARDED; one that names a pending register traps UNGUARDED with its number; a lane operation without the lanes it needs traps CONVERGENCE; a pop of an empty queue waits, and traps
QUEUE_UNDERRUN once the access slice has ended. What the manual leaves open here is the model's choice (logs 10 and 88). -/
def Obligations.WordsAreChecked : Prop :=
  ∀ (s : State) (e : Env) (i : Instr) (w : Word) (m : LaneMask) (q : BitVec 2) (n : Nat),
    let bad := e.misplaced = true ∨ e.outOfRange = true
    let guarded := e.unguarded? = none ∨ e.guardLater = true
    let names := fun (r : Nat) (l : List Use) => (Use.vr r ∈ l ∨ Use.vw r ∈ l) ∧ s.sys.pendingV e.w.id r = true ∨
      (Use.sr r ∈ l ∨ Use.sw r ∈ l) ∧ s.sys.pendingS e.w.id r = true
    let short := e.i.pops = [(q, n)] ∧ (e.w.queue q).length < n ∧ (∀ x ∈ e.w.queue q, ∀ v, x ≠ .marker v)
    encode i = some w → env? i s = some e →
      (bad → Traps i s e (trapOf .illegal w)) ∧
      (¬ bad → (∃ v, e.illegalFirst = some v) → ∃ v, e.illegalFirst = some v ∧ Traps i s e (trapOf .illegal v)) ∧
      (¬ bad → e.illegalFirst = none → e.guardLater = false → e.o ≠ none → (∃ r, names r (i.uses e.w.fmt)) →
        ∃ r, names r (i.uses e.w.fmt) ∧ Traps i s e (trapOf .unguarded (BitVec.ofNat 64 r))) ∧
      (¬ bad → e.illegalFirst = none → guarded → e.converge? = some m → Traps i s e { trapOf .convergence 0 with tlanes := m }) ∧
      (¬ bad → e.illegalFirst = none → guarded → e.converge? = none → short →
        ((∃ a, e.w.access = some a ∧ a.ended = true) → Traps i s e (trapOf .queueUnderrun (q.zeroExtend 64))) ∧
        ((∀ a, e.w.access = some a → a.ended = false) → Waits i s e (.queue q n)))

/-- The step of the machine runs the decoded instruction: the word at the pc of the selected sub-warp, inside its clause, when it decodes to a well-formed instruction; ILLEGAL with the word when it
decodes to none; a word that the cache lacks is read at its home, which holds the read while a write to the word is not visible, and outside the package by a request of its line (log 99); MEM_ERROR with its address
where its home cannot give it (log 111); otherwise the next step of the round; and a new round, one cycle later, when none is left (the order of a round is the model's choice, log 1). Which words the cache holds, and
so which value a word that was rewritten gives, is the model's reading (log 36): R219 leaves it open. -/
def Obligations.StepRunsTheDecodedInstruction : Prop :=
  ∀ (s : State) (c : Nat × Option Nat) (rest : List (Nat × Option Nat)) (w : Warp) (b : Sub) (k : Block) (cl : Clause)
    (i : Instr) (y : Sys) (next : List Instr),
    let s1 : State := { s with sys := { s.sys with selected := rest, cur := none } }
    let s2 := s1.freshSet c
    let key := s.sys.placed cl.map (cl.key + (b.pc - cl.addr).toNat)
    let word := s.codeWord k.core key
    let page := b.pc.toNat / 65536
    let has := s.sys.hasCode k.core key
    let me : Asker := .sub w.id c.2
    let answer := s2.sys.asks me (.part k.core w.part) k.ctx [(key / 64 * 64, b.pc.toNat)]
    let runs := fun z : Sys => (decode word = .ok i → step s = exec i { s1 with sys := { z with cur := some c } }) ∧
      ((∀ j, decode word ≠ .ok j) → step s = .next (commit s1 (takeTrap { s1 with sys := z } w c.2 b (trapOf .illegal word))))
    let fails := fun (z : Sys) (why : Reason) =>
      step s = .next (commit s1 (fetchTrap { s2 with sys := z } w c.2 b { trapOf .memError b.pc with reason := why }))
    (s.sys.selected = c :: rest → fetchSelected s1 c = .run i y →
      step s = exec i { s1 with sys := { y with cur := some c } }) ∧
    (s.sys.selected = c :: rest → s.sys.warp? c.1 = some w → w.sub? c.2 = some b → s.sys.block? w.block = some k →
      s.sys.canIssue w k c.2 b = true → b.place = .inside cl →
      (has = true → runs s2.sys) ∧
      (has = false → ∀ why, s.sys.accessFails key 8 false = some why → fails s2.sys why) ∧
      (has = false → s.sys.accessFails key 8 false = none →
        (s.sys.quiet key 8 = false → step s = .next (commit s1 (.of (s2.sys.holdRead (.warp w.id) [(key, 8)])))) ∧
        (s.sys.quiet key 8 = true → ∀ z lost,
          (offPackage key = false → answer = .ok (s2.sys.unasked (· == me), [])) ∧
          (answer = .error z → step s = .next (commit s1 (.of z))) ∧
          (answer = .ok (z, []) → z.accessFails key 8 true = none → runs (z.cacheWord k.core key word k.ctx page)) ∧
          (∀ why, answer = .ok (z, []) → z.accessFails key 8 true = some why → fails z why) ∧
          (∀ x, answer = .ok (z, x :: lost) → fails z x.2)))) ∧
    ({ s2 with sys := { s2.sys with found := s1.sys.found } } = s1) ∧
    ((∀ z ∈ s.sys.icache, z.1 ≠ k.core ∨ z.2.1 ≠ key) → word = s.mem.word key) ∧
    (s.sys.selected = [] → s.sys.agenda = i :: next →
      step s = exec i { s with sys := { s.sys with agenda := next, cur := none } }) ∧
    (s.sys.selected = [] → s.sys.agenda = [] → ∃ t, step s = .next t ∧ t.mem = s.mem ∧
      t.sys.time = { s.sys.time with cycle := s.sys.time.cycle + 1 } ∧ t.sys.selected = [] ∧ (∀ j ∈ s.due, j ∈ t.sys.agenda) ∧
      { t.sys with time := s.sys.time, agenda := [], cur := s.sys.cur } = s.sys)

/-- Words written out from the encodings of the manual's examples decode to what they stand for, and words that the manual calls illegal decode to nothing. -/
def Obligations.ExampleWordsDecode : Prop :=
  decode 0x0104050600000003 = .ok (.iadd ⟨4, .v 5 .none, .v 6, .w32, true, 1⟩) ∧
  decode 0x0103030400000208 = .ok (.iadd ⟨3, .v 3 (.up 1), .v 4, .w32, false, 0⟩) ∧
  decode 0x02020764001A0000 = .ok (.icmpLtu ⟨2, .v 7 .none, .imm 100, .w32, false, 0⟩) ∧
  decode 0x07080A0C0E0C1005 = .ok (.ffma ⟨8, .v 10 .none, .v 12, 14, .f64, .rtz⟩) ∧
  decode 0x0608040000040002 = .ok (.lscan ⟨8, .v 4 .none, .add, .w32, false, true, false⟩) ∧
  decode 0x100802030B079FF8 = .ok (.sts ⟨8, some 2, some 3, 3, 0xFF8, .out 11, .w64⟩) ∧
  decode 0x11080CFFFF081940 = .ok (.atm ⟨8, some 12, none, 0, 0x40, .none, .cas, true⟩) ∧
  decode 0x1205050900014000 = .ok (.wmerge 5 5 9) ∧
  decode 0x141403FFFF000001 = .ok (.halloc 20 3 none true false false) ∧
  decode 0x1501040506014000 = .ok (.strm 1 4 5 6 .w32 false false) ∧
  decode 0x2007070300150001 = .ok (.bshr 7 (.v 7) (.s 3) true) ∧
  decode 0x22160405060A0000 = .ok (.nttf 22 4 5 6 true) ∧
  decode 0x2802082010040000 = .ok (.mma 2 (.v 8) (.v 32) 16) ∧
  decode 0x2914040506020000 = .ok (.accrun 20 4 5 6 true) ∧
  decode 0x30097FFFFE240000 = .ok (.loop 9 0x3FFFFE) ∧
  decode 0x311415FF01015000 = .ok (.bar ⟨some 20, some 21, none, 1, .blk, true⟩) ∧
  decode 0x320A0B101E080000 = .ok (.dpub 10 11 16 (some 30) false false) ∧
  decode 0x3812000400110000 = .ok (.swr .fpctl (.s 4)) ∧
  decode 0x7F0031F480000000 = .ok (.clauseStart ⟨3, 1, 15, 4, true, false⟩) ∧
  decode 0x80080A0016141200 = .ok (.pairedWord ⟨.hadd, 4, .v 5⟩ ⟨.hfmul, 10, .v 9⟩) ∧
  (∀ i, decode 0x0104050600000700 ≠ .ok i) ∧ (∀ i, decode 0x0104050600000620 ≠ .ok i) ∧
  (∀ i, decode 0x0104050600000008 ≠ .ok i)

/-- For every well-formed instruction that a word can hold, with every operand at every value that its encoding admits, the decoder reads it back from its word. -/
def Obligations.DecodeInvertsEncode : Prop :=
  ∀ (i : Instr) (w : Word), i.wf = true → encode i = some w → decode w = .ok i

/-- Every step, of a word or of the machine, keeps memory in its canonical form: keys strictly rising, no zero byte listed. What the manual leaves open here is the model's choice (log 7). -/
def Obligations.MemoryStaysCanonical : Prop :=
  ∀ (s t : State), s.mem.wf = true → step s = .next t → t.mem.wf = true

/-- R475, R114, R471, R435, R456, R146, R151, R65, R417, R466: what reset leaves: memory in its canonical form, the clock at 2^20 and every frontier one tick before it, the registers at the values the manual gives, and
no work of any kind. That a context descriptor is 0 is the model's choice (log 4: R20 and R40 give it no reset value), and so is that memory reads as zero (logs 2 and 7). -/
def Obligations.ResetLeaves : Prop :=
  let y := State.reset.sys
  State.reset.mem.wf = true ∧ (∀ a, State.reset.mem.byte a = 0) ∧
  y.time.now = 2 ^ 20 ∧ y.clk = 2 ^ 20 ∧ (∀ c d, c < 3 → (c = 0 → d < 60) → (c = 1 → d < 6) → y.time.frontier c d = 2 ^ 20 - 1) ∧
  y.time.systemF = 2 ^ 20 - 1 ∧ (∀ k, k < 8 → y.ctl.measure.toList.getD k 1 = 0) ∧ y.ctl.booted = false ∧
  (∀ c, (y.context c).hangcfg.getLsbD 63 = true ∧ bits (y.context c).hangcfg 53 48 = 32 ∧ bits (y.context c).hangcfg 41 36 = 32 ∧
    (y.context c).savecfg = 0 ∧ (y.context c).desc[0] = 0 ∧ (y.context c).log = []) ∧
  (∀ d, (y.die d).dsrcfg = 0 ∧ (y.die d).remapcfg = 0x4000000000000000 ∧
    ∀ r, (y.die d).region r = { conf := 0, state := 0, noremap := false, hver := 0 }) ∧
  (∀ q, (y.ctl.queue q).cfg = 0) ∧ y.ctl.evcfg = 0 ∧ y.ctl.remaplog = 0 ∧ y.ctl.ctocfg = 0x000007D007D007D0 ∧
  y.warps = [] ∧ y.blocks = [] ∧ y.grids = [] ∧ y.bins = [] ∧ y.ops = [] ∧ y.reqs = []
end

