-- ==== Sys2Proof/Laws/Control.lean ====
section
/-! SUPPORT. What the control die's changes of memory and its register writes can do, said once each. -/

namespace Sys2Proof.Machine

/-- A change without stores takes place at once. -/
theorem recallFirst_noStores (s : State) (u : Upd) (h : u.stores = []) : recallFirst s u = u := by
  have hf : ∀ l : List Nat, l.filter (fun _ => false) = [] := fun l => by induction l <;> simp_all
  have ht : ∀ l : List Nat, l.filter (fun _ => true) = l := fun l => by induction l <;> simp_all
  cases u with
  | mk y l =>
    cases h
    simp [recallFirst, hf, ht]

/-- A change of the control die takes place at once where the host holds nothing and no read waits. -/
theorem recallFirst_nothingHeld (s : State) (u : Upd) (h : s.sys.NothingHeld) : recallFirst s u = u := by
  have hr : ∀ (f : Req → Bool), (s.sys.reqs.any fun r => r.arrived && r.kind.reads && !r.isHeld && f r) = false := by
    intro f
    rw [List.any_eq_false]
    intro r hr
    rcases h.reads r hr with hq | hq | hq <;> simp [hq]
  simp [recallFirst, h.held, h.snooping, h.late, hr, h.waiting]

/-- What a change of the control die can come to: it waits for the host's sectors or for a read, or it takes place, but for what would be
written to a sector whose snoop timed out. -/
theorem recallFirst_cases (s : State) (u : Upd) :
    (∃ l, recallFirst s u = .of (s.sys.snoop l true)) ∨ recallFirst s u = .of s.sys ∨ recallFirst s u = u ∨
    (recallFirst s u).stores = u.stores.filter (fun t => !s.sys.late.any (fun k => t.touches k 64)) ∧
      { (recallFirst s u).sys with late := u.sys.late } = u.sys := by
  unfold recallFirst
  dsimp only
  split
  · exact .inl ⟨_, rfl⟩
  · split
    · exact .inr (.inl rfl)
    · split
      · exact .inr (.inl rfl)
      · split
        · exact .inr (.inl rfl)
        · split
          · exact .inr (.inr (.inl rfl))
          · exact .inr (.inr (.inr ⟨rfl, rfl⟩))

/-- What the write of a control-die register comes to: nothing in recovery or held in reset, the effect with status OK, or the status INVALID alone. -/
theorem ctlWrite_cases (ok : Bool) (f : State → Upd) (s : State) :
    (s.sys.ctl.recovery || s.sys.ctl.held) = true ∧ ctlWrite ok f s = .of s.sys ∨
    (s.sys.ctl.recovery || s.sys.ctl.held) = false ∧ ok = true ∧ ctlWrite ok f s = f { s with sys := s.sys.answered .ok } ∨
    (s.sys.ctl.recovery || s.sys.ctl.held) = false ∧ ok = false ∧ ctlWrite ok f s = .of (s.sys.answered .invalid) := by
  unfold ctlWrite
  cases (s.sys.ctl.recovery || s.sys.ctl.held) <;> cases ok <;> simp [idle]

/-- A step of system software, firmware or the host: nothing in recovery or held in reset, else its effect. -/
theorem inputStep_cases (s : State) (u : Upd) :
    (s.sys.ctl.recovery || s.sys.ctl.held) = true ∧ inputStep s u = .next (commit s (.of s.sys)) ∨
    (s.sys.ctl.recovery || s.sys.ctl.held) = false ∧ inputStep s u = .next (commit s u) := by
  unfold inputStep machineStep
  cases (s.sys.ctl.recovery || s.sys.ctl.held) <;> simp

/-- A read that comes to its home leaves everything but the list of waiting reads. -/
theorem Sys.holdRead_rest (y : Sys) (who : ReadBy) (l : List (Nat × Nat)) :
    { y.holdRead who l with reading := y.reading } = y := rfl

/-- Reads that find every write visible do not wait. -/
theorem Sys.holdRead_quiet (y : Sys) (who : ReadBy) (l : List (Nat × Nat)) (h : ∀ x ∈ l, y.quiet x.1 x.2 = true) :
    y.holdRead who l = y := by
  have : ∀ a : List Reading, l.foldl (fun a x =>
      if y.quiet x.1 x.2 || a.any (fun q => q.key == x.1 && q.size == x.2 && q.who == who) then a
      else a ++ [{ key := x.1, size := x.2, tick := y.time.now, who }]) a = a := by
    induction l with
    | nil => intro a; rfl
    | cons x r ih =>
      intro a
      have hx := h x (by simp)
      simp only [List.foldl_cons, hx, Bool.true_or, if_true]
      exact ih (fun z hz => h z (by simp [hz])) a
  unfold Sys.holdRead
  rw [this]

/-- Accesses that the regions of the context open, and whose reads find every write visible, stand in the way of nothing but a recall; the
reads fill the home caches. -/
theorem saveGuard_open (ctx die : Nat) (l : List (Nat × Nat × Bool)) (s : State) (u : Upd)
    (h : ∀ a ∈ l, s.sys.opens ctx a.1 a.2.1 a.2.2 = true) (hq : ∀ a ∈ l, s.sys.quiet a.1 a.2.1 = true) :
    saveGuard ctx die l s u = recallFirst s { u with
      sys := ((l.filter (fun x => !x.2.2)).map (fun x => (x.1, x.2.1))).foldl (fun z x => z.fillFor x.1 x.2 false ctx 0) u.sys } := by
  have : l.find? (fun x => !s.sys.opens ctx x.1 x.2.1 x.2.2) = none := by
    rw [List.find?_eq_none]
    intro a ha
    simp [h a ha]
  have hn : ((l.filter (fun x => !x.2.2)).map (fun x => (x.1, x.2.1))).any (fun x => !s.sys.quiet x.1 x.2) = false := by
    rw [List.any_eq_false]
    intro x hx
    simp only [List.mem_map, List.mem_filter] at hx
    obtain ⟨a, ⟨ha, -⟩, rfl⟩ := hx
    simp [hq a ha]
  simp only [saveGuard, this, hn]
  rfl

end Sys2Proof.Machine
end

