-- ==== Sys2Proof/Laws/Dispatch.lean ====
section
/-! SUPPORT. Each arm of `exec`, as an equation. -/

namespace Sys2Proof.Machine

theorem exec_clauseStart (h) (s : State) : exec (.clauseStart h) s = execClauseStart h s := rfl
theorem exec_pairedWord (x y) (s : State) : exec (.pairedWord x y) s = execPairedWord x y s := rfl
theorem exec_iadd (o) (s : State) : exec (.iadd o) s = execIadd o s := rfl
theorem exec_isub (o) (s : State) : exec (.isub o) s = execIsub o s := rfl
theorem exec_imul (o) (s : State) : exec (.imul o) s = execImul o s := rfl
theorem exec_imulh (o) (s : State) : exec (.imulh o) s = execImulh o s := rfl
theorem exec_imad (o) (s : State) : exec (.imad o) s = execImad o s := rfl
theorem exec_imadw (o) (s : State) : exec (.imadw o) s = execImadw o s := rfl
theorem exec_iaddc (o) (s : State) : exec (.iaddc o) s = execIaddc o s := rfl
theorem exec_isubb (o) (s : State) : exec (.isubb o) s = execIsubb o s := rfl
theorem exec_imin (o) (s : State) : exec (.imin o) s = execImin o s := rfl
theorem exec_imax (o) (s : State) : exec (.imax o) s = execImax o s := rfl
theorem exec_iabs (o) (s : State) : exec (.iabs o) s = execIabs o s := rfl
theorem exec_iand (o) (s : State) : exec (.iand o) s = execIand o s := rfl
theorem exec_ior (o) (s : State) : exec (.ior o) s = execIor o s := rfl
theorem exec_ixor (o) (s : State) : exec (.ixor o) s = execIxor o s := rfl
theorem exec_iandn (o) (s : State) : exec (.iandn o) s = execIandn o s := rfl
theorem exec_shl (o) (s : State) : exec (.shl o) s = execShl o s := rfl
theorem exec_shr (o) (s : State) : exec (.shr o) s = execShr o s := rfl
theorem exec_sar (o) (s : State) : exec (.sar o) s = execSar o s := rfl
theorem exec_rot (o) (s : State) : exec (.rot o) s = execRot o s := rfl
theorem exec_fshf (o) (s : State) : exec (.fshf o) s = execFshf o s := rfl
theorem exec_bfe (o) (s : State) : exec (.bfe o) s = execBfe o s := rfl
theorem exec_bfi (o) (s : State) : exec (.bfi o) s = execBfi o s := rfl
theorem exec_clz (o) (s : State) : exec (.clz o) s = execClz o s := rfl
theorem exec_ctz (o) (s : State) : exec (.ctz o) s = execCtz o s := rfl
theorem exec_popc (o) (s : State) : exec (.popc o) s = execPopc o s := rfl
theorem exec_brev (o) (s : State) : exec (.brev o) s = execBrev o s := rfl
theorem exec_prmb (o) (s : State) : exec (.prmb o) s = execPrmb o s := rfl
theorem exec_sel (o) (s : State) : exec (.sel o) s = execSel o s := rfl
theorem exec_idiv (o) (s : State) : exec (.idiv o) s = execIdiv o s := rfl
theorem exec_irem (o) (s : State) : exec (.irem o) s = execIrem o s := rfl
theorem exec_lea (o) (s : State) : exec (.lea o) s = execLea o s := rfl
theorem exec_icmpEq (o) (s : State) : exec (.icmpEq o) s = execIcmpEq o s := rfl
theorem exec_icmpNe (o) (s : State) : exec (.icmpNe o) s = execIcmpNe o s := rfl
theorem exec_icmpLt (o) (s : State) : exec (.icmpLt o) s = execIcmpLt o s := rfl
theorem exec_icmpLe (o) (s : State) : exec (.icmpLe o) s = execIcmpLe o s := rfl
theorem exec_icmpGt (o) (s : State) : exec (.icmpGt o) s = execIcmpGt o s := rfl
theorem exec_icmpGe (o) (s : State) : exec (.icmpGe o) s = execIcmpGe o s := rfl
theorem exec_icmpLtu (o) (s : State) : exec (.icmpLtu o) s = execIcmpLtu o s := rfl
theorem exec_icmpLeu (o) (s : State) : exec (.icmpLeu o) s = execIcmpLeu o s := rfl
theorem exec_icmpGtu (o) (s : State) : exec (.icmpGtu o) s = execIcmpGtu o s := rfl
theorem exec_icmpGeu (o) (s : State) : exec (.icmpGeu o) s = execIcmpGeu o s := rfl
theorem exec_mov (o) (s : State) : exec (.mov o) s = execMov o s := rfl
theorem exec_movi (d imm sz) (s : State) : exec (.movi d imm sz) s = execMovi d imm sz s := rfl
theorem exec_stov (d a j sz sg) (s : State) : exec (.stov d a j sz sg) s = execStov d a j sz sg s := rfl
theorem exec_vtos (d a j sz sg) (s : State) : exec (.vtos d a j sz sg) s = execVtos d a j sz sg s := rfl
theorem exec_sadd (o) (s : State) : exec (.sadd o) s = execSadd o s := rfl
theorem exec_ssub (o) (s : State) : exec (.ssub o) s = execSsub o s := rfl
theorem exec_smul (o) (s : State) : exec (.smul o) s = execSmul o s := rfl
theorem exec_smulh (o) (s : State) : exec (.smulh o) s = execSmulh o s := rfl
theorem exec_sand (o) (s : State) : exec (.sand o) s = execSand o s := rfl
theorem exec_sor (o) (s : State) : exec (.sor o) s = execSor o s := rfl
theorem exec_sxor (o) (s : State) : exec (.sxor o) s = execSxor o s := rfl
theorem exec_sandn (o) (s : State) : exec (.sandn o) s = execSandn o s := rfl
theorem exec_sshl (o) (s : State) : exec (.sshl o) s = execSshl o s := rfl
theorem exec_sshr (o) (s : State) : exec (.sshr o) s = execSshr o s := rfl
theorem exec_ssar (o) (s : State) : exec (.ssar o) s = execSsar o s := rfl
theorem exec_smin (o) (s : State) : exec (.smin o) s = execSmin o s := rfl
theorem exec_smax (o) (s : State) : exec (.smax o) s = execSmax o s := rfl
theorem exec_sclz (o) (s : State) : exec (.sclz o) s = execSclz o s := rfl
theorem exec_sctz (o) (s : State) : exec (.sctz o) s = execSctz o s := rfl
theorem exec_spopc (o) (s : State) : exec (.spopc o) s = execSpopc o s := rfl
theorem exec_ssel (o) (s : State) : exec (.ssel o) s = execSsel o s := rfl
theorem exec_slea (o) (s : State) : exec (.slea o) s = execSlea o s := rfl
theorem exec_scmp (o) (s : State) : exec (.scmp o) s = execScmp o s := rfl
theorem exec_smovi (d imm sg) (s : State) : exec (.smovi d imm sg) s = execSmovi d imm sg s := rfl
theorem exec_smovh (d imm) (s : State) : exec (.smovh d imm) s = execSmovh d imm s := rfl
theorem exec_lperm (o) (s : State) : exec (.lperm o) s = execLperm o s := rfl
theorem exec_lscan (o) (s : State) : exec (.lscan o) s = execLscan o s := rfl
theorem exec_lred (o) (s : State) : exec (.lred o) s = execLred o s := rfl
theorem exec_ballot (o) (s : State) : exec (.ballot o) s = execBallot o s := rfl
theorem exec_fadd (o) (s : State) : exec (.fadd o) s = execFadd o s := rfl
theorem exec_fsub (o) (s : State) : exec (.fsub o) s = execFsub o s := rfl
theorem exec_fmul (o) (s : State) : exec (.fmul o) s = execFmul o s := rfl
theorem exec_ffma (o) (s : State) : exec (.ffma o) s = execFfma o s := rfl
theorem exec_fmin (o) (s : State) : exec (.fmin o) s = execFmin o s := rfl
theorem exec_fmax (o) (s : State) : exec (.fmax o) s = execFmax o s := rfl
theorem exec_fdiv (o) (s : State) : exec (.fdiv o) s = execFdiv o s := rfl
theorem exec_fsqrt (o) (s : State) : exec (.fsqrt o) s = execFsqrt o s := rfl
theorem exec_fcmp (o) (s : State) : exec (.fcmp o) s = execFcmp o s := rfl
theorem exec_fcvt (d a dt st rm) (s : State) : exec (.fcvt d a dt st rm) s = execFcvt d a dt st rm s := rfl
theorem exec_fclass (o) (s : State) : exec (.fclass o) s = execFclass o s := rfl
theorem exec_lds (o) (s : State) : exec (.lds o) s = execLds o s := rfl
theorem exec_sts (o) (s : State) : exec (.sts o) s = execSts o s := rfl
theorem exec_ldsu (o) (s : State) : exec (.ldsu o) s = execLdsu o s := rfl
theorem exec_stsu (o) (s : State) : exec (.stsu o) s = execStsu o s := rfl
theorem exec_ldk (o) (s : State) : exec (.ldk o) s = execLdk o s := rfl
theorem exec_stk (o) (s : State) : exec (.stk o) s = execStk o s := rfl
theorem exec_ats (o) (s : State) : exec (.ats o) s = execAts o s := rfl
theorem exec_atsu (o) (s : State) : exec (.atsu o) s = execAtsu o s := rfl
theorem exec_atm (o) (s : State) : exec (.atm o) s = execAtm o s := rfl
theorem exec_wmerge (d a b) (s : State) : exec (.wmerge d a b) s = execWmerge d a b s := rfl
theorem exec_wmarkL (d a) (s : State) : exec (.wmarkL d a) s = execWmarkL d a s := rfl
theorem exec_wmarkV (d a) (s : State) : exec (.wmarkV d a) s = execWmarkV d a s := rfl
theorem exec_wtest (d a) (s : State) : exec (.wtest d a) s = execWtest d a s := rfl
theorem exec_wwait (a) (s : State) : exec (.wwait a) s = execWwait a s := rfl
theorem exec_gath (o) (s : State) : exec (.gath o) s = execGath o s := rfl
theorem exec_gaths (o) (s : State) : exec (.gaths o) s = execGaths o s := rfl
theorem exec_scat (o) (s : State) : exec (.scat o) s = execScat o s := rfl
theorem exec_cpl (o) (s : State) : exec (.cpl o) s = execCpl o s := rfl
theorem exec_cpb (o) (s : State) : exec (.cpb o) s = execCpb o s := rfl
theorem exec_cpseal (tag) (s : State) : exec (.cpseal tag) s = execCpseal tag s := rfl
theorem exec_cpwait (d tag) (s : State) : exec (.cpwait d tag) s = execCpwait d tag s := rfl
theorem exec_cpqry (d tag) (s : State) : exec (.cpqry d tag) s = execCpqry d tag s := rfl
theorem exec_halloc (d a w trapping zero fs) (s : State) : exec (.halloc d a w trapping zero fs) s = execHalloc d a w trapping zero fs s := rfl
theorem exec_hfree (d a w fs) (s : State) : exec (.hfree d a w fs) s = execHfree d a w fs s := rfl
theorem exec_hqry (d a fs) (s : State) : exec (.hqry d a fs) s = execHqry d a fs s := rfl
theorem exec_pcommit (d a w fs) (s : State) : exec (.pcommit d a w fs) s = execPcommit d a w fs s := rfl
theorem exec_pdecommit (d a w zero fs) (s : State) : exec (.pdecommit d a w zero fs) s = execPdecommit d a w zero fs s := rfl
theorem exec_pqry (d a fs) (s : State) : exec (.pqry d a fs) s = execPqry d a fs s := rfl
theorem exec_strm (q a b c sz sext locl) (s : State) : exec (.strm q a b c sz sext locl) s = execStrm q a b c sz sext locl s := rfl
theorem exec_strmend (mask) (s : State) : exec (.strmend mask) s = execStrmend mask s := rfl
theorem exec_qmark (q v) (s : State) : exec (.qmark q v) s = execQmark q v s := rfl
theorem exec_qdisc (d q) (s : State) : exec (.qdisc d q) s = execQdisc d q s := rfl
theorem exec_badd (d a b) (s : State) : exec (.badd d a b) s = execBadd d a b s := rfl
theorem exec_bsub (d a b) (s : State) : exec (.bsub d a b) s = execBsub d a b s := rfl
theorem exec_bneg (d a) (s : State) : exec (.bneg d a) s = execBneg d a s := rfl
theorem exec_bcmp (d a b abs) (s : State) : exec (.bcmp d a b abs) s = execBcmp d a b abs s := rfl
theorem exec_bshl (d a k) (s : State) : exec (.bshl d a k) s = execBshl d a k s := rfl
theorem exec_bshr (d a k floor) (s : State) : exec (.bshr d a k floor) s = execBshr d a k floor s := rfl
theorem exec_bmuls (d a b sg) (s : State) : exec (.bmuls d a b sg) s = execBmuls d a b sg s := rfl
theorem exec_bdivs (d a b c sg) (s : State) : exec (.bdivs d a b c sg) s = execBdivs d a b c sg s := rfl
theorem exec_bnorm (d a) (s : State) : exec (.bnorm d a) s = execBnorm d a s := rfl
theorem exec_blen (d a) (s : State) : exec (.blen d a) s = execBlen d a s := rfl
theorem exec_bbits (d a tz) (s : State) : exec (.bbits d a tz) s = execBbits d a tz s := rfl
theorem exec_bspill (a b w) (s : State) : exec (.bspill a b w) s = execBspill a b w s := rfl
theorem exec_bfill (d a w) (s : State) : exec (.bfill d a w) s = execBfill d a w s := rfl
theorem exec_bcvtTotc (d a) (s : State) : exec (.bcvtTotc d a) s = execBcvtTotc d a s := rfl
theorem exec_bcvtFromtc (d a) (s : State) : exec (.bcvtFromtc d a) s = execBcvtFromtc d a s := rfl
theorem exec_bcvtF64 (d a) (s : State) : exec (.bcvtF64 d a) s = execBcvtF64 d a s := rfl
theorem exec_bconv (t a b c neg) (s : State) : exec (.bconv t a b c neg) s = execBconv t a b c neg s := rfl
theorem exec_cres (d t b last) (s : State) : exec (.cres d t b last) s = execCres d t b last s := rfl
theorem exec_lmul (d a b c fs) (s : State) : exec (.lmul d a b c fs) s = execLmul d a b c fs s := rfl
theorem exec_ladd (d a b c sub fs) (s : State) : exec (.ladd d a b c sub fs) s = execLadd d a b c sub fs s := rfl
theorem exec_nttf (d a b c fs) (s : State) : exec (.nttf d a b c fs) s = execNttf d a b c fs s := rfl
theorem exec_ntti (d a b c fs) (s : State) : exec (.ntti d a b c fs) s = execNtti d a b c fs s := rfl
theorem exec_setfmt (b) (s : State) : exec (.setfmt b) s = execSetfmt b s := rfl
theorem exec_mma (t a b c) (s : State) : exec (.mma t a b c) s = execMma t a b c s := rfl
theorem exec_mmq (t a b c) (s : State) : exec (.mmq t a b c) s = execMmq t a b c s := rfl
theorem exec_zclr (t n) (s : State) : exec (.zclr t n) s = execZclr t n s := rfl
theorem exec_zld (t g row) (s : State) : exec (.zld t g row) s = execZld t g row s := rfl
theorem exec_zst (g t row) (s : State) : exec (.zst g t row) s = execZst g t row s := rfl
theorem exec_zcvt (d t b c ty clr) (s : State) : exec (.zcvt d t b c ty clr) s = execZcvt d t b c ty clr s := rfl
theorem exec_zadd (d a sub) (s : State) : exec (.zadd d a sub) s = execZadd d a sub s := rfl
theorem exec_accrun (d a b c fs) (s : State) : exec (.accrun d a b c fs) s = execAccrun d a b c fs s := rfl
theorem exec_accstat (d fs) (s : State) : exec (.accstat d fs) s = execAccstat d fs s := rfl
theorem exec_bra (off) (s : State) : exec (.bra off) s = execBra off s := rfl
theorem exec_brs (c z off) (s : State) : exec (.brs c z off) s = execBrs c z off s := rfl
theorem exec_brv (v z off) (s : State) : exec (.brv v z off) s = execBrv v z off s := rfl
theorem exec_brz (m off) (s : State) : exec (.brz m off) s = execBrz m off s := rfl
theorem exec_bsplit (c off) (s : State) : exec (.bsplit c off) s = execBsplit c off s := rfl
theorem exec_join (s : State) : exec .join s = execJoin s := rfl
theorem exec_call (l off) (s : State) : exec (.call l off) s = execCall l off s := rfl
theorem exec_ret (l) (s : State) : exec (.ret l) s = execRet l s := rfl
theorem exec_jmpi (l k) (s : State) : exec (.jmpi l k) s = execJmpi l k s := rfl
theorem exec_loop (c off) (s : State) : exec (.loop c off) s = execLoop c off s := rfl
theorem exec_exit (s : State) : exec .exit s = execExit s := rfl
theorem exec_nop (s : State) : exec .nop s = execNop s := rfl
theorem exec_bar (o) (s : State) : exec (.bar o) s = execBar o s := rfl
theorem exec_bararr (o) (s : State) : exec (.bararr o) s = execBararr o s := rfl
theorem exec_barwt (d n lvl settle) (s : State) : exec (.barwt d n lvl settle) s = execBarwt d n lvl settle s := rfl
theorem exec_waitx (c a d) (s : State) : exec (.waitx c a d) s = execWaitx c a d s := rfl
theorem exec_sigx (c a b settle) (s : State) : exec (.sigx c a b settle) s = execSigx c a b settle s := rfl
theorem exec_xred (d a g op) (s : State) : exec (.xred d a g op) s = execXred d a g op s := rfl
theorem exec_qpost (d a w dev fs) (s : State) : exec (.qpost d a w dev fs) s = execQpost d a w dev fs s := rfl
theorem exec_qinfo (d a fs) (s : State) : exec (.qinfo d a fs) s = execQinfo d a fs s := rfl
theorem exec_dpub (d a b w dev fs) (s : State) : exec (.dpub d a b w dev fs) s = execDpub d a b w dev fs s := rfl
theorem exec_dsig (a w dev tk fs) (s : State) : exec (.dsig a w dev tk fs) s = execDsig a w dev tk fs s := rfl
theorem exec_launch (d a b w fs) (s : State) : exec (.launch d a b w fs) s = execLaunch d a b w fs s := rfl
theorem exec_trap (code) (s : State) : exec (.trap code) s = execTrap code s := rfl
theorem exec_tret (s : State) : exec .tret s = execTret s := rfl
theorem exec_phint (off) (s : State) : exec (.phint off) s = execPhint off s := rfl
theorem exec_srd (d sel) (s : State) : exec (.srd d sel) s = execSrd d sel s := rfl
theorem exec_swr (sel b) (s : State) : exec (.swr sel b) s = execSwr sel b s := rfl
theorem exec_bkpt (code) (s : State) : exec (.bkpt code) s = execBkpt code s := rfl
theorem exec_blockHalt (w sub) (s : State) : exec (.blockHalt w sub) s = execBlockHalt w sub s := rfl
theorem exec_impreciseDelivery (n) (s : State) : exec (.impreciseDelivery n) s = execImpreciseDelivery n s := rfl
theorem exec_issueSelect (core part) (s : State) : exec (.issueSelect core part) s = execIssueSelect core part s := rfl
theorem exec_starvationBoost (w sub) (s : State) : exec (.starvationBoost w sub) s = execStarvationBoost w sub s := rfl
theorem exec_workClassRaise (die src) (s : State) : exec (.workClassRaise die src) s = execWorkClassRaise die src s := rfl
theorem exec_streamPush (w q) (s : State) : exec (.streamPush w q) s = execStreamPush w q s := rfl
theorem exec_accessSliceEnd (w) (s : State) : exec (.accessSliceEnd w) s = execAccessSliceEnd w s := rfl
theorem exec_translationSetComplete (w sub) (s : State) : exec (.translationSetComplete w sub) s = execTranslationSetComplete w sub s := rfl
theorem exec_tableWalk (die ctx vpage) (s : State) : exec (.tableWalk die ctx vpage) s = execTableWalk die ctx vpage s := rfl
theorem exec_hostRingWrite (ctx) (s : State) : exec (.hostRingWrite ctx) s = execHostRingWrite ctx s := rfl
theorem exec_hostRingHeadPoll (ctx head) (s : State) : exec (.hostRingHeadPoll ctx head) s = execHostRingHeadPoll ctx head s := rfl
theorem exec_parkedWarpResume (w sub) (s : State) : exec (.parkedWarpResume w sub) s = execParkedWarpResume w sub s := rfl
theorem exec_engineCommandReplay (op) (s : State) : exec (.engineCommandReplay op) s = execEngineCommandReplay op s := rfl
theorem exec_counterDsigPerform (op) (s : State) : exec (.counterDsigPerform op) s = execCounterDsigPerform op s := rfl
theorem exec_counterDpubPerform (op) (s : State) : exec (.counterDpubPerform op) s = execCounterDpubPerform op s := rfl
theorem exec_qpostAccept (op) (s : State) : exec (.qpostAccept op) s = execQpostAccept op s := rfl
theorem exec_launchEnqueue (op) (s : State) : exec (.launchEnqueue op) s = execLaunchEnqueue op s := rfl
theorem exec_binPostAccept (ctx die bin) (s : State) : exec (.binPostAccept ctx die bin) s = execBinPostAccept ctx die bin s := rfl
theorem exec_binRingWrite (ctx die bin) (s : State) : exec (.binRingWrite ctx die bin) s = execBinRingWrite ctx die bin s := rfl
theorem exec_binRefill (ctx die bin) (s : State) : exec (.binRefill ctx die bin) s = execBinRefill ctx die bin s := rfl
theorem exec_binTimerExpiry (ctx die bin) (s : State) : exec (.binTimerExpiry ctx die bin) s = execBinTimerExpiry ctx die bin s := rfl
theorem exec_binDispatch (ctx die bin) (s : State) : exec (.binDispatch ctx die bin) s = execBinDispatch ctx die bin s := rfl
theorem exec_taskEndSignal (op) (s : State) : exec (.taskEndSignal op) s = execTaskEndSignal op s := rfl
theorem exec_binTableInstall (grid die) (s : State) : exec (.binTableInstall grid die) s = execBinTableInstall grid die s := rfl
theorem exec_queueTailReread (q) (s : State) : exec (.queueTailReread q) s = execQueueTailReread q s := rfl
theorem exec_lpbTake (q) (s : State) : exec (.lpbTake q) s = execLpbTake q s := rfl
theorem exec_gridBroadcast (grid) (s : State) : exec (.gridBroadcast grid) s = execGridBroadcast grid s := rfl
theorem exec_blockClaim (grid die) (s : State) : exec (.blockClaim grid die) s = execBlockClaim grid die s := rfl
theorem exec_clusterPlacement (grid die) (s : State) : exec (.clusterPlacement grid die) s = execClusterPlacement grid die s := rfl
theorem exec_coopPlacement (grid) (s : State) : exec (.coopPlacement grid) s = execCoopPlacement grid s := rfl
theorem exec_blockStart (grid cluster) (s : State) : exec (.blockStart grid cluster) s = execBlockStart grid cluster s := rfl
theorem exec_blockEnd (block) (s : State) : exec (.blockEnd block) s = execBlockEnd block s := rfl
theorem exec_gridComplete (grid) (s : State) : exec (.gridComplete grid) s = execGridComplete grid s := rfl
theorem exec_operationComplete (op) (s : State) : exec (.operationComplete op) s = execOperationComplete op s := rfl
theorem exec_engineCommandComplete (op) (s : State) : exec (.engineCommandComplete op) s = execEngineCommandComplete op s := rfl
theorem exec_copyExecute (op unit) (s : State) : exec (.copyExecute op unit) s = execCopyExecute op unit s := rfl
theorem exec_longCommandStart (op) (s : State) : exec (.longCommandStart op) s = execLongCommandStart op s := rfl
theorem exec_accrunSetupStart (op) (s : State) : exec (.accrunSetupStart op) s = execAccrunSetupStart op s := rfl
theorem exec_heapCommandServe (op) (s : State) : exec (.heapCommandServe op) s = execHeapCommandServe op s := rfl
theorem exec_heapFreeReturn (ctx addr) (s : State) : exec (.heapFreeReturn ctx addr) s = execHeapFreeReturn ctx addr s := rfl
theorem exec_pageCommit (op) (s : State) : exec (.pageCommit op) s = execPageCommit op s := rfl
theorem exec_pageDecommit (op) (s : State) : exec (.pageDecommit op) s = execPageDecommit op s := rfl
theorem exec_pageMigration (ctx va dst phase) (s : State) : exec (.pageMigration ctx va dst phase) s = execPageMigration ctx va dst phase s := rfl
theorem exec_bounceReissue (req) (s : State) : exec (.bounceReissue req) s = execBounceReissue req s := rfl
theorem exec_epochEnd (s : State) : exec .epochEnd s = execEpochEnd s := rfl
theorem exec_visibilityTick (s : State) : exec .visibilityTick s = execVisibilityTick s := rfl
theorem exec_writePerform (req) (s : State) : exec (.writePerform req) s = execWritePerform req s := rfl
theorem exec_readServe (req) (s : State) : exec (.readServe req) s = execReadServe req s := rfl
theorem exec_atomicServe (req) (s : State) : exec (.atomicServe req) s = execAtomicServe req s := rfl
theorem exec_packetServe (op page) (s : State) : exec (.packetServe op page) s = execPacketServe op page s := rfl
theorem exec_sectorPacket (die stack) (s : State) : exec (.sectorPacket die stack) s = execSectorPacket die stack s := rfl
theorem exec_sectorFill (die sector) (s : State) : exec (.sectorFill die sector) s = execSectorFill die sector s := rfl
theorem exec_sectorWriteBack (die line) (s : State) : exec (.sectorWriteBack die line) s = execSectorWriteBack die line s := rfl
theorem exec_refresh (stack chan bank) (s : State) : exec (.refresh stack chan bank) s = execRefresh stack chan bank s := rfl
theorem exec_completionTimeout (req) (s : State) : exec (.completionTimeout req) s = execCompletionTimeout req s := rfl
theorem exec_extentReleaseOrderly (die first count) (s : State) : exec (.extentReleaseOrderly die first count) s = execExtentReleaseOrderly die first count s := rfl
theorem exec_backInvalidation (req) (s : State) : exec (.backInvalidation req) s = execBackInvalidation req s := rfl
theorem exec_sigxTakeEffect (op) (s : State) : exec (.sigxTakeEffect op) s = execSigxTakeEffect op s := rfl
theorem exec_collectiveReduce (ctx g peers) (s : State) : exec (.collectiveReduce ctx g peers) s = execCollectiveReduce ctx g peers s := rfl
theorem exec_barrierComplete (key inst) (s : State) : exec (.barrierComplete key inst) s = execBarrierComplete key inst s := rfl
theorem exec_barrierSettleRelease (w sub) (s : State) : exec (.barrierSettleRelease w sub) s = execBarrierSettleRelease w sub s := rfl
theorem exec_mmqInstance (block cohort inst) (s : State) : exec (.mmqInstance block cohort inst) s = execMmqInstance block cohort inst s := rfl
theorem exec_hangDetect (ctx) (s : State) : exec (.hangDetect ctx) s = execHangDetect ctx s := rfl
theorem exec_externalTimeout (w sub) (s : State) : exec (.externalTimeout w sub) s = execExternalTimeout w sub s := rfl
theorem exec_preemptTimeout (w sub) (s : State) : exec (.preemptTimeout w sub) s = execPreemptTimeout w sub s := rfl
theorem exec_preemptSave (w) (s : State) : exec (.preemptSave w) s = execPreemptSave w s := rfl
theorem exec_preemptRestore (block) (s : State) : exec (.preemptRestore block) s = execPreemptRestore block s := rfl
theorem exec_contextSwitch (out inn phase) (s : State) : exec (.contextSwitch out inn phase) s = execContextSwitch out inn phase s := rfl
theorem exec_hostPageCommit (ctx va) (s : State) : exec (.hostPageCommit ctx va) s = execHostPageCommit ctx va s := rfl
theorem exec_invalidatePage (ctx va) (s : State) : exec (.invalidatePage ctx va) s = execInvalidatePage ctx va s := rfl
theorem exec_invalidateRange (ctx va pages) (s : State) : exec (.invalidateRange ctx va pages) s = execInvalidateRange ctx va pages s := rfl
theorem exec_invalidateContext (ctx) (s : State) : exec (.invalidateContext ctx) s = execInvalidateContext ctx s := rfl
theorem exec_invalidateAll (s : State) : exec .invalidateAll s = execInvalidateAll s := rfl
theorem exec_freezeResume (n) (s : State) : exec (.freezeResume n) s = execFreezeResume n s := rfl
theorem exec_freezeAbort (n) (s : State) : exec (.freezeAbort n) s = execFreezeAbort n s := rfl
theorem exec_memoryScrub (place found) (s : State) : exec (.memoryScrub place found) s = execMemoryScrub place found s := rfl
theorem exec_linkDown (path) (s : State) : exec (.linkDown path) s = execLinkDown path s := rfl
theorem exec_linkRestore (path) (s : State) : exec (.linkRestore path) s = execLinkRestore path s := rfl
theorem exec_flitCrcFail (port) (s : State) : exec (.flitCrcFail port) s = execFlitCrcFail port s := rfl
theorem exec_extentAdd (die first count) (s : State) : exec (.extentAdd die first count) s = execExtentAdd die first count s := rfl
theorem exec_extentReleaseForced (die first count) (s : State) : exec (.extentReleaseForced die first count) s = execExtentReleaseForced die first count s := rfl
theorem exec_cxlMemWrite (fn pa data) (s : State) : exec (.cxlMemWrite fn pa data) s = execCxlMemWrite fn pa data s := rfl
theorem exec_cxlMemRead (fn pa) (s : State) : exec (.cxlMemRead fn pa) s = execCxlMemRead fn pa s := rfl
theorem exec_snoopResponse (sector answer) (s : State) : exec (.snoopResponse sector answer) s = execSnoopResponse sector answer s := rfl
theorem exec_hostCounterWrite (ctx c v) (s : State) : exec (.hostCounterWrite ctx c v) s = execHostCounterWrite ctx c v s := rfl
theorem exec_preemptRequest (unit) (s : State) : exec (.preemptRequest unit) s = execPreemptRequest unit s := rfl
theorem exec_dieHalt (die) (s : State) : exec (.dieHalt die) s = execDieHalt die s := rfl
theorem exec_dieRelease (die) (s : State) : exec (.dieRelease die) s = execDieRelease die s := rfl
theorem exec_dsrcfgWrite (die v) (s : State) : exec (.dsrcfgWrite die v) s = execDsrcfgWrite die v s := rfl
theorem exec_qcfgWrite (q v) (s : State) : exec (.qcfgWrite q v) s = execQcfgWrite q v s := rfl
theorem exec_regionTableWrite (die i v) (s : State) : exec (.regionTableWrite die i v) s = execRegionTableWrite die i v s := rfl
theorem exec_shapeRecordWrite (i v) (s : State) : exec (.shapeRecordWrite i v) s = execShapeRecordWrite i v s := rfl
theorem exec_remapcfgWrite (die v firmware) (s : State) : exec (.remapcfgWrite die v firmware) s = execRemapcfgWrite die v firmware s := rfl
theorem exec_remaplogWrite (v) (s : State) : exec (.remaplogWrite v) s = execRemaplogWrite v s := rfl
theorem exec_ctocfgWrite (v) (s : State) : exec (.ctocfgWrite v) s = execCtocfgWrite v s := rfl
theorem exec_hangcfgWrite (ctx v) (s : State) : exec (.hangcfgWrite ctx v) s = execHangcfgWrite ctx v s := rfl
theorem exec_savecfgWrite (ctx v) (s : State) : exec (.savecfgWrite ctx v) s = execSavecfgWrite ctx v s := rfl
theorem exec_evcfgWrite (v) (s : State) : exec (.evcfgWrite v) s = execEvcfgWrite v s := rfl
theorem exec_contextDescriptorWrite (ctx i v) (s : State) : exec (.contextDescriptorWrite ctx i v) s = execContextDescriptorWrite ctx i v s := rfl
theorem exec_faultLogClear (ctx) (s : State) : exec (.faultLogClear ctx) s = execFaultLogClear ctx s := rfl
theorem exec_sillageClear (core) (s : State) : exec (.sillageClear core) s = execSillageClear core s := rfl
theorem exec_registerWrite (physical r v) (s : State) : exec (.registerWrite physical r v) s = execRegisterWrite physical r v s := rfl
theorem exec_boot (image signature) (s : State) : exec (.boot image signature) s = execBoot image signature s := rfl
theorem exec_measurementExtend (k digest) (s : State) : exec (.measurementExtend k digest) s = execMeasurementExtend k digest s := rfl
theorem exec_attestationRequest (nonce) (s : State) : exec (.attestationRequest nonce) s = execAttestationRequest nonce s := rfl
theorem exec_thermalThrottle (die) (s : State) : exec (.thermalThrottle die) s = execThermalThrottle die s := rfl
theorem exec_thermalEvent (die reading) (s : State) : exec (.thermalEvent die reading) s = execThermalEvent die reading s := rfl
theorem exec_thermalTrip (s : State) : exec .thermalTrip s = execThermalTrip s := rfl
theorem exec_stackHotRefresh (stack) (s : State) : exec (.stackHotRefresh stack) s = execStackHotRefresh stack s := rfl
theorem exec_powerCapThrottle (watts) (s : State) : exec (.powerCapThrottle watts) s = execPowerCapThrottle watts s := rfl
theorem exec_packageColdReset (s : State) : exec .packageColdReset s = execPackageColdReset s := rfl
theorem exec_packageWarmReset (s : State) : exec .packageWarmReset s = execPackageWarmReset s := rfl
theorem exec_computeDieReset (die) (s : State) : exec (.computeDieReset die) s = execComputeDieReset die s := rfl
theorem exec_clockSync (count) (s : State) : exec (.clockSync count) s = execClockSync count s := rfl
theorem exec_skewLoss (s : State) : exec .skewLoss s = execSkewLoss s := rfl
theorem exec_hostSnoop (line) (s : State) : exec (.hostSnoop line) s = execHostSnoop line s := rfl
theorem exec_monitorFallsBelowThreshold (m) (s : State) : exec (.monitorFallsBelowThreshold m) s = execMonitorFallsBelowThreshold m s := rfl
theorem exec_debugUnitClaim (ctx claim) (s : State) : exec (.debugUnitClaim ctx claim) s = execDebugUnitClaim ctx claim s := rfl

end Sys2Proof.Machine
end

