-- ==== Sys2Proof/Laws/Memory.lean ====
section
/-! SUPPORT. Laws of memory: reading back what was written, and the canonical form that every operation keeps. -/

namespace Sys2Proof.Machine

/-- Every listed key is at least `k`. -/
def Memory.from_ (m : Memory) (k : Nat) : Prop := ∀ c ∈ m, k ≤ c.1

@[simp] theorem Memory.byte_nil (k : Nat) : Memory.byte [] k = 0 := rfl

theorem Memory.byte_of_lt {m : Memory} {k j : Nat} (h : m.from_ k) (hj : j < k) : m.byte j = 0 := by
  induction m with
  | nil => rfl
  | cons c r ih =>
    obtain ⟨a, b⟩ := c
    have ha : k ≤ a := h (a, b) (by simp)
    have : ¬ a = j := by omega
    simp only [Memory.byte, this, if_false]
    exact ih (fun x hx => h x (by simp [hx]))

theorem Memory.wf_cons {a : Nat} {b : Byte} {r : Memory} :
    Memory.wf ((a, b) :: r) = true ↔ b ≠ 0 ∧ Memory.from_ r (a + 1) ∧ Memory.wf r = true := by
  induction r generalizing a b with
  | nil => simp [Memory.wf, Memory.from_]
  | cons c r ih =>
    obtain ⟨x, y⟩ := c
    simp only [Memory.wf, Bool.and_eq_true, decide_eq_true_eq, bne_iff_ne, ne_eq]
    constructor
    · rintro ⟨⟨hb, hx⟩, hw⟩
      refine ⟨hb, ?_, hw⟩
      intro c hc
      rcases List.mem_cons.1 hc with rfl | hc
      · exact hx
      · have := (ih.1 hw).2.1 c hc
        omega
    · rintro ⟨hb, hf, hw⟩
      exact ⟨⟨hb, hf (x, y) (by simp)⟩, hw⟩

theorem Memory.put_from {m : Memory} {k j : Nat} {b : Byte} (h : m.from_ j) (hk : j ≤ k) : (m.put k b).from_ j := by
  induction m with
  | nil =>
    intro c hc
    by_cases hb : b = 0#8 <;> simp [Memory.put, hb] at hc
    subst hc; exact hk
  | cons c r ih =>
    obtain ⟨a, x⟩ := c
    have ha : j ≤ a := h (a, x) (by simp)
    have hr : Memory.from_ r j := fun y hy => h y (by simp [hy])
    have h3 := ih hr
    intro y hy
    simp only [Memory.put] at hy
    split at hy
    · split at hy
      · exact h y hy
      · rcases List.mem_cons.1 hy with rfl | hy
        · exact hk
        · exact h y hy
    · split at hy
      · split at hy
        · exact hr y hy
        · rcases List.mem_cons.1 hy with rfl | hy
          · exact hk
          · exact hr y hy
      · rcases List.mem_cons.1 hy with rfl | hy
        · exact ha
        · exact h3 y hy

/-- A write keeps the canonical form. -/
theorem Memory.put_wf {m : Memory} (k : Nat) (b : Byte) (h : m.wf = true) : (m.put k b).wf = true := by
  induction m with
  | nil => by_cases hb : b = 0#8 <;> simp [Memory.put, hb, Memory.wf]
  | cons c r ih =>
    obtain ⟨a, x⟩ := c
    obtain ⟨hx, hf, hr⟩ := Memory.wf_cons.1 h
    simp only [Memory.put]
    split
    · rename_i hk
      split
      · exact h
      · rename_i hb
        refine Memory.wf_cons.2 ⟨hb, ?_, h⟩
        intro y hy
        rcases List.mem_cons.1 hy with rfl | hy
        · exact hk
        · have := hf y hy; omega
    · split
      · rename_i hk
        subst hk
        split
        · exact hr
        · rename_i hb
          exact Memory.wf_cons.2 ⟨hb, hf, hr⟩
      · exact Memory.wf_cons.2 ⟨hx, Memory.put_from hf (by omega), ih hr⟩

theorem Memory.from_mono {m : Memory} {j k : Nat} (h : m.from_ k) (hj : j ≤ k) : m.from_ j :=
  fun c hc => Nat.le_trans hj (h c hc)

/-- A read after a write: the byte written at its key, and every other byte as before. -/
theorem Memory.byte_put {m : Memory} (k j : Nat) (b : Byte) (h : m.wf = true) :
    (m.put k b).byte j = if j = k then b else m.byte j := by
  induction m with
  | nil =>
    by_cases hb : b = 0#8
    · simp [Memory.put, hb]
    · by_cases hj : j = k
      · simp [Memory.put, hb, Memory.byte, hj]
      · have : ¬ k = j := fun e => hj e.symm
        simp [Memory.put, hb, Memory.byte, hj, this]
  | cons c r ih =>
    obtain ⟨a, x⟩ := c
    obtain ⟨hx, hf, hr⟩ := Memory.wf_cons.1 h
    have hlow : ∀ n, n ≤ a → Memory.byte r n = 0 := fun n hn => Memory.byte_of_lt hf (by omega)
    simp only [Memory.put]
    split
    · rename_i hk
      split
      · rename_i hb
        by_cases hj : j = k
        · subst hj
          have : ¬ a = j := by omega
          simp [Memory.byte, this, hlow j (by omega), hb]
        · simp [hj]
      · by_cases hj : j = k
        · simp [Memory.byte, hj]
        · have : ¬ k = j := fun e => hj e.symm
          simp [Memory.byte, hj, this]
    · split
      · rename_i hk
        subst hk
        split
        · rename_i hb
          by_cases hj : j = a
          · subst hj; simp [hlow j (Nat.le_refl _), hb]
          · have : ¬ a = j := fun e => hj e.symm
            simp [Memory.byte, hj, this]
        · by_cases hj : j = a
          · simp [Memory.byte, hj]
          · have : ¬ a = j := fun e => hj e.symm
            simp [Memory.byte, hj, this]
      · rename_i hk hak
        by_cases hja : a = j
        · have : ¬ j = k := by omega
          simp [Memory.byte, hja, this]
        · simp [Memory.byte, hja, ih hr]

theorem Memory.putAll_wf {m : Memory} (k : Nat) (bs : List Byte) (h : m.wf = true) : (m.putAll k bs).wf = true := by
  induction bs generalizing m k with
  | nil => exact h
  | cons b bs ih => exact ih (k + 1) (Memory.put_wf k b h)

/-- A read after a write of several bytes. -/
theorem Memory.byte_putAll {m : Memory} (k j : Nat) (bs : List Byte) (h : m.wf = true) :
    (m.putAll k bs).byte j = if k ≤ j ∧ j < k + bs.length then bs.getD (j - k) 0 else m.byte j := by
  induction bs generalizing m k with
  | nil => have : ¬ (k ≤ j ∧ j < k + ([] : List Byte).length) := by simp
           rw [if_neg this]; rfl
  | cons b bs ih =>
    simp only [Memory.putAll]
    rw [ih (k + 1) (Memory.put_wf k b h), Memory.byte_put k j b h]
    by_cases hj : j = k
    · subst hj
      rw [if_neg (by omega), if_pos rfl, if_pos (by simp)]
      simp
    · by_cases hin : k + 1 ≤ j ∧ j < k + 1 + bs.length
      · have h2 : k ≤ j ∧ j < k + (b :: bs).length := by simp; omega
        have h3 : j - k = (j - (k + 1)) + 1 := by omega
        rw [if_pos hin, if_pos h2, h3]; simp
      · have h2 : ¬ (k ≤ j ∧ j < k + (b :: bs).length) := by simp; omega
        rw [if_neg hin, if_neg h2, if_neg hj]

theorem Memory.filter_from {m : Memory} {k : Nat} (p : Host.Cell → Bool) (h : m.from_ k) :
    Memory.from_ (m.filter p) k :=
  fun c hc => h c (List.mem_filter.1 hc).1

theorem Memory.filter_wf {m : Memory} (p : Host.Cell → Bool) (h : m.wf = true) : Memory.wf (m.filter p) = true := by
  induction m with
  | nil => rfl
  | cons c r ih =>
    obtain ⟨a, x⟩ := c
    obtain ⟨hx, hf, hr⟩ := Memory.wf_cons.1 h
    by_cases hp : p (a, x) = true
    · rw [List.filter_cons_of_pos hp]
      exact Memory.wf_cons.2 ⟨hx, Memory.filter_from p hf, ih hr⟩
    · rw [List.filter_cons_of_neg hp]
      exact ih hr

theorem Memory.clear_wf {m : Memory} (k n : Nat) (h : m.wf = true) : (m.clear k n).wf = true :=
  Memory.filter_wf _ h

/-- A read after a range was zeroed. -/
theorem Memory.byte_clear {m : Memory} (k n j : Nat) (h : m.wf = true) :
    (m.clear k n).byte j = if k ≤ j ∧ j < k + n then 0 else m.byte j := by
  induction m with
  | nil => simp [Memory.clear]
  | cons c r ih =>
    obtain ⟨a, x⟩ := c
    obtain ⟨hx, hf, hr⟩ := Memory.wf_cons.1 h
    have ih := ih hr
    simp only [Memory.clear] at ih ⊢
    by_cases ha : k ≤ a ∧ a < k + n
    · rw [List.filter_cons_of_neg (by simp; omega), ih]
      by_cases hj : k ≤ j ∧ j < k + n
      · simp [hj]
      · have : ¬ a = j := by intro e; subst e; exact hj ha
        rw [if_neg hj, if_neg hj]; simp [Memory.byte, this]
    · rw [List.filter_cons_of_pos (by simp; omega)]
      by_cases hja : a = j
      · subst hja; simp [Memory.byte, ha]
      · simp only [Memory.byte, hja, if_false]; exact ih

theorem Store.apply_wf {m : Memory} (x : Store) (h : m.wf = true) : (Store.apply m x).wf = true := by
  cases x with
  | bytes k bs => exact Memory.putAll_wf k bs h
  | clear k n => exact Memory.clear_wf k n h

/-- Every key outside a store reads as before. -/
theorem Store.byte_apply {m : Memory} (x : Store) (j : Nat) (h : m.wf = true) (hj : x.covers j = false) :
    (Store.apply m x).byte j = m.byte j := by
  cases x with
  | bytes k bs =>
    have : ¬ (k ≤ j ∧ j < k + bs.length) := by simpa [Store.covers] using hj
    simp [Store.apply, Memory.byte_putAll k j bs h, this]
  | clear k n =>
    have : ¬ (k ≤ j ∧ j < k + n) := by simpa [Store.covers] using hj
    simp [Store.apply, Memory.byte_clear k n j h, this]

theorem applyStores_wf {m : Memory} (l : List Store) (h : m.wf = true) : (applyStores m l).wf = true := by
  induction l generalizing m with
  | nil => exact h
  | cons x l ih => exact ih (Store.apply_wf x h)

theorem byte_applyStores {m : Memory} (l : List Store) (j : Nat) (h : m.wf = true)
    (hj : ∀ x ∈ l, x.covers j = false) : (applyStores m l).byte j = m.byte j := by
  induction l generalizing m with
  | nil => rfl
  | cons x l ih =>
    have hx := hj x (by simp)
    have := ih (Store.apply_wf x h) (fun y hy => hj y (by simp [hy]))
    simp only [applyStores, List.foldl_cons] at this ⊢
    rw [this, Store.byte_apply x j h hx]

/-! ### The end of a step -/

@[simp] theorem commit_sys (s : State) (u : Upd) : (commit s u).sys = u.sys := rfl
@[simp] theorem commit_mem (s : State) (u : Upd) : (commit s u).mem = applyStores s.mem u.stores := rfl
@[simp] theorem Upd.of_sys (y : Sys) : (Upd.of y).sys = y := rfl
@[simp] theorem Upd.of_stores (y : Sys) : (Upd.of y).stores = [] := rfl
@[simp] theorem applyStores_nil (m : Memory) : applyStores m [] = m := rfl

theorem commit_of (s : State) (y : Sys) : commit s (.of y) = { s with sys := y } := rfl

/-- Whatever a step does, memory keeps its canonical form. -/
theorem commit_wf {s : State} (u : Upd) (h : s.mem.wf = true) : (commit s u).mem.wf = true :=
  applyStores_wf u.stores h

theorem reset_mem_wf : State.reset.mem.wf = true := rfl

end Sys2Proof.Machine
end

