-- ==== Sys2Proof/Laws/State.lean ====
section
/-! SUPPORT. Every field of the state after each of the named updates, one lemma per field per update, so that no proof
unfolds a record update. -/

namespace Sys2Proof.Machine

/-! ### `Sys.setWarp` -/

@[simp] theorem Sys.setWarp_time (y : Sys) (w : Warp) : (y.setWarp w).time = y.time := rfl
@[simp] theorem Sys.setWarp_blocks (y : Sys) (w : Warp) : (y.setWarp w).blocks = y.blocks := rfl
@[simp] theorem Sys.setWarp_grids (y : Sys) (w : Warp) : (y.setWarp w).grids = y.grids := rfl
@[simp] theorem Sys.setWarp_bins (y : Sys) (w : Warp) : (y.setWarp w).bins = y.bins := rfl
@[simp] theorem Sys.setWarp_posts (y : Sys) (w : Warp) : (y.setWarp w).posts = y.posts := rfl
@[simp] theorem Sys.setWarp_ops (y : Sys) (w : Warp) : (y.setWarp w).ops = y.ops := rfl
@[simp] theorem Sys.setWarp_reqs (y : Sys) (w : Warp) : (y.setWarp w).reqs = y.reqs := rfl
@[simp] theorem Sys.setWarp_reading (y : Sys) (w : Warp) : (y.setWarp w).reading = y.reading := rfl
@[simp] theorem Sys.setWarp_unseen (y : Sys) (w : Warp) : (y.setWarp w).unseen = y.unseen := rfl
@[simp] theorem Sys.setWarp_imprecise (y : Sys) (w : Warp) : (y.setWarp w).imprecise = y.imprecise := rfl
@[simp] theorem Sys.setWarp_contexts (y : Sys) (w : Warp) : (y.setWarp w).contexts = y.contexts := rfl
@[simp] theorem Sys.setWarp_dies (y : Sys) (w : Warp) : (y.setWarp w).dies = y.dies := rfl
@[simp] theorem Sys.setWarp_tlb (y : Sys) (w : Warp) : (y.setWarp w).tlb = y.tlb := rfl
@[simp] theorem Sys.setWarp_misses (y : Sys) (w : Warp) : (y.setWarp w).misses = y.misses := rfl
@[simp] theorem Sys.setWarp_found (y : Sys) (w : Warp) : (y.setWarp w).found = y.found := rfl
@[simp] theorem Sys.setWarp_invals (y : Sys) (w : Warp) : (y.setWarp w).invals = y.invals := rfl
@[simp] theorem Sys.setWarp_heldFaults (y : Sys) (w : Warp) : (y.setWarp w).heldFaults = y.heldFaults := rfl
@[simp] theorem Sys.setWarp_icache (y : Sys) (w : Warp) : (y.setWarp w).icache = y.icache := rfl
@[simp] theorem Sys.setWarp_cached (y : Sys) (w : Warp) : (y.setWarp w).cached = y.cached := rfl
@[simp] theorem Sys.setWarp_wanted (y : Sys) (w : Warp) : (y.setWarp w).wanted = y.wanted := rfl
@[simp] theorem Sys.setWarp_returned (y : Sys) (w : Warp) : (y.setWarp w).returned = y.returned := rfl
@[simp] theorem Sys.setWarp_poison (y : Sys) (w : Warp) : (y.setWarp w).poison = y.poison := rfl
@[simp] theorem Sys.setWarp_hostHeld (y : Sys) (w : Warp) : (y.setWarp w).hostHeld = y.hostHeld := rfl
@[simp] theorem Sys.setWarp_holder (y : Sys) (w : Warp) : (y.setWarp w).holder = y.holder := rfl
@[simp] theorem Sys.setWarp_snooping (y : Sys) (w : Warp) : (y.setWarp w).snooping = y.snooping := rfl
@[simp] theorem Sys.setWarp_late (y : Sys) (w : Warp) : (y.setWarp w).late = y.late := rfl
@[simp] theorem Sys.setWarp_hostAnswer (y : Sys) (w : Warp) : (y.setWarp w).hostAnswer = y.hostAnswer := rfl
@[simp] theorem Sys.setWarp_barriers (y : Sys) (w : Warp) : (y.setWarp w).barriers = y.barriers := rfl
@[simp] theorem Sys.setWarp_mmqs (y : Sys) (w : Warp) : (y.setWarp w).mmqs = y.mmqs := rfl
@[simp] theorem Sys.setWarp_xreds (y : Sys) (w : Warp) : (y.setWarp w).xreds = y.xreds := rfl
@[simp] theorem Sys.setWarp_portA (y : Sys) (w : Warp) : (y.setWarp w).portA = y.portA := rfl
@[simp] theorem Sys.setWarp_portPhase (y : Sys) (w : Warp) : (y.setWarp w).portPhase = y.portPhase := rfl
@[simp] theorem Sys.setWarp_portSeen (y : Sys) (w : Warp) : (y.setWarp w).portSeen = y.portSeen := rfl
@[simp] theorem Sys.setWarp_portPicks (y : Sys) (w : Warp) : (y.setWarp w).portPicks = y.portPicks := rfl
@[simp] theorem Sys.setWarp_portFrom (y : Sys) (w : Warp) : (y.setWarp w).portFrom = y.portFrom := rfl
@[simp] theorem Sys.setWarp_refresh (y : Sys) (w : Warp) : (y.setWarp w).refresh = y.refresh := rfl
@[simp] theorem Sys.setWarp_hot (y : Sys) (w : Warp) : (y.setWarp w).hot = y.hot := rfl
@[simp] theorem Sys.setWarp_ctl (y : Sys) (w : Warp) : (y.setWarp w).ctl = y.ctl := rfl
@[simp] theorem Sys.setWarp_links (y : Sys) (w : Warp) : (y.setWarp w).links = y.links := rfl
@[simp] theorem Sys.setWarp_fwRegions (y : Sys) (w : Warp) : (y.setWarp w).fwRegions = y.fwRegions := rfl
@[simp] theorem Sys.setWarp_freezes (y : Sys) (w : Warp) : (y.setWarp w).freezes = y.freezes := rfl
@[simp] theorem Sys.setWarp_preempts (y : Sys) (w : Warp) : (y.setWarp w).preempts = y.preempts := rfl
@[simp] theorem Sys.setWarp_saved (y : Sys) (w : Warp) : (y.setWarp w).saved = y.saved := rfl
@[simp] theorem Sys.setWarp_savedContexts (y : Sys) (w : Warp) : (y.setWarp w).savedContexts = y.savedContexts := rfl
@[simp] theorem Sys.setWarp_switching (y : Sys) (w : Warp) : (y.setWarp w).switching = y.switching := rfl
@[simp] theorem Sys.setWarp_migrations (y : Sys) (w : Warp) : (y.setWarp w).migrations = y.migrations := rfl
@[simp] theorem Sys.setWarp_agenda (y : Sys) (w : Warp) : (y.setWarp w).agenda = y.agenda := rfl
@[simp] theorem Sys.setWarp_selected (y : Sys) (w : Warp) : (y.setWarp w).selected = y.selected := rfl
@[simp] theorem Sys.setWarp_cur (y : Sys) (w : Warp) : (y.setWarp w).cur = y.cur := rfl
@[simp] theorem Sys.setWarp_nextId (y : Sys) (w : Warp) : (y.setWarp w).nextId = y.nextId := rfl
@[simp] theorem Sys.setWarp_free (y : Sys) (w : Warp) : (y.setWarp w).free = y.free := rfl

/-! ### `Sys.setBlock` -/

@[simp] theorem Sys.setBlock_time (y : Sys) (k : Block) : (y.setBlock k).time = y.time := rfl
@[simp] theorem Sys.setBlock_warps (y : Sys) (k : Block) : (y.setBlock k).warps = y.warps := rfl
@[simp] theorem Sys.setBlock_grids (y : Sys) (k : Block) : (y.setBlock k).grids = y.grids := rfl
@[simp] theorem Sys.setBlock_bins (y : Sys) (k : Block) : (y.setBlock k).bins = y.bins := rfl
@[simp] theorem Sys.setBlock_posts (y : Sys) (k : Block) : (y.setBlock k).posts = y.posts := rfl
@[simp] theorem Sys.setBlock_ops (y : Sys) (k : Block) : (y.setBlock k).ops = y.ops := rfl
@[simp] theorem Sys.setBlock_reqs (y : Sys) (k : Block) : (y.setBlock k).reqs = y.reqs := rfl
@[simp] theorem Sys.setBlock_reading (y : Sys) (k : Block) : (y.setBlock k).reading = y.reading := rfl
@[simp] theorem Sys.setBlock_unseen (y : Sys) (k : Block) : (y.setBlock k).unseen = y.unseen := rfl
@[simp] theorem Sys.setBlock_imprecise (y : Sys) (k : Block) : (y.setBlock k).imprecise = y.imprecise := rfl
@[simp] theorem Sys.setBlock_contexts (y : Sys) (k : Block) : (y.setBlock k).contexts = y.contexts := rfl
@[simp] theorem Sys.setBlock_dies (y : Sys) (k : Block) : (y.setBlock k).dies = y.dies := rfl
@[simp] theorem Sys.setBlock_tlb (y : Sys) (k : Block) : (y.setBlock k).tlb = y.tlb := rfl
@[simp] theorem Sys.setBlock_misses (y : Sys) (k : Block) : (y.setBlock k).misses = y.misses := rfl
@[simp] theorem Sys.setBlock_found (y : Sys) (k : Block) : (y.setBlock k).found = y.found := rfl
@[simp] theorem Sys.setBlock_invals (y : Sys) (k : Block) : (y.setBlock k).invals = y.invals := rfl
@[simp] theorem Sys.setBlock_heldFaults (y : Sys) (k : Block) : (y.setBlock k).heldFaults = y.heldFaults := rfl
@[simp] theorem Sys.setBlock_icache (y : Sys) (k : Block) : (y.setBlock k).icache = y.icache := rfl
@[simp] theorem Sys.setBlock_cached (y : Sys) (k : Block) : (y.setBlock k).cached = y.cached := rfl
@[simp] theorem Sys.setBlock_wanted (y : Sys) (k : Block) : (y.setBlock k).wanted = y.wanted := rfl
@[simp] theorem Sys.setBlock_returned (y : Sys) (k : Block) : (y.setBlock k).returned = y.returned := rfl
@[simp] theorem Sys.setBlock_poison (y : Sys) (k : Block) : (y.setBlock k).poison = y.poison := rfl
@[simp] theorem Sys.setBlock_hostHeld (y : Sys) (k : Block) : (y.setBlock k).hostHeld = y.hostHeld := rfl
@[simp] theorem Sys.setBlock_holder (y : Sys) (k : Block) : (y.setBlock k).holder = y.holder := rfl
@[simp] theorem Sys.setBlock_snooping (y : Sys) (k : Block) : (y.setBlock k).snooping = y.snooping := rfl
@[simp] theorem Sys.setBlock_late (y : Sys) (k : Block) : (y.setBlock k).late = y.late := rfl
@[simp] theorem Sys.setBlock_hostAnswer (y : Sys) (k : Block) : (y.setBlock k).hostAnswer = y.hostAnswer := rfl
@[simp] theorem Sys.setBlock_barriers (y : Sys) (k : Block) : (y.setBlock k).barriers = y.barriers := rfl
@[simp] theorem Sys.setBlock_mmqs (y : Sys) (k : Block) : (y.setBlock k).mmqs = y.mmqs := rfl
@[simp] theorem Sys.setBlock_xreds (y : Sys) (k : Block) : (y.setBlock k).xreds = y.xreds := rfl
@[simp] theorem Sys.setBlock_portA (y : Sys) (k : Block) : (y.setBlock k).portA = y.portA := rfl
@[simp] theorem Sys.setBlock_portPhase (y : Sys) (k : Block) : (y.setBlock k).portPhase = y.portPhase := rfl
@[simp] theorem Sys.setBlock_portSeen (y : Sys) (k : Block) : (y.setBlock k).portSeen = y.portSeen := rfl
@[simp] theorem Sys.setBlock_portPicks (y : Sys) (k : Block) : (y.setBlock k).portPicks = y.portPicks := rfl
@[simp] theorem Sys.setBlock_portFrom (y : Sys) (k : Block) : (y.setBlock k).portFrom = y.portFrom := rfl
@[simp] theorem Sys.setBlock_refresh (y : Sys) (k : Block) : (y.setBlock k).refresh = y.refresh := rfl
@[simp] theorem Sys.setBlock_hot (y : Sys) (k : Block) : (y.setBlock k).hot = y.hot := rfl
@[simp] theorem Sys.setBlock_ctl (y : Sys) (k : Block) : (y.setBlock k).ctl = y.ctl := rfl
@[simp] theorem Sys.setBlock_links (y : Sys) (k : Block) : (y.setBlock k).links = y.links := rfl
@[simp] theorem Sys.setBlock_fwRegions (y : Sys) (k : Block) : (y.setBlock k).fwRegions = y.fwRegions := rfl
@[simp] theorem Sys.setBlock_freezes (y : Sys) (k : Block) : (y.setBlock k).freezes = y.freezes := rfl
@[simp] theorem Sys.setBlock_preempts (y : Sys) (k : Block) : (y.setBlock k).preempts = y.preempts := rfl
@[simp] theorem Sys.setBlock_saved (y : Sys) (k : Block) : (y.setBlock k).saved = y.saved := rfl
@[simp] theorem Sys.setBlock_savedContexts (y : Sys) (k : Block) : (y.setBlock k).savedContexts = y.savedContexts := rfl
@[simp] theorem Sys.setBlock_switching (y : Sys) (k : Block) : (y.setBlock k).switching = y.switching := rfl
@[simp] theorem Sys.setBlock_migrations (y : Sys) (k : Block) : (y.setBlock k).migrations = y.migrations := rfl
@[simp] theorem Sys.setBlock_agenda (y : Sys) (k : Block) : (y.setBlock k).agenda = y.agenda := rfl
@[simp] theorem Sys.setBlock_selected (y : Sys) (k : Block) : (y.setBlock k).selected = y.selected := rfl
@[simp] theorem Sys.setBlock_cur (y : Sys) (k : Block) : (y.setBlock k).cur = y.cur := rfl
@[simp] theorem Sys.setBlock_nextId (y : Sys) (k : Block) : (y.setBlock k).nextId = y.nextId := rfl
@[simp] theorem Sys.setBlock_free (y : Sys) (k : Block) : (y.setBlock k).free = y.free := rfl

/-! ### `Sys.setOp` -/

@[simp] theorem Sys.setOp_time (y : Sys) (p : Op) : (y.setOp p).time = y.time := rfl
@[simp] theorem Sys.setOp_warps (y : Sys) (p : Op) : (y.setOp p).warps = y.warps := rfl
@[simp] theorem Sys.setOp_blocks (y : Sys) (p : Op) : (y.setOp p).blocks = y.blocks := rfl
@[simp] theorem Sys.setOp_grids (y : Sys) (p : Op) : (y.setOp p).grids = y.grids := rfl
@[simp] theorem Sys.setOp_bins (y : Sys) (p : Op) : (y.setOp p).bins = y.bins := rfl
@[simp] theorem Sys.setOp_posts (y : Sys) (p : Op) : (y.setOp p).posts = y.posts := rfl
@[simp] theorem Sys.setOp_reqs (y : Sys) (p : Op) : (y.setOp p).reqs = y.reqs := rfl
@[simp] theorem Sys.setOp_reading (y : Sys) (p : Op) : (y.setOp p).reading = y.reading := rfl
@[simp] theorem Sys.setOp_unseen (y : Sys) (p : Op) : (y.setOp p).unseen = y.unseen := rfl
@[simp] theorem Sys.setOp_imprecise (y : Sys) (p : Op) : (y.setOp p).imprecise = y.imprecise := rfl
@[simp] theorem Sys.setOp_contexts (y : Sys) (p : Op) : (y.setOp p).contexts = y.contexts := rfl
@[simp] theorem Sys.setOp_dies (y : Sys) (p : Op) : (y.setOp p).dies = y.dies := rfl
@[simp] theorem Sys.setOp_tlb (y : Sys) (p : Op) : (y.setOp p).tlb = y.tlb := rfl
@[simp] theorem Sys.setOp_misses (y : Sys) (p : Op) : (y.setOp p).misses = y.misses := rfl
@[simp] theorem Sys.setOp_found (y : Sys) (p : Op) : (y.setOp p).found = y.found := rfl
@[simp] theorem Sys.setOp_invals (y : Sys) (p : Op) : (y.setOp p).invals = y.invals := rfl
@[simp] theorem Sys.setOp_heldFaults (y : Sys) (p : Op) : (y.setOp p).heldFaults = y.heldFaults := rfl
@[simp] theorem Sys.setOp_icache (y : Sys) (p : Op) : (y.setOp p).icache = y.icache := rfl
@[simp] theorem Sys.setOp_cached (y : Sys) (p : Op) : (y.setOp p).cached = y.cached := rfl
@[simp] theorem Sys.setOp_wanted (y : Sys) (p : Op) : (y.setOp p).wanted = y.wanted := rfl
@[simp] theorem Sys.setOp_returned (y : Sys) (p : Op) : (y.setOp p).returned = y.returned := rfl
@[simp] theorem Sys.setOp_poison (y : Sys) (p : Op) : (y.setOp p).poison = y.poison := rfl
@[simp] theorem Sys.setOp_hostHeld (y : Sys) (p : Op) : (y.setOp p).hostHeld = y.hostHeld := rfl
@[simp] theorem Sys.setOp_holder (y : Sys) (p : Op) : (y.setOp p).holder = y.holder := rfl
@[simp] theorem Sys.setOp_snooping (y : Sys) (p : Op) : (y.setOp p).snooping = y.snooping := rfl
@[simp] theorem Sys.setOp_late (y : Sys) (p : Op) : (y.setOp p).late = y.late := rfl
@[simp] theorem Sys.setOp_hostAnswer (y : Sys) (p : Op) : (y.setOp p).hostAnswer = y.hostAnswer := rfl
@[simp] theorem Sys.setOp_barriers (y : Sys) (p : Op) : (y.setOp p).barriers = y.barriers := rfl
@[simp] theorem Sys.setOp_mmqs (y : Sys) (p : Op) : (y.setOp p).mmqs = y.mmqs := rfl
@[simp] theorem Sys.setOp_xreds (y : Sys) (p : Op) : (y.setOp p).xreds = y.xreds := rfl
@[simp] theorem Sys.setOp_portA (y : Sys) (p : Op) : (y.setOp p).portA = y.portA := rfl
@[simp] theorem Sys.setOp_portPhase (y : Sys) (p : Op) : (y.setOp p).portPhase = y.portPhase := rfl
@[simp] theorem Sys.setOp_portSeen (y : Sys) (p : Op) : (y.setOp p).portSeen = y.portSeen := rfl
@[simp] theorem Sys.setOp_portPicks (y : Sys) (p : Op) : (y.setOp p).portPicks = y.portPicks := rfl
@[simp] theorem Sys.setOp_portFrom (y : Sys) (p : Op) : (y.setOp p).portFrom = y.portFrom := rfl
@[simp] theorem Sys.setOp_refresh (y : Sys) (p : Op) : (y.setOp p).refresh = y.refresh := rfl
@[simp] theorem Sys.setOp_hot (y : Sys) (p : Op) : (y.setOp p).hot = y.hot := rfl
@[simp] theorem Sys.setOp_ctl (y : Sys) (p : Op) : (y.setOp p).ctl = y.ctl := rfl
@[simp] theorem Sys.setOp_links (y : Sys) (p : Op) : (y.setOp p).links = y.links := rfl
@[simp] theorem Sys.setOp_fwRegions (y : Sys) (p : Op) : (y.setOp p).fwRegions = y.fwRegions := rfl
@[simp] theorem Sys.setOp_freezes (y : Sys) (p : Op) : (y.setOp p).freezes = y.freezes := rfl
@[simp] theorem Sys.setOp_preempts (y : Sys) (p : Op) : (y.setOp p).preempts = y.preempts := rfl
@[simp] theorem Sys.setOp_saved (y : Sys) (p : Op) : (y.setOp p).saved = y.saved := rfl
@[simp] theorem Sys.setOp_savedContexts (y : Sys) (p : Op) : (y.setOp p).savedContexts = y.savedContexts := rfl
@[simp] theorem Sys.setOp_switching (y : Sys) (p : Op) : (y.setOp p).switching = y.switching := rfl
@[simp] theorem Sys.setOp_migrations (y : Sys) (p : Op) : (y.setOp p).migrations = y.migrations := rfl
@[simp] theorem Sys.setOp_agenda (y : Sys) (p : Op) : (y.setOp p).agenda = y.agenda := rfl
@[simp] theorem Sys.setOp_selected (y : Sys) (p : Op) : (y.setOp p).selected = y.selected := rfl
@[simp] theorem Sys.setOp_cur (y : Sys) (p : Op) : (y.setOp p).cur = y.cur := rfl
@[simp] theorem Sys.setOp_nextId (y : Sys) (p : Op) : (y.setOp p).nextId = y.nextId := rfl
@[simp] theorem Sys.setOp_free (y : Sys) (p : Op) : (y.setOp p).free = y.free := rfl

/-! ### `Sys.dropOp` -/

@[simp] theorem Sys.dropOp_time (y : Sys) (n : Nat) : (y.dropOp n).time = y.time := rfl
@[simp] theorem Sys.dropOp_warps (y : Sys) (n : Nat) : (y.dropOp n).warps = y.warps := rfl
@[simp] theorem Sys.dropOp_blocks (y : Sys) (n : Nat) : (y.dropOp n).blocks = y.blocks := rfl
@[simp] theorem Sys.dropOp_grids (y : Sys) (n : Nat) : (y.dropOp n).grids = y.grids := rfl
@[simp] theorem Sys.dropOp_bins (y : Sys) (n : Nat) : (y.dropOp n).bins = y.bins := rfl
@[simp] theorem Sys.dropOp_posts (y : Sys) (n : Nat) : (y.dropOp n).posts = y.posts := rfl
@[simp] theorem Sys.dropOp_reading (y : Sys) (n : Nat) : (y.dropOp n).reading = y.reading := rfl
@[simp] theorem Sys.dropOp_unseen (y : Sys) (n : Nat) : (y.dropOp n).unseen = y.unseen := rfl
@[simp] theorem Sys.dropOp_imprecise (y : Sys) (n : Nat) : (y.dropOp n).imprecise = y.imprecise := rfl
@[simp] theorem Sys.dropOp_contexts (y : Sys) (n : Nat) : (y.dropOp n).contexts = y.contexts := rfl
@[simp] theorem Sys.dropOp_dies (y : Sys) (n : Nat) : (y.dropOp n).dies = y.dies := rfl
@[simp] theorem Sys.dropOp_tlb (y : Sys) (n : Nat) : (y.dropOp n).tlb = y.tlb := rfl
@[simp] theorem Sys.dropOp_misses (y : Sys) (n : Nat) : (y.dropOp n).misses = y.misses := rfl
@[simp] theorem Sys.dropOp_invals (y : Sys) (n : Nat) : (y.dropOp n).invals = y.invals := rfl
@[simp] theorem Sys.dropOp_heldFaults (y : Sys) (n : Nat) : (y.dropOp n).heldFaults = y.heldFaults := rfl
@[simp] theorem Sys.dropOp_icache (y : Sys) (n : Nat) : (y.dropOp n).icache = y.icache := rfl
@[simp] theorem Sys.dropOp_cached (y : Sys) (n : Nat) : (y.dropOp n).cached = y.cached := rfl
@[simp] theorem Sys.dropOp_wanted (y : Sys) (n : Nat) : (y.dropOp n).wanted = y.wanted := rfl
@[simp] theorem Sys.dropOp_returned (y : Sys) (n : Nat) : (y.dropOp n).returned = y.returned := rfl
@[simp] theorem Sys.dropOp_poison (y : Sys) (n : Nat) : (y.dropOp n).poison = y.poison := rfl
@[simp] theorem Sys.dropOp_hostHeld (y : Sys) (n : Nat) : (y.dropOp n).hostHeld = y.hostHeld := rfl
@[simp] theorem Sys.dropOp_holder (y : Sys) (n : Nat) : (y.dropOp n).holder = y.holder := rfl
@[simp] theorem Sys.dropOp_snooping (y : Sys) (n : Nat) : (y.dropOp n).snooping = y.snooping := rfl
@[simp] theorem Sys.dropOp_late (y : Sys) (n : Nat) : (y.dropOp n).late = y.late := rfl
@[simp] theorem Sys.dropOp_hostAnswer (y : Sys) (n : Nat) : (y.dropOp n).hostAnswer = y.hostAnswer := rfl
@[simp] theorem Sys.dropOp_barriers (y : Sys) (n : Nat) : (y.dropOp n).barriers = y.barriers := rfl
@[simp] theorem Sys.dropOp_mmqs (y : Sys) (n : Nat) : (y.dropOp n).mmqs = y.mmqs := rfl
@[simp] theorem Sys.dropOp_xreds (y : Sys) (n : Nat) : (y.dropOp n).xreds = y.xreds := rfl
@[simp] theorem Sys.dropOp_portA (y : Sys) (n : Nat) : (y.dropOp n).portA = y.portA := rfl
@[simp] theorem Sys.dropOp_portPhase (y : Sys) (n : Nat) : (y.dropOp n).portPhase = y.portPhase := rfl
@[simp] theorem Sys.dropOp_portSeen (y : Sys) (n : Nat) : (y.dropOp n).portSeen = y.portSeen := rfl
@[simp] theorem Sys.dropOp_portPicks (y : Sys) (n : Nat) : (y.dropOp n).portPicks = y.portPicks := rfl
@[simp] theorem Sys.dropOp_portFrom (y : Sys) (n : Nat) : (y.dropOp n).portFrom = y.portFrom := rfl
@[simp] theorem Sys.dropOp_refresh (y : Sys) (n : Nat) : (y.dropOp n).refresh = y.refresh := rfl
@[simp] theorem Sys.dropOp_hot (y : Sys) (n : Nat) : (y.dropOp n).hot = y.hot := rfl
@[simp] theorem Sys.dropOp_ctl (y : Sys) (n : Nat) : (y.dropOp n).ctl = y.ctl := rfl
@[simp] theorem Sys.dropOp_links (y : Sys) (n : Nat) : (y.dropOp n).links = y.links := rfl
@[simp] theorem Sys.dropOp_fwRegions (y : Sys) (n : Nat) : (y.dropOp n).fwRegions = y.fwRegions := rfl
@[simp] theorem Sys.dropOp_freezes (y : Sys) (n : Nat) : (y.dropOp n).freezes = y.freezes := rfl
@[simp] theorem Sys.dropOp_preempts (y : Sys) (n : Nat) : (y.dropOp n).preempts = y.preempts := rfl
@[simp] theorem Sys.dropOp_saved (y : Sys) (n : Nat) : (y.dropOp n).saved = y.saved := rfl
@[simp] theorem Sys.dropOp_savedContexts (y : Sys) (n : Nat) : (y.dropOp n).savedContexts = y.savedContexts := rfl
@[simp] theorem Sys.dropOp_switching (y : Sys) (n : Nat) : (y.dropOp n).switching = y.switching := rfl
@[simp] theorem Sys.dropOp_migrations (y : Sys) (n : Nat) : (y.dropOp n).migrations = y.migrations := rfl
@[simp] theorem Sys.dropOp_agenda (y : Sys) (n : Nat) : (y.dropOp n).agenda = y.agenda := rfl
@[simp] theorem Sys.dropOp_selected (y : Sys) (n : Nat) : (y.dropOp n).selected = y.selected := rfl
@[simp] theorem Sys.dropOp_cur (y : Sys) (n : Nat) : (y.dropOp n).cur = y.cur := rfl
@[simp] theorem Sys.dropOp_nextId (y : Sys) (n : Nat) : (y.dropOp n).nextId = y.nextId := rfl
@[simp] theorem Sys.dropOp_free (y : Sys) (n : Nat) : (y.dropOp n).free = y.free := rfl

/-! ### `Sys.addOp` -/

@[simp] theorem Sys.addOp_time (y : Sys) (p : Op) : (y.addOp p).time = y.time := rfl
@[simp] theorem Sys.addOp_warps (y : Sys) (p : Op) : (y.addOp p).warps = y.warps := rfl
@[simp] theorem Sys.addOp_blocks (y : Sys) (p : Op) : (y.addOp p).blocks = y.blocks := rfl
@[simp] theorem Sys.addOp_grids (y : Sys) (p : Op) : (y.addOp p).grids = y.grids := rfl
@[simp] theorem Sys.addOp_bins (y : Sys) (p : Op) : (y.addOp p).bins = y.bins := rfl
@[simp] theorem Sys.addOp_posts (y : Sys) (p : Op) : (y.addOp p).posts = y.posts := rfl
@[simp] theorem Sys.addOp_reqs (y : Sys) (p : Op) : (y.addOp p).reqs = y.reqs := rfl
@[simp] theorem Sys.addOp_reading (y : Sys) (p : Op) : (y.addOp p).reading = y.reading := rfl
@[simp] theorem Sys.addOp_unseen (y : Sys) (p : Op) : (y.addOp p).unseen = y.unseen := rfl
@[simp] theorem Sys.addOp_imprecise (y : Sys) (p : Op) : (y.addOp p).imprecise = y.imprecise := rfl
@[simp] theorem Sys.addOp_contexts (y : Sys) (p : Op) : (y.addOp p).contexts = y.contexts := rfl
@[simp] theorem Sys.addOp_dies (y : Sys) (p : Op) : (y.addOp p).dies = y.dies := rfl
@[simp] theorem Sys.addOp_tlb (y : Sys) (p : Op) : (y.addOp p).tlb = y.tlb := rfl
@[simp] theorem Sys.addOp_misses (y : Sys) (p : Op) : (y.addOp p).misses = y.misses := rfl
@[simp] theorem Sys.addOp_found (y : Sys) (p : Op) : (y.addOp p).found = y.found := rfl
@[simp] theorem Sys.addOp_invals (y : Sys) (p : Op) : (y.addOp p).invals = y.invals := rfl
@[simp] theorem Sys.addOp_heldFaults (y : Sys) (p : Op) : (y.addOp p).heldFaults = y.heldFaults := rfl
@[simp] theorem Sys.addOp_icache (y : Sys) (p : Op) : (y.addOp p).icache = y.icache := rfl
@[simp] theorem Sys.addOp_cached (y : Sys) (p : Op) : (y.addOp p).cached = y.cached := rfl
@[simp] theorem Sys.addOp_wanted (y : Sys) (p : Op) : (y.addOp p).wanted = y.wanted := rfl
@[simp] theorem Sys.addOp_returned (y : Sys) (p : Op) : (y.addOp p).returned = y.returned := rfl
@[simp] theorem Sys.addOp_poison (y : Sys) (p : Op) : (y.addOp p).poison = y.poison := rfl
@[simp] theorem Sys.addOp_hostHeld (y : Sys) (p : Op) : (y.addOp p).hostHeld = y.hostHeld := rfl
@[simp] theorem Sys.addOp_holder (y : Sys) (p : Op) : (y.addOp p).holder = y.holder := rfl
@[simp] theorem Sys.addOp_snooping (y : Sys) (p : Op) : (y.addOp p).snooping = y.snooping := rfl
@[simp] theorem Sys.addOp_late (y : Sys) (p : Op) : (y.addOp p).late = y.late := rfl
@[simp] theorem Sys.addOp_hostAnswer (y : Sys) (p : Op) : (y.addOp p).hostAnswer = y.hostAnswer := rfl
@[simp] theorem Sys.addOp_barriers (y : Sys) (p : Op) : (y.addOp p).barriers = y.barriers := rfl
@[simp] theorem Sys.addOp_mmqs (y : Sys) (p : Op) : (y.addOp p).mmqs = y.mmqs := rfl
@[simp] theorem Sys.addOp_xreds (y : Sys) (p : Op) : (y.addOp p).xreds = y.xreds := rfl
@[simp] theorem Sys.addOp_portA (y : Sys) (p : Op) : (y.addOp p).portA = y.portA := rfl
@[simp] theorem Sys.addOp_portPhase (y : Sys) (p : Op) : (y.addOp p).portPhase = y.portPhase := rfl
@[simp] theorem Sys.addOp_portSeen (y : Sys) (p : Op) : (y.addOp p).portSeen = y.portSeen := rfl
@[simp] theorem Sys.addOp_portPicks (y : Sys) (p : Op) : (y.addOp p).portPicks = y.portPicks := rfl
@[simp] theorem Sys.addOp_portFrom (y : Sys) (p : Op) : (y.addOp p).portFrom = y.portFrom := rfl
@[simp] theorem Sys.addOp_refresh (y : Sys) (p : Op) : (y.addOp p).refresh = y.refresh := rfl
@[simp] theorem Sys.addOp_hot (y : Sys) (p : Op) : (y.addOp p).hot = y.hot := rfl
@[simp] theorem Sys.addOp_ctl (y : Sys) (p : Op) : (y.addOp p).ctl = y.ctl := rfl
@[simp] theorem Sys.addOp_links (y : Sys) (p : Op) : (y.addOp p).links = y.links := rfl
@[simp] theorem Sys.addOp_fwRegions (y : Sys) (p : Op) : (y.addOp p).fwRegions = y.fwRegions := rfl
@[simp] theorem Sys.addOp_freezes (y : Sys) (p : Op) : (y.addOp p).freezes = y.freezes := rfl
@[simp] theorem Sys.addOp_preempts (y : Sys) (p : Op) : (y.addOp p).preempts = y.preempts := rfl
@[simp] theorem Sys.addOp_saved (y : Sys) (p : Op) : (y.addOp p).saved = y.saved := rfl
@[simp] theorem Sys.addOp_savedContexts (y : Sys) (p : Op) : (y.addOp p).savedContexts = y.savedContexts := rfl
@[simp] theorem Sys.addOp_switching (y : Sys) (p : Op) : (y.addOp p).switching = y.switching := rfl
@[simp] theorem Sys.addOp_migrations (y : Sys) (p : Op) : (y.addOp p).migrations = y.migrations := rfl
@[simp] theorem Sys.addOp_agenda (y : Sys) (p : Op) : (y.addOp p).agenda = y.agenda := rfl
@[simp] theorem Sys.addOp_selected (y : Sys) (p : Op) : (y.addOp p).selected = y.selected := rfl
@[simp] theorem Sys.addOp_cur (y : Sys) (p : Op) : (y.addOp p).cur = y.cur := rfl
@[simp] theorem Sys.addOp_free (y : Sys) (p : Op) : (y.addOp p).free = y.free := rfl

/-! ### `Sys.setGrid` -/

@[simp] theorem Sys.setGrid_time (y : Sys) (g : Grid) : (y.setGrid g).time = y.time := rfl
@[simp] theorem Sys.setGrid_warps (y : Sys) (g : Grid) : (y.setGrid g).warps = y.warps := rfl
@[simp] theorem Sys.setGrid_blocks (y : Sys) (g : Grid) : (y.setGrid g).blocks = y.blocks := rfl
@[simp] theorem Sys.setGrid_bins (y : Sys) (g : Grid) : (y.setGrid g).bins = y.bins := rfl
@[simp] theorem Sys.setGrid_posts (y : Sys) (g : Grid) : (y.setGrid g).posts = y.posts := rfl
@[simp] theorem Sys.setGrid_ops (y : Sys) (g : Grid) : (y.setGrid g).ops = y.ops := rfl
@[simp] theorem Sys.setGrid_reqs (y : Sys) (g : Grid) : (y.setGrid g).reqs = y.reqs := rfl
@[simp] theorem Sys.setGrid_reading (y : Sys) (g : Grid) : (y.setGrid g).reading = y.reading := rfl
@[simp] theorem Sys.setGrid_unseen (y : Sys) (g : Grid) : (y.setGrid g).unseen = y.unseen := rfl
@[simp] theorem Sys.setGrid_imprecise (y : Sys) (g : Grid) : (y.setGrid g).imprecise = y.imprecise := rfl
@[simp] theorem Sys.setGrid_contexts (y : Sys) (g : Grid) : (y.setGrid g).contexts = y.contexts := rfl
@[simp] theorem Sys.setGrid_dies (y : Sys) (g : Grid) : (y.setGrid g).dies = y.dies := rfl
@[simp] theorem Sys.setGrid_tlb (y : Sys) (g : Grid) : (y.setGrid g).tlb = y.tlb := rfl
@[simp] theorem Sys.setGrid_misses (y : Sys) (g : Grid) : (y.setGrid g).misses = y.misses := rfl
@[simp] theorem Sys.setGrid_found (y : Sys) (g : Grid) : (y.setGrid g).found = y.found := rfl
@[simp] theorem Sys.setGrid_invals (y : Sys) (g : Grid) : (y.setGrid g).invals = y.invals := rfl
@[simp] theorem Sys.setGrid_heldFaults (y : Sys) (g : Grid) : (y.setGrid g).heldFaults = y.heldFaults := rfl
@[simp] theorem Sys.setGrid_icache (y : Sys) (g : Grid) : (y.setGrid g).icache = y.icache := rfl
@[simp] theorem Sys.setGrid_cached (y : Sys) (g : Grid) : (y.setGrid g).cached = y.cached := rfl
@[simp] theorem Sys.setGrid_wanted (y : Sys) (g : Grid) : (y.setGrid g).wanted = y.wanted := rfl
@[simp] theorem Sys.setGrid_returned (y : Sys) (g : Grid) : (y.setGrid g).returned = y.returned := rfl
@[simp] theorem Sys.setGrid_poison (y : Sys) (g : Grid) : (y.setGrid g).poison = y.poison := rfl
@[simp] theorem Sys.setGrid_hostHeld (y : Sys) (g : Grid) : (y.setGrid g).hostHeld = y.hostHeld := rfl
@[simp] theorem Sys.setGrid_holder (y : Sys) (g : Grid) : (y.setGrid g).holder = y.holder := rfl
@[simp] theorem Sys.setGrid_snooping (y : Sys) (g : Grid) : (y.setGrid g).snooping = y.snooping := rfl
@[simp] theorem Sys.setGrid_late (y : Sys) (g : Grid) : (y.setGrid g).late = y.late := rfl
@[simp] theorem Sys.setGrid_hostAnswer (y : Sys) (g : Grid) : (y.setGrid g).hostAnswer = y.hostAnswer := rfl
@[simp] theorem Sys.setGrid_barriers (y : Sys) (g : Grid) : (y.setGrid g).barriers = y.barriers := rfl
@[simp] theorem Sys.setGrid_mmqs (y : Sys) (g : Grid) : (y.setGrid g).mmqs = y.mmqs := rfl
@[simp] theorem Sys.setGrid_xreds (y : Sys) (g : Grid) : (y.setGrid g).xreds = y.xreds := rfl
@[simp] theorem Sys.setGrid_portA (y : Sys) (g : Grid) : (y.setGrid g).portA = y.portA := rfl
@[simp] theorem Sys.setGrid_portPhase (y : Sys) (g : Grid) : (y.setGrid g).portPhase = y.portPhase := rfl
@[simp] theorem Sys.setGrid_portSeen (y : Sys) (g : Grid) : (y.setGrid g).portSeen = y.portSeen := rfl
@[simp] theorem Sys.setGrid_portPicks (y : Sys) (g : Grid) : (y.setGrid g).portPicks = y.portPicks := rfl
@[simp] theorem Sys.setGrid_portFrom (y : Sys) (g : Grid) : (y.setGrid g).portFrom = y.portFrom := rfl
@[simp] theorem Sys.setGrid_refresh (y : Sys) (g : Grid) : (y.setGrid g).refresh = y.refresh := rfl
@[simp] theorem Sys.setGrid_hot (y : Sys) (g : Grid) : (y.setGrid g).hot = y.hot := rfl
@[simp] theorem Sys.setGrid_ctl (y : Sys) (g : Grid) : (y.setGrid g).ctl = y.ctl := rfl
@[simp] theorem Sys.setGrid_links (y : Sys) (g : Grid) : (y.setGrid g).links = y.links := rfl
@[simp] theorem Sys.setGrid_fwRegions (y : Sys) (g : Grid) : (y.setGrid g).fwRegions = y.fwRegions := rfl
@[simp] theorem Sys.setGrid_freezes (y : Sys) (g : Grid) : (y.setGrid g).freezes = y.freezes := rfl
@[simp] theorem Sys.setGrid_preempts (y : Sys) (g : Grid) : (y.setGrid g).preempts = y.preempts := rfl
@[simp] theorem Sys.setGrid_saved (y : Sys) (g : Grid) : (y.setGrid g).saved = y.saved := rfl
@[simp] theorem Sys.setGrid_savedContexts (y : Sys) (g : Grid) : (y.setGrid g).savedContexts = y.savedContexts := rfl
@[simp] theorem Sys.setGrid_switching (y : Sys) (g : Grid) : (y.setGrid g).switching = y.switching := rfl
@[simp] theorem Sys.setGrid_migrations (y : Sys) (g : Grid) : (y.setGrid g).migrations = y.migrations := rfl
@[simp] theorem Sys.setGrid_agenda (y : Sys) (g : Grid) : (y.setGrid g).agenda = y.agenda := rfl
@[simp] theorem Sys.setGrid_selected (y : Sys) (g : Grid) : (y.setGrid g).selected = y.selected := rfl
@[simp] theorem Sys.setGrid_cur (y : Sys) (g : Grid) : (y.setGrid g).cur = y.cur := rfl
@[simp] theorem Sys.setGrid_nextId (y : Sys) (g : Grid) : (y.setGrid g).nextId = y.nextId := rfl
@[simp] theorem Sys.setGrid_free (y : Sys) (g : Grid) : (y.setGrid g).free = y.free := rfl

/-! ### `Sys.setBins` -/

@[simp] theorem Sys.setBins_time (y : Sys) (b : Bins) : (y.setBins b).time = y.time := rfl
@[simp] theorem Sys.setBins_warps (y : Sys) (b : Bins) : (y.setBins b).warps = y.warps := rfl
@[simp] theorem Sys.setBins_blocks (y : Sys) (b : Bins) : (y.setBins b).blocks = y.blocks := rfl
@[simp] theorem Sys.setBins_grids (y : Sys) (b : Bins) : (y.setBins b).grids = y.grids := rfl
@[simp] theorem Sys.setBins_posts (y : Sys) (b : Bins) : (y.setBins b).posts = y.posts := rfl
@[simp] theorem Sys.setBins_ops (y : Sys) (b : Bins) : (y.setBins b).ops = y.ops := rfl
@[simp] theorem Sys.setBins_reqs (y : Sys) (b : Bins) : (y.setBins b).reqs = y.reqs := rfl
@[simp] theorem Sys.setBins_reading (y : Sys) (b : Bins) : (y.setBins b).reading = y.reading := rfl
@[simp] theorem Sys.setBins_unseen (y : Sys) (b : Bins) : (y.setBins b).unseen = y.unseen := rfl
@[simp] theorem Sys.setBins_imprecise (y : Sys) (b : Bins) : (y.setBins b).imprecise = y.imprecise := rfl
@[simp] theorem Sys.setBins_contexts (y : Sys) (b : Bins) : (y.setBins b).contexts = y.contexts := rfl
@[simp] theorem Sys.setBins_dies (y : Sys) (b : Bins) : (y.setBins b).dies = y.dies := rfl
@[simp] theorem Sys.setBins_tlb (y : Sys) (b : Bins) : (y.setBins b).tlb = y.tlb := rfl
@[simp] theorem Sys.setBins_misses (y : Sys) (b : Bins) : (y.setBins b).misses = y.misses := rfl
@[simp] theorem Sys.setBins_found (y : Sys) (b : Bins) : (y.setBins b).found = y.found := rfl
@[simp] theorem Sys.setBins_invals (y : Sys) (b : Bins) : (y.setBins b).invals = y.invals := rfl
@[simp] theorem Sys.setBins_heldFaults (y : Sys) (b : Bins) : (y.setBins b).heldFaults = y.heldFaults := rfl
@[simp] theorem Sys.setBins_icache (y : Sys) (b : Bins) : (y.setBins b).icache = y.icache := rfl
@[simp] theorem Sys.setBins_cached (y : Sys) (b : Bins) : (y.setBins b).cached = y.cached := rfl
@[simp] theorem Sys.setBins_wanted (y : Sys) (b : Bins) : (y.setBins b).wanted = y.wanted := rfl
@[simp] theorem Sys.setBins_returned (y : Sys) (b : Bins) : (y.setBins b).returned = y.returned := rfl
@[simp] theorem Sys.setBins_poison (y : Sys) (b : Bins) : (y.setBins b).poison = y.poison := rfl
@[simp] theorem Sys.setBins_hostHeld (y : Sys) (b : Bins) : (y.setBins b).hostHeld = y.hostHeld := rfl
@[simp] theorem Sys.setBins_holder (y : Sys) (b : Bins) : (y.setBins b).holder = y.holder := rfl
@[simp] theorem Sys.setBins_snooping (y : Sys) (b : Bins) : (y.setBins b).snooping = y.snooping := rfl
@[simp] theorem Sys.setBins_late (y : Sys) (b : Bins) : (y.setBins b).late = y.late := rfl
@[simp] theorem Sys.setBins_hostAnswer (y : Sys) (b : Bins) : (y.setBins b).hostAnswer = y.hostAnswer := rfl
@[simp] theorem Sys.setBins_barriers (y : Sys) (b : Bins) : (y.setBins b).barriers = y.barriers := rfl
@[simp] theorem Sys.setBins_mmqs (y : Sys) (b : Bins) : (y.setBins b).mmqs = y.mmqs := rfl
@[simp] theorem Sys.setBins_xreds (y : Sys) (b : Bins) : (y.setBins b).xreds = y.xreds := rfl
@[simp] theorem Sys.setBins_portA (y : Sys) (b : Bins) : (y.setBins b).portA = y.portA := rfl
@[simp] theorem Sys.setBins_portPhase (y : Sys) (b : Bins) : (y.setBins b).portPhase = y.portPhase := rfl
@[simp] theorem Sys.setBins_portSeen (y : Sys) (b : Bins) : (y.setBins b).portSeen = y.portSeen := rfl
@[simp] theorem Sys.setBins_portPicks (y : Sys) (b : Bins) : (y.setBins b).portPicks = y.portPicks := rfl
@[simp] theorem Sys.setBins_portFrom (y : Sys) (b : Bins) : (y.setBins b).portFrom = y.portFrom := rfl
@[simp] theorem Sys.setBins_refresh (y : Sys) (b : Bins) : (y.setBins b).refresh = y.refresh := rfl
@[simp] theorem Sys.setBins_hot (y : Sys) (b : Bins) : (y.setBins b).hot = y.hot := rfl
@[simp] theorem Sys.setBins_ctl (y : Sys) (b : Bins) : (y.setBins b).ctl = y.ctl := rfl
@[simp] theorem Sys.setBins_links (y : Sys) (b : Bins) : (y.setBins b).links = y.links := rfl
@[simp] theorem Sys.setBins_fwRegions (y : Sys) (b : Bins) : (y.setBins b).fwRegions = y.fwRegions := rfl
@[simp] theorem Sys.setBins_freezes (y : Sys) (b : Bins) : (y.setBins b).freezes = y.freezes := rfl
@[simp] theorem Sys.setBins_preempts (y : Sys) (b : Bins) : (y.setBins b).preempts = y.preempts := rfl
@[simp] theorem Sys.setBins_saved (y : Sys) (b : Bins) : (y.setBins b).saved = y.saved := rfl
@[simp] theorem Sys.setBins_savedContexts (y : Sys) (b : Bins) : (y.setBins b).savedContexts = y.savedContexts := rfl
@[simp] theorem Sys.setBins_switching (y : Sys) (b : Bins) : (y.setBins b).switching = y.switching := rfl
@[simp] theorem Sys.setBins_migrations (y : Sys) (b : Bins) : (y.setBins b).migrations = y.migrations := rfl
@[simp] theorem Sys.setBins_agenda (y : Sys) (b : Bins) : (y.setBins b).agenda = y.agenda := rfl
@[simp] theorem Sys.setBins_selected (y : Sys) (b : Bins) : (y.setBins b).selected = y.selected := rfl
@[simp] theorem Sys.setBins_cur (y : Sys) (b : Bins) : (y.setBins b).cur = y.cur := rfl
@[simp] theorem Sys.setBins_nextId (y : Sys) (b : Bins) : (y.setBins b).nextId = y.nextId := rfl
@[simp] theorem Sys.setBins_free (y : Sys) (b : Bins) : (y.setBins b).free = y.free := rfl

/-! ### `Sys.setContext` -/

@[simp] theorem Sys.setContext_time (y : Sys) (n : Nat) (c : Context) : (y.setContext n c).time = y.time := rfl
@[simp] theorem Sys.setContext_warps (y : Sys) (n : Nat) (c : Context) : (y.setContext n c).warps = y.warps := rfl
@[simp] theorem Sys.setContext_blocks (y : Sys) (n : Nat) (c : Context) : (y.setContext n c).blocks = y.blocks := rfl
@[simp] theorem Sys.setContext_grids (y : Sys) (n : Nat) (c : Context) : (y.setContext n c).grids = y.grids := rfl
@[simp] theorem Sys.setContext_bins (y : Sys) (n : Nat) (c : Context) : (y.setContext n c).bins = y.bins := rfl
@[simp] theorem Sys.setContext_posts (y : Sys) (n : Nat) (c : Context) : (y.setContext n c).posts = y.posts := rfl
@[simp] theorem Sys.setContext_ops (y : Sys) (n : Nat) (c : Context) : (y.setContext n c).ops = y.ops := rfl
@[simp] theorem Sys.setContext_reqs (y : Sys) (n : Nat) (c : Context) : (y.setContext n c).reqs = y.reqs := rfl
@[simp] theorem Sys.setContext_reading (y : Sys) (n : Nat) (c : Context) : (y.setContext n c).reading = y.reading := rfl
@[simp] theorem Sys.setContext_unseen (y : Sys) (n : Nat) (c : Context) : (y.setContext n c).unseen = y.unseen := rfl
@[simp] theorem Sys.setContext_imprecise (y : Sys) (n : Nat) (c : Context) : (y.setContext n c).imprecise = y.imprecise := rfl
@[simp] theorem Sys.setContext_dies (y : Sys) (n : Nat) (c : Context) : (y.setContext n c).dies = y.dies := rfl
@[simp] theorem Sys.setContext_tlb (y : Sys) (n : Nat) (c : Context) : (y.setContext n c).tlb = y.tlb := rfl
@[simp] theorem Sys.setContext_misses (y : Sys) (n : Nat) (c : Context) : (y.setContext n c).misses = y.misses := rfl
@[simp] theorem Sys.setContext_found (y : Sys) (n : Nat) (c : Context) : (y.setContext n c).found = y.found := rfl
@[simp] theorem Sys.setContext_invals (y : Sys) (n : Nat) (c : Context) : (y.setContext n c).invals = y.invals := rfl
@[simp] theorem Sys.setContext_heldFaults (y : Sys) (n : Nat) (c : Context) : (y.setContext n c).heldFaults = y.heldFaults := rfl
@[simp] theorem Sys.setContext_icache (y : Sys) (n : Nat) (c : Context) : (y.setContext n c).icache = y.icache := rfl
@[simp] theorem Sys.setContext_cached (y : Sys) (n : Nat) (c : Context) : (y.setContext n c).cached = y.cached := rfl
@[simp] theorem Sys.setContext_wanted (y : Sys) (n : Nat) (c : Context) : (y.setContext n c).wanted = y.wanted := rfl
@[simp] theorem Sys.setContext_returned (y : Sys) (n : Nat) (c : Context) : (y.setContext n c).returned = y.returned := rfl
@[simp] theorem Sys.setContext_poison (y : Sys) (n : Nat) (c : Context) : (y.setContext n c).poison = y.poison := rfl
@[simp] theorem Sys.setContext_hostHeld (y : Sys) (n : Nat) (c : Context) : (y.setContext n c).hostHeld = y.hostHeld := rfl
@[simp] theorem Sys.setContext_holder (y : Sys) (n : Nat) (c : Context) : (y.setContext n c).holder = y.holder := rfl
@[simp] theorem Sys.setContext_snooping (y : Sys) (n : Nat) (c : Context) : (y.setContext n c).snooping = y.snooping := rfl
@[simp] theorem Sys.setContext_late (y : Sys) (n : Nat) (c : Context) : (y.setContext n c).late = y.late := rfl
@[simp] theorem Sys.setContext_hostAnswer (y : Sys) (n : Nat) (c : Context) : (y.setContext n c).hostAnswer = y.hostAnswer := rfl
@[simp] theorem Sys.setContext_barriers (y : Sys) (n : Nat) (c : Context) : (y.setContext n c).barriers = y.barriers := rfl
@[simp] theorem Sys.setContext_mmqs (y : Sys) (n : Nat) (c : Context) : (y.setContext n c).mmqs = y.mmqs := rfl
@[simp] theorem Sys.setContext_xreds (y : Sys) (n : Nat) (c : Context) : (y.setContext n c).xreds = y.xreds := rfl
@[simp] theorem Sys.setContext_portA (y : Sys) (n : Nat) (c : Context) : (y.setContext n c).portA = y.portA := rfl
@[simp] theorem Sys.setContext_portPhase (y : Sys) (n : Nat) (c : Context) : (y.setContext n c).portPhase = y.portPhase := rfl
@[simp] theorem Sys.setContext_portSeen (y : Sys) (n : Nat) (c : Context) : (y.setContext n c).portSeen = y.portSeen := rfl
@[simp] theorem Sys.setContext_portPicks (y : Sys) (n : Nat) (c : Context) : (y.setContext n c).portPicks = y.portPicks := rfl
@[simp] theorem Sys.setContext_portFrom (y : Sys) (n : Nat) (c : Context) : (y.setContext n c).portFrom = y.portFrom := rfl
@[simp] theorem Sys.setContext_refresh (y : Sys) (n : Nat) (c : Context) : (y.setContext n c).refresh = y.refresh := rfl
@[simp] theorem Sys.setContext_hot (y : Sys) (n : Nat) (c : Context) : (y.setContext n c).hot = y.hot := rfl
@[simp] theorem Sys.setContext_ctl (y : Sys) (n : Nat) (c : Context) : (y.setContext n c).ctl = y.ctl := rfl
@[simp] theorem Sys.setContext_links (y : Sys) (n : Nat) (c : Context) : (y.setContext n c).links = y.links := rfl
@[simp] theorem Sys.setContext_fwRegions (y : Sys) (n : Nat) (c : Context) : (y.setContext n c).fwRegions = y.fwRegions := rfl
@[simp] theorem Sys.setContext_freezes (y : Sys) (n : Nat) (c : Context) : (y.setContext n c).freezes = y.freezes := rfl
@[simp] theorem Sys.setContext_preempts (y : Sys) (n : Nat) (c : Context) : (y.setContext n c).preempts = y.preempts := rfl
@[simp] theorem Sys.setContext_saved (y : Sys) (n : Nat) (c : Context) : (y.setContext n c).saved = y.saved := rfl
@[simp] theorem Sys.setContext_savedContexts (y : Sys) (n : Nat) (c : Context) : (y.setContext n c).savedContexts = y.savedContexts := rfl
@[simp] theorem Sys.setContext_switching (y : Sys) (n : Nat) (c : Context) : (y.setContext n c).switching = y.switching := rfl
@[simp] theorem Sys.setContext_migrations (y : Sys) (n : Nat) (c : Context) : (y.setContext n c).migrations = y.migrations := rfl
@[simp] theorem Sys.setContext_agenda (y : Sys) (n : Nat) (c : Context) : (y.setContext n c).agenda = y.agenda := rfl
@[simp] theorem Sys.setContext_selected (y : Sys) (n : Nat) (c : Context) : (y.setContext n c).selected = y.selected := rfl
@[simp] theorem Sys.setContext_cur (y : Sys) (n : Nat) (c : Context) : (y.setContext n c).cur = y.cur := rfl
@[simp] theorem Sys.setContext_nextId (y : Sys) (n : Nat) (c : Context) : (y.setContext n c).nextId = y.nextId := rfl
@[simp] theorem Sys.setContext_free (y : Sys) (n : Nat) (c : Context) : (y.setContext n c).free = y.free := rfl

/-! ### `Sys.mark` -/

@[simp] theorem Sys.mark_time (y : Sys) (n : Nat) : (y.mark n).time = y.time := rfl
@[simp] theorem Sys.mark_warps (y : Sys) (n : Nat) : (y.mark n).warps = y.warps := rfl
@[simp] theorem Sys.mark_blocks (y : Sys) (n : Nat) : (y.mark n).blocks = y.blocks := rfl
@[simp] theorem Sys.mark_grids (y : Sys) (n : Nat) : (y.mark n).grids = y.grids := rfl
@[simp] theorem Sys.mark_bins (y : Sys) (n : Nat) : (y.mark n).bins = y.bins := rfl
@[simp] theorem Sys.mark_posts (y : Sys) (n : Nat) : (y.mark n).posts = y.posts := rfl
@[simp] theorem Sys.mark_ops (y : Sys) (n : Nat) : (y.mark n).ops = y.ops := rfl
@[simp] theorem Sys.mark_reqs (y : Sys) (n : Nat) : (y.mark n).reqs = y.reqs := rfl
@[simp] theorem Sys.mark_reading (y : Sys) (n : Nat) : (y.mark n).reading = y.reading := rfl
@[simp] theorem Sys.mark_unseen (y : Sys) (n : Nat) : (y.mark n).unseen = y.unseen := rfl
@[simp] theorem Sys.mark_imprecise (y : Sys) (n : Nat) : (y.mark n).imprecise = y.imprecise := rfl
@[simp] theorem Sys.mark_dies (y : Sys) (n : Nat) : (y.mark n).dies = y.dies := rfl
@[simp] theorem Sys.mark_tlb (y : Sys) (n : Nat) : (y.mark n).tlb = y.tlb := rfl
@[simp] theorem Sys.mark_misses (y : Sys) (n : Nat) : (y.mark n).misses = y.misses := rfl
@[simp] theorem Sys.mark_found (y : Sys) (n : Nat) : (y.mark n).found = y.found := rfl
@[simp] theorem Sys.mark_invals (y : Sys) (n : Nat) : (y.mark n).invals = y.invals := rfl
@[simp] theorem Sys.mark_heldFaults (y : Sys) (n : Nat) : (y.mark n).heldFaults = y.heldFaults := rfl
@[simp] theorem Sys.mark_icache (y : Sys) (n : Nat) : (y.mark n).icache = y.icache := rfl
@[simp] theorem Sys.mark_cached (y : Sys) (n : Nat) : (y.mark n).cached = y.cached := rfl
@[simp] theorem Sys.mark_wanted (y : Sys) (n : Nat) : (y.mark n).wanted = y.wanted := rfl
@[simp] theorem Sys.mark_returned (y : Sys) (n : Nat) : (y.mark n).returned = y.returned := rfl
@[simp] theorem Sys.mark_poison (y : Sys) (n : Nat) : (y.mark n).poison = y.poison := rfl
@[simp] theorem Sys.mark_hostHeld (y : Sys) (n : Nat) : (y.mark n).hostHeld = y.hostHeld := rfl
@[simp] theorem Sys.mark_holder (y : Sys) (n : Nat) : (y.mark n).holder = y.holder := rfl
@[simp] theorem Sys.mark_snooping (y : Sys) (n : Nat) : (y.mark n).snooping = y.snooping := rfl
@[simp] theorem Sys.mark_late (y : Sys) (n : Nat) : (y.mark n).late = y.late := rfl
@[simp] theorem Sys.mark_hostAnswer (y : Sys) (n : Nat) : (y.mark n).hostAnswer = y.hostAnswer := rfl
@[simp] theorem Sys.mark_barriers (y : Sys) (n : Nat) : (y.mark n).barriers = y.barriers := rfl
@[simp] theorem Sys.mark_mmqs (y : Sys) (n : Nat) : (y.mark n).mmqs = y.mmqs := rfl
@[simp] theorem Sys.mark_xreds (y : Sys) (n : Nat) : (y.mark n).xreds = y.xreds := rfl
@[simp] theorem Sys.mark_portA (y : Sys) (n : Nat) : (y.mark n).portA = y.portA := rfl
@[simp] theorem Sys.mark_portPhase (y : Sys) (n : Nat) : (y.mark n).portPhase = y.portPhase := rfl
@[simp] theorem Sys.mark_portSeen (y : Sys) (n : Nat) : (y.mark n).portSeen = y.portSeen := rfl
@[simp] theorem Sys.mark_portPicks (y : Sys) (n : Nat) : (y.mark n).portPicks = y.portPicks := rfl
@[simp] theorem Sys.mark_portFrom (y : Sys) (n : Nat) : (y.mark n).portFrom = y.portFrom := rfl
@[simp] theorem Sys.mark_refresh (y : Sys) (n : Nat) : (y.mark n).refresh = y.refresh := rfl
@[simp] theorem Sys.mark_hot (y : Sys) (n : Nat) : (y.mark n).hot = y.hot := rfl
@[simp] theorem Sys.mark_ctl (y : Sys) (n : Nat) : (y.mark n).ctl = y.ctl := rfl
@[simp] theorem Sys.mark_links (y : Sys) (n : Nat) : (y.mark n).links = y.links := rfl
@[simp] theorem Sys.mark_fwRegions (y : Sys) (n : Nat) : (y.mark n).fwRegions = y.fwRegions := rfl
@[simp] theorem Sys.mark_freezes (y : Sys) (n : Nat) : (y.mark n).freezes = y.freezes := rfl
@[simp] theorem Sys.mark_preempts (y : Sys) (n : Nat) : (y.mark n).preempts = y.preempts := rfl
@[simp] theorem Sys.mark_saved (y : Sys) (n : Nat) : (y.mark n).saved = y.saved := rfl
@[simp] theorem Sys.mark_savedContexts (y : Sys) (n : Nat) : (y.mark n).savedContexts = y.savedContexts := rfl
@[simp] theorem Sys.mark_switching (y : Sys) (n : Nat) : (y.mark n).switching = y.switching := rfl
@[simp] theorem Sys.mark_migrations (y : Sys) (n : Nat) : (y.mark n).migrations = y.migrations := rfl
@[simp] theorem Sys.mark_agenda (y : Sys) (n : Nat) : (y.mark n).agenda = y.agenda := rfl
@[simp] theorem Sys.mark_selected (y : Sys) (n : Nat) : (y.mark n).selected = y.selected := rfl
@[simp] theorem Sys.mark_cur (y : Sys) (n : Nat) : (y.mark n).cur = y.cur := rfl
@[simp] theorem Sys.mark_nextId (y : Sys) (n : Nat) : (y.mark n).nextId = y.nextId := rfl
@[simp] theorem Sys.mark_free (y : Sys) (n : Nat) : (y.mark n).free = y.free := rfl

/-! ### `Sys.setDie` -/

@[simp] theorem Sys.setDie_time (y : Sys) (n : Nat) (d : Die) : (y.setDie n d).time = y.time := rfl
@[simp] theorem Sys.setDie_warps (y : Sys) (n : Nat) (d : Die) : (y.setDie n d).warps = y.warps := rfl
@[simp] theorem Sys.setDie_blocks (y : Sys) (n : Nat) (d : Die) : (y.setDie n d).blocks = y.blocks := rfl
@[simp] theorem Sys.setDie_grids (y : Sys) (n : Nat) (d : Die) : (y.setDie n d).grids = y.grids := rfl
@[simp] theorem Sys.setDie_bins (y : Sys) (n : Nat) (d : Die) : (y.setDie n d).bins = y.bins := rfl
@[simp] theorem Sys.setDie_posts (y : Sys) (n : Nat) (d : Die) : (y.setDie n d).posts = y.posts := rfl
@[simp] theorem Sys.setDie_ops (y : Sys) (n : Nat) (d : Die) : (y.setDie n d).ops = y.ops := rfl
@[simp] theorem Sys.setDie_reqs (y : Sys) (n : Nat) (d : Die) : (y.setDie n d).reqs = y.reqs := rfl
@[simp] theorem Sys.setDie_reading (y : Sys) (n : Nat) (d : Die) : (y.setDie n d).reading = y.reading := rfl
@[simp] theorem Sys.setDie_unseen (y : Sys) (n : Nat) (d : Die) : (y.setDie n d).unseen = y.unseen := rfl
@[simp] theorem Sys.setDie_imprecise (y : Sys) (n : Nat) (d : Die) : (y.setDie n d).imprecise = y.imprecise := rfl
@[simp] theorem Sys.setDie_contexts (y : Sys) (n : Nat) (d : Die) : (y.setDie n d).contexts = y.contexts := rfl
@[simp] theorem Sys.setDie_tlb (y : Sys) (n : Nat) (d : Die) : (y.setDie n d).tlb = y.tlb := rfl
@[simp] theorem Sys.setDie_misses (y : Sys) (n : Nat) (d : Die) : (y.setDie n d).misses = y.misses := rfl
@[simp] theorem Sys.setDie_found (y : Sys) (n : Nat) (d : Die) : (y.setDie n d).found = y.found := rfl
@[simp] theorem Sys.setDie_invals (y : Sys) (n : Nat) (d : Die) : (y.setDie n d).invals = y.invals := rfl
@[simp] theorem Sys.setDie_heldFaults (y : Sys) (n : Nat) (d : Die) : (y.setDie n d).heldFaults = y.heldFaults := rfl
@[simp] theorem Sys.setDie_icache (y : Sys) (n : Nat) (d : Die) : (y.setDie n d).icache = y.icache := rfl
@[simp] theorem Sys.setDie_cached (y : Sys) (n : Nat) (d : Die) : (y.setDie n d).cached = y.cached := rfl
@[simp] theorem Sys.setDie_wanted (y : Sys) (n : Nat) (d : Die) : (y.setDie n d).wanted = y.wanted := rfl
@[simp] theorem Sys.setDie_returned (y : Sys) (n : Nat) (d : Die) : (y.setDie n d).returned = y.returned := rfl
@[simp] theorem Sys.setDie_poison (y : Sys) (n : Nat) (d : Die) : (y.setDie n d).poison = y.poison := rfl
@[simp] theorem Sys.setDie_hostHeld (y : Sys) (n : Nat) (d : Die) : (y.setDie n d).hostHeld = y.hostHeld := rfl
@[simp] theorem Sys.setDie_holder (y : Sys) (n : Nat) (d : Die) : (y.setDie n d).holder = y.holder := rfl
@[simp] theorem Sys.setDie_snooping (y : Sys) (n : Nat) (d : Die) : (y.setDie n d).snooping = y.snooping := rfl
@[simp] theorem Sys.setDie_late (y : Sys) (n : Nat) (d : Die) : (y.setDie n d).late = y.late := rfl
@[simp] theorem Sys.setDie_hostAnswer (y : Sys) (n : Nat) (d : Die) : (y.setDie n d).hostAnswer = y.hostAnswer := rfl
@[simp] theorem Sys.setDie_barriers (y : Sys) (n : Nat) (d : Die) : (y.setDie n d).barriers = y.barriers := rfl
@[simp] theorem Sys.setDie_mmqs (y : Sys) (n : Nat) (d : Die) : (y.setDie n d).mmqs = y.mmqs := rfl
@[simp] theorem Sys.setDie_xreds (y : Sys) (n : Nat) (d : Die) : (y.setDie n d).xreds = y.xreds := rfl
@[simp] theorem Sys.setDie_portA (y : Sys) (n : Nat) (d : Die) : (y.setDie n d).portA = y.portA := rfl
@[simp] theorem Sys.setDie_portPhase (y : Sys) (n : Nat) (d : Die) : (y.setDie n d).portPhase = y.portPhase := rfl
@[simp] theorem Sys.setDie_portSeen (y : Sys) (n : Nat) (d : Die) : (y.setDie n d).portSeen = y.portSeen := rfl
@[simp] theorem Sys.setDie_portPicks (y : Sys) (n : Nat) (d : Die) : (y.setDie n d).portPicks = y.portPicks := rfl
@[simp] theorem Sys.setDie_portFrom (y : Sys) (n : Nat) (d : Die) : (y.setDie n d).portFrom = y.portFrom := rfl
@[simp] theorem Sys.setDie_refresh (y : Sys) (n : Nat) (d : Die) : (y.setDie n d).refresh = y.refresh := rfl
@[simp] theorem Sys.setDie_hot (y : Sys) (n : Nat) (d : Die) : (y.setDie n d).hot = y.hot := rfl
@[simp] theorem Sys.setDie_ctl (y : Sys) (n : Nat) (d : Die) : (y.setDie n d).ctl = y.ctl := rfl
@[simp] theorem Sys.setDie_links (y : Sys) (n : Nat) (d : Die) : (y.setDie n d).links = y.links := rfl
@[simp] theorem Sys.setDie_fwRegions (y : Sys) (n : Nat) (d : Die) : (y.setDie n d).fwRegions = y.fwRegions := rfl
@[simp] theorem Sys.setDie_freezes (y : Sys) (n : Nat) (d : Die) : (y.setDie n d).freezes = y.freezes := rfl
@[simp] theorem Sys.setDie_preempts (y : Sys) (n : Nat) (d : Die) : (y.setDie n d).preempts = y.preempts := rfl
@[simp] theorem Sys.setDie_saved (y : Sys) (n : Nat) (d : Die) : (y.setDie n d).saved = y.saved := rfl
@[simp] theorem Sys.setDie_savedContexts (y : Sys) (n : Nat) (d : Die) : (y.setDie n d).savedContexts = y.savedContexts := rfl
@[simp] theorem Sys.setDie_switching (y : Sys) (n : Nat) (d : Die) : (y.setDie n d).switching = y.switching := rfl
@[simp] theorem Sys.setDie_migrations (y : Sys) (n : Nat) (d : Die) : (y.setDie n d).migrations = y.migrations := rfl
@[simp] theorem Sys.setDie_agenda (y : Sys) (n : Nat) (d : Die) : (y.setDie n d).agenda = y.agenda := rfl
@[simp] theorem Sys.setDie_selected (y : Sys) (n : Nat) (d : Die) : (y.setDie n d).selected = y.selected := rfl
@[simp] theorem Sys.setDie_cur (y : Sys) (n : Nat) (d : Die) : (y.setDie n d).cur = y.cur := rfl
@[simp] theorem Sys.setDie_nextId (y : Sys) (n : Nat) (d : Die) : (y.setDie n d).nextId = y.nextId := rfl
@[simp] theorem Sys.setDie_free (y : Sys) (n : Nat) (d : Die) : (y.setDie n d).free = y.free := rfl

/-! ### `Sys.useFree` -/

@[simp] theorem Sys.useFree_time (y : Sys) (n : Nat) : (y.useFree n).time = y.time := rfl
@[simp] theorem Sys.useFree_warps (y : Sys) (n : Nat) : (y.useFree n).warps = y.warps := rfl
@[simp] theorem Sys.useFree_blocks (y : Sys) (n : Nat) : (y.useFree n).blocks = y.blocks := rfl
@[simp] theorem Sys.useFree_grids (y : Sys) (n : Nat) : (y.useFree n).grids = y.grids := rfl
@[simp] theorem Sys.useFree_bins (y : Sys) (n : Nat) : (y.useFree n).bins = y.bins := rfl
@[simp] theorem Sys.useFree_posts (y : Sys) (n : Nat) : (y.useFree n).posts = y.posts := rfl
@[simp] theorem Sys.useFree_ops (y : Sys) (n : Nat) : (y.useFree n).ops = y.ops := rfl
@[simp] theorem Sys.useFree_reqs (y : Sys) (n : Nat) : (y.useFree n).reqs = y.reqs := rfl
@[simp] theorem Sys.useFree_reading (y : Sys) (n : Nat) : (y.useFree n).reading = y.reading := rfl
@[simp] theorem Sys.useFree_unseen (y : Sys) (n : Nat) : (y.useFree n).unseen = y.unseen := rfl
@[simp] theorem Sys.useFree_imprecise (y : Sys) (n : Nat) : (y.useFree n).imprecise = y.imprecise := rfl
@[simp] theorem Sys.useFree_contexts (y : Sys) (n : Nat) : (y.useFree n).contexts = y.contexts := rfl
@[simp] theorem Sys.useFree_dies (y : Sys) (n : Nat) : (y.useFree n).dies = y.dies := rfl
@[simp] theorem Sys.useFree_tlb (y : Sys) (n : Nat) : (y.useFree n).tlb = y.tlb := rfl
@[simp] theorem Sys.useFree_misses (y : Sys) (n : Nat) : (y.useFree n).misses = y.misses := rfl
@[simp] theorem Sys.useFree_found (y : Sys) (n : Nat) : (y.useFree n).found = y.found := rfl
@[simp] theorem Sys.useFree_invals (y : Sys) (n : Nat) : (y.useFree n).invals = y.invals := rfl
@[simp] theorem Sys.useFree_heldFaults (y : Sys) (n : Nat) : (y.useFree n).heldFaults = y.heldFaults := rfl
@[simp] theorem Sys.useFree_icache (y : Sys) (n : Nat) : (y.useFree n).icache = y.icache := rfl
@[simp] theorem Sys.useFree_cached (y : Sys) (n : Nat) : (y.useFree n).cached = y.cached := rfl
@[simp] theorem Sys.useFree_wanted (y : Sys) (n : Nat) : (y.useFree n).wanted = y.wanted := rfl
@[simp] theorem Sys.useFree_returned (y : Sys) (n : Nat) : (y.useFree n).returned = y.returned := rfl
@[simp] theorem Sys.useFree_poison (y : Sys) (n : Nat) : (y.useFree n).poison = y.poison := rfl
@[simp] theorem Sys.useFree_hostHeld (y : Sys) (n : Nat) : (y.useFree n).hostHeld = y.hostHeld := rfl
@[simp] theorem Sys.useFree_holder (y : Sys) (n : Nat) : (y.useFree n).holder = y.holder := rfl
@[simp] theorem Sys.useFree_snooping (y : Sys) (n : Nat) : (y.useFree n).snooping = y.snooping := rfl
@[simp] theorem Sys.useFree_late (y : Sys) (n : Nat) : (y.useFree n).late = y.late := rfl
@[simp] theorem Sys.useFree_hostAnswer (y : Sys) (n : Nat) : (y.useFree n).hostAnswer = y.hostAnswer := rfl
@[simp] theorem Sys.useFree_barriers (y : Sys) (n : Nat) : (y.useFree n).barriers = y.barriers := rfl
@[simp] theorem Sys.useFree_mmqs (y : Sys) (n : Nat) : (y.useFree n).mmqs = y.mmqs := rfl
@[simp] theorem Sys.useFree_xreds (y : Sys) (n : Nat) : (y.useFree n).xreds = y.xreds := rfl
@[simp] theorem Sys.useFree_portA (y : Sys) (n : Nat) : (y.useFree n).portA = y.portA := rfl
@[simp] theorem Sys.useFree_portPhase (y : Sys) (n : Nat) : (y.useFree n).portPhase = y.portPhase := rfl
@[simp] theorem Sys.useFree_portSeen (y : Sys) (n : Nat) : (y.useFree n).portSeen = y.portSeen := rfl
@[simp] theorem Sys.useFree_portPicks (y : Sys) (n : Nat) : (y.useFree n).portPicks = y.portPicks := rfl
@[simp] theorem Sys.useFree_portFrom (y : Sys) (n : Nat) : (y.useFree n).portFrom = y.portFrom := rfl
@[simp] theorem Sys.useFree_refresh (y : Sys) (n : Nat) : (y.useFree n).refresh = y.refresh := rfl
@[simp] theorem Sys.useFree_hot (y : Sys) (n : Nat) : (y.useFree n).hot = y.hot := rfl
@[simp] theorem Sys.useFree_ctl (y : Sys) (n : Nat) : (y.useFree n).ctl = y.ctl := rfl
@[simp] theorem Sys.useFree_links (y : Sys) (n : Nat) : (y.useFree n).links = y.links := rfl
@[simp] theorem Sys.useFree_fwRegions (y : Sys) (n : Nat) : (y.useFree n).fwRegions = y.fwRegions := rfl
@[simp] theorem Sys.useFree_freezes (y : Sys) (n : Nat) : (y.useFree n).freezes = y.freezes := rfl
@[simp] theorem Sys.useFree_preempts (y : Sys) (n : Nat) : (y.useFree n).preempts = y.preempts := rfl
@[simp] theorem Sys.useFree_saved (y : Sys) (n : Nat) : (y.useFree n).saved = y.saved := rfl
@[simp] theorem Sys.useFree_savedContexts (y : Sys) (n : Nat) : (y.useFree n).savedContexts = y.savedContexts := rfl
@[simp] theorem Sys.useFree_switching (y : Sys) (n : Nat) : (y.useFree n).switching = y.switching := rfl
@[simp] theorem Sys.useFree_migrations (y : Sys) (n : Nat) : (y.useFree n).migrations = y.migrations := rfl
@[simp] theorem Sys.useFree_agenda (y : Sys) (n : Nat) : (y.useFree n).agenda = y.agenda := rfl
@[simp] theorem Sys.useFree_selected (y : Sys) (n : Nat) : (y.useFree n).selected = y.selected := rfl
@[simp] theorem Sys.useFree_cur (y : Sys) (n : Nat) : (y.useFree n).cur = y.cur := rfl
@[simp] theorem Sys.useFree_nextId (y : Sys) (n : Nat) : (y.useFree n).nextId = y.nextId := rfl

/-! ### `Sys.setControl` -/

@[simp] theorem Sys.setControl_time (y : Sys) (f : Control → Control) : (y.setControl f).time = y.time := rfl
@[simp] theorem Sys.setControl_warps (y : Sys) (f : Control → Control) : (y.setControl f).warps = y.warps := rfl
@[simp] theorem Sys.setControl_blocks (y : Sys) (f : Control → Control) : (y.setControl f).blocks = y.blocks := rfl
@[simp] theorem Sys.setControl_grids (y : Sys) (f : Control → Control) : (y.setControl f).grids = y.grids := rfl
@[simp] theorem Sys.setControl_bins (y : Sys) (f : Control → Control) : (y.setControl f).bins = y.bins := rfl
@[simp] theorem Sys.setControl_posts (y : Sys) (f : Control → Control) : (y.setControl f).posts = y.posts := rfl
@[simp] theorem Sys.setControl_ops (y : Sys) (f : Control → Control) : (y.setControl f).ops = y.ops := rfl
@[simp] theorem Sys.setControl_reqs (y : Sys) (f : Control → Control) : (y.setControl f).reqs = y.reqs := rfl
@[simp] theorem Sys.setControl_reading (y : Sys) (f : Control → Control) : (y.setControl f).reading = y.reading := rfl
@[simp] theorem Sys.setControl_unseen (y : Sys) (f : Control → Control) : (y.setControl f).unseen = y.unseen := rfl
@[simp] theorem Sys.setControl_imprecise (y : Sys) (f : Control → Control) : (y.setControl f).imprecise = y.imprecise := rfl
@[simp] theorem Sys.setControl_contexts (y : Sys) (f : Control → Control) : (y.setControl f).contexts = y.contexts := rfl
@[simp] theorem Sys.setControl_dies (y : Sys) (f : Control → Control) : (y.setControl f).dies = y.dies := rfl
@[simp] theorem Sys.setControl_tlb (y : Sys) (f : Control → Control) : (y.setControl f).tlb = y.tlb := rfl
@[simp] theorem Sys.setControl_misses (y : Sys) (f : Control → Control) : (y.setControl f).misses = y.misses := rfl
@[simp] theorem Sys.setControl_found (y : Sys) (f : Control → Control) : (y.setControl f).found = y.found := rfl
@[simp] theorem Sys.setControl_invals (y : Sys) (f : Control → Control) : (y.setControl f).invals = y.invals := rfl
@[simp] theorem Sys.setControl_heldFaults (y : Sys) (f : Control → Control) : (y.setControl f).heldFaults = y.heldFaults := rfl
@[simp] theorem Sys.setControl_icache (y : Sys) (f : Control → Control) : (y.setControl f).icache = y.icache := rfl
@[simp] theorem Sys.setControl_cached (y : Sys) (f : Control → Control) : (y.setControl f).cached = y.cached := rfl
@[simp] theorem Sys.setControl_wanted (y : Sys) (f : Control → Control) : (y.setControl f).wanted = y.wanted := rfl
@[simp] theorem Sys.setControl_returned (y : Sys) (f : Control → Control) : (y.setControl f).returned = y.returned := rfl
@[simp] theorem Sys.setControl_poison (y : Sys) (f : Control → Control) : (y.setControl f).poison = y.poison := rfl
@[simp] theorem Sys.setControl_hostHeld (y : Sys) (f : Control → Control) : (y.setControl f).hostHeld = y.hostHeld := rfl
@[simp] theorem Sys.setControl_holder (y : Sys) (f : Control → Control) : (y.setControl f).holder = y.holder := rfl
@[simp] theorem Sys.setControl_snooping (y : Sys) (f : Control → Control) : (y.setControl f).snooping = y.snooping := rfl
@[simp] theorem Sys.setControl_late (y : Sys) (f : Control → Control) : (y.setControl f).late = y.late := rfl
@[simp] theorem Sys.setControl_hostAnswer (y : Sys) (f : Control → Control) : (y.setControl f).hostAnswer = y.hostAnswer := rfl
@[simp] theorem Sys.setControl_barriers (y : Sys) (f : Control → Control) : (y.setControl f).barriers = y.barriers := rfl
@[simp] theorem Sys.setControl_mmqs (y : Sys) (f : Control → Control) : (y.setControl f).mmqs = y.mmqs := rfl
@[simp] theorem Sys.setControl_xreds (y : Sys) (f : Control → Control) : (y.setControl f).xreds = y.xreds := rfl
@[simp] theorem Sys.setControl_portA (y : Sys) (f : Control → Control) : (y.setControl f).portA = y.portA := rfl
@[simp] theorem Sys.setControl_portPhase (y : Sys) (f : Control → Control) : (y.setControl f).portPhase = y.portPhase := rfl
@[simp] theorem Sys.setControl_portSeen (y : Sys) (f : Control → Control) : (y.setControl f).portSeen = y.portSeen := rfl
@[simp] theorem Sys.setControl_portPicks (y : Sys) (f : Control → Control) : (y.setControl f).portPicks = y.portPicks := rfl
@[simp] theorem Sys.setControl_portFrom (y : Sys) (f : Control → Control) : (y.setControl f).portFrom = y.portFrom := rfl
@[simp] theorem Sys.setControl_refresh (y : Sys) (f : Control → Control) : (y.setControl f).refresh = y.refresh := rfl
@[simp] theorem Sys.setControl_hot (y : Sys) (f : Control → Control) : (y.setControl f).hot = y.hot := rfl
@[simp] theorem Sys.setControl_links (y : Sys) (f : Control → Control) : (y.setControl f).links = y.links := rfl
@[simp] theorem Sys.setControl_fwRegions (y : Sys) (f : Control → Control) : (y.setControl f).fwRegions = y.fwRegions := rfl
@[simp] theorem Sys.setControl_freezes (y : Sys) (f : Control → Control) : (y.setControl f).freezes = y.freezes := rfl
@[simp] theorem Sys.setControl_preempts (y : Sys) (f : Control → Control) : (y.setControl f).preempts = y.preempts := rfl
@[simp] theorem Sys.setControl_saved (y : Sys) (f : Control → Control) : (y.setControl f).saved = y.saved := rfl
@[simp] theorem Sys.setControl_savedContexts (y : Sys) (f : Control → Control) : (y.setControl f).savedContexts = y.savedContexts := rfl
@[simp] theorem Sys.setControl_switching (y : Sys) (f : Control → Control) : (y.setControl f).switching = y.switching := rfl
@[simp] theorem Sys.setControl_migrations (y : Sys) (f : Control → Control) : (y.setControl f).migrations = y.migrations := rfl
@[simp] theorem Sys.setControl_agenda (y : Sys) (f : Control → Control) : (y.setControl f).agenda = y.agenda := rfl
@[simp] theorem Sys.setControl_selected (y : Sys) (f : Control → Control) : (y.setControl f).selected = y.selected := rfl
@[simp] theorem Sys.setControl_cur (y : Sys) (f : Control → Control) : (y.setControl f).cur = y.cur := rfl
@[simp] theorem Sys.setControl_nextId (y : Sys) (f : Control → Control) : (y.setControl f).nextId = y.nextId := rfl
@[simp] theorem Sys.setControl_free (y : Sys) (f : Control → Control) : (y.setControl f).free = y.free := rfl

/-! ### `Sys.dropWarp` -/

@[simp] theorem Sys.dropWarp_time (y : Sys) (n : Nat) : (y.dropWarp n).time = y.time := rfl
@[simp] theorem Sys.dropWarp_blocks (y : Sys) (n : Nat) : (y.dropWarp n).blocks = y.blocks := rfl
@[simp] theorem Sys.dropWarp_grids (y : Sys) (n : Nat) : (y.dropWarp n).grids = y.grids := rfl
@[simp] theorem Sys.dropWarp_posts (y : Sys) (n : Nat) : (y.dropWarp n).posts = y.posts := rfl
@[simp] theorem Sys.dropWarp_ops (y : Sys) (n : Nat) : (y.dropWarp n).ops = y.ops := rfl
@[simp] theorem Sys.dropWarp_reading (y : Sys) (n : Nat) : (y.dropWarp n).reading = y.reading := rfl
@[simp] theorem Sys.dropWarp_unseen (y : Sys) (n : Nat) : (y.dropWarp n).unseen = y.unseen := rfl
@[simp] theorem Sys.dropWarp_imprecise (y : Sys) (n : Nat) : (y.dropWarp n).imprecise = y.imprecise := rfl
@[simp] theorem Sys.dropWarp_contexts (y : Sys) (n : Nat) : (y.dropWarp n).contexts = y.contexts := rfl
@[simp] theorem Sys.dropWarp_dies (y : Sys) (n : Nat) : (y.dropWarp n).dies = y.dies := rfl
@[simp] theorem Sys.dropWarp_tlb (y : Sys) (n : Nat) : (y.dropWarp n).tlb = y.tlb := rfl
@[simp] theorem Sys.dropWarp_misses (y : Sys) (n : Nat) : (y.dropWarp n).misses = y.misses := rfl
@[simp] theorem Sys.dropWarp_invals (y : Sys) (n : Nat) : (y.dropWarp n).invals = y.invals := rfl
@[simp] theorem Sys.dropWarp_heldFaults (y : Sys) (n : Nat) : (y.dropWarp n).heldFaults = y.heldFaults := rfl
@[simp] theorem Sys.dropWarp_icache (y : Sys) (n : Nat) : (y.dropWarp n).icache = y.icache := rfl
@[simp] theorem Sys.dropWarp_cached (y : Sys) (n : Nat) : (y.dropWarp n).cached = y.cached := rfl
@[simp] theorem Sys.dropWarp_wanted (y : Sys) (n : Nat) : (y.dropWarp n).wanted = y.wanted := rfl
@[simp] theorem Sys.dropWarp_returned (y : Sys) (n : Nat) : (y.dropWarp n).returned = y.returned := rfl
@[simp] theorem Sys.dropWarp_poison (y : Sys) (n : Nat) : (y.dropWarp n).poison = y.poison := rfl
@[simp] theorem Sys.dropWarp_hostHeld (y : Sys) (n : Nat) : (y.dropWarp n).hostHeld = y.hostHeld := rfl
@[simp] theorem Sys.dropWarp_holder (y : Sys) (n : Nat) : (y.dropWarp n).holder = y.holder := rfl
@[simp] theorem Sys.dropWarp_snooping (y : Sys) (n : Nat) : (y.dropWarp n).snooping = y.snooping := rfl
@[simp] theorem Sys.dropWarp_late (y : Sys) (n : Nat) : (y.dropWarp n).late = y.late := rfl
@[simp] theorem Sys.dropWarp_hostAnswer (y : Sys) (n : Nat) : (y.dropWarp n).hostAnswer = y.hostAnswer := rfl
@[simp] theorem Sys.dropWarp_barriers (y : Sys) (n : Nat) : (y.dropWarp n).barriers = y.barriers := rfl
@[simp] theorem Sys.dropWarp_mmqs (y : Sys) (n : Nat) : (y.dropWarp n).mmqs = y.mmqs := rfl
@[simp] theorem Sys.dropWarp_xreds (y : Sys) (n : Nat) : (y.dropWarp n).xreds = y.xreds := rfl
@[simp] theorem Sys.dropWarp_portA (y : Sys) (n : Nat) : (y.dropWarp n).portA = y.portA := rfl
@[simp] theorem Sys.dropWarp_portPhase (y : Sys) (n : Nat) : (y.dropWarp n).portPhase = y.portPhase := rfl
@[simp] theorem Sys.dropWarp_portSeen (y : Sys) (n : Nat) : (y.dropWarp n).portSeen = y.portSeen := rfl
@[simp] theorem Sys.dropWarp_portPicks (y : Sys) (n : Nat) : (y.dropWarp n).portPicks = y.portPicks := rfl
@[simp] theorem Sys.dropWarp_portFrom (y : Sys) (n : Nat) : (y.dropWarp n).portFrom = y.portFrom := rfl
@[simp] theorem Sys.dropWarp_refresh (y : Sys) (n : Nat) : (y.dropWarp n).refresh = y.refresh := rfl
@[simp] theorem Sys.dropWarp_hot (y : Sys) (n : Nat) : (y.dropWarp n).hot = y.hot := rfl
@[simp] theorem Sys.dropWarp_ctl (y : Sys) (n : Nat) : (y.dropWarp n).ctl = y.ctl := rfl
@[simp] theorem Sys.dropWarp_links (y : Sys) (n : Nat) : (y.dropWarp n).links = y.links := rfl
@[simp] theorem Sys.dropWarp_fwRegions (y : Sys) (n : Nat) : (y.dropWarp n).fwRegions = y.fwRegions := rfl
@[simp] theorem Sys.dropWarp_freezes (y : Sys) (n : Nat) : (y.dropWarp n).freezes = y.freezes := rfl
@[simp] theorem Sys.dropWarp_preempts (y : Sys) (n : Nat) : (y.dropWarp n).preempts = y.preempts := rfl
@[simp] theorem Sys.dropWarp_saved (y : Sys) (n : Nat) : (y.dropWarp n).saved = y.saved := rfl
@[simp] theorem Sys.dropWarp_savedContexts (y : Sys) (n : Nat) : (y.dropWarp n).savedContexts = y.savedContexts := rfl
@[simp] theorem Sys.dropWarp_switching (y : Sys) (n : Nat) : (y.dropWarp n).switching = y.switching := rfl
@[simp] theorem Sys.dropWarp_migrations (y : Sys) (n : Nat) : (y.dropWarp n).migrations = y.migrations := rfl
@[simp] theorem Sys.dropWarp_agenda (y : Sys) (n : Nat) : (y.dropWarp n).agenda = y.agenda := rfl
@[simp] theorem Sys.dropWarp_cur (y : Sys) (n : Nat) : (y.dropWarp n).cur = y.cur := rfl
@[simp] theorem Sys.dropWarp_nextId (y : Sys) (n : Nat) : (y.dropWarp n).nextId = y.nextId := rfl
@[simp] theorem Sys.dropWarp_free (y : Sys) (n : Nat) : (y.dropWarp n).free = y.free := rfl

/-! ### `Warp.setS` -/

@[simp] theorem Warp.setS_id (w : Warp) (r : SReg) (v : Word) : (w.setS r v).id = w.id := rfl
@[simp] theorem Warp.setS_block (w : Warp) (r : SReg) (v : Word) : (w.setS r v).block = w.block := rfl
@[simp] theorem Warp.setS_index (w : Warp) (r : SReg) (v : Word) : (w.setS r v).index = w.index := rfl
@[simp] theorem Warp.setS_part (w : Warp) (r : SReg) (v : Word) : (w.setS r v).part = w.part := rfl
@[simp] theorem Warp.setS_slot (w : Warp) (r : SReg) (v : Word) : (w.setS r v).slot = w.slot := rfl
@[simp] theorem Warp.setS_budget (w : Warp) (r : SReg) (v : Word) : (w.setS r v).budget = w.budget := rfl
@[simp] theorem Warp.setS_spillBase (w : Warp) (r : SReg) (v : Word) : (w.setS r v).spillBase = w.spillBase := rfl
@[simp] theorem Warp.setS_spillSize (w : Warp) (r : SReg) (v : Word) : (w.setS r v).spillSize = w.spillSize := rfl
@[simp] theorem Warp.setS_vregs (w : Warp) (r : SReg) (v : Word) : (w.setS r v).vregs = w.vregs := rfl
@[simp] theorem Warp.setS_shapes (w : Warp) (r : SReg) (v : Word) : (w.setS r v).shapes = w.shapes := rfl
@[simp] theorem Warp.setS_tops (w : Warp) (r : SReg) (v : Word) : (w.setS r v).tops = w.tops := rfl
@[simp] theorem Warp.setS_flags (w : Warp) (r : SReg) (v : Word) : (w.setS r v).flags = w.flags := rfl
@[simp] theorem Warp.setS_queues (w : Warp) (r : SReg) (v : Word) : (w.setS r v).queues = w.queues := rfl
@[simp] theorem Warp.setS_access (w : Warp) (r : SReg) (v : Word) : (w.setS r v).access = w.access := rfl
@[simp] theorem Warp.setS_subs (w : Warp) (r : SReg) (v : Word) : (w.setS r v).subs = w.subs := rfl
@[simp] theorem Warp.setS_splits (w : Warp) (r : SReg) (v : Word) : (w.setS r v).splits = w.splits := rfl
@[simp] theorem Warp.setS_exited (w : Warp) (r : SReg) (v : Word) : (w.setS r v).exited = w.exited := rfl
@[simp] theorem Warp.setS_fmt (w : Warp) (r : SReg) (v : Word) : (w.setS r v).fmt = w.fmt := rfl
@[simp] theorem Warp.setS_nbv (w : Warp) (r : SReg) (v : Word) : (w.setS r v).nbv = w.nbv := rfl
@[simp] theorem Warp.setS_fpctl (w : Warp) (r : SReg) (v : Word) : (w.setS r v).fpctl = w.fpctl := rfl
@[simp] theorem Warp.setS_nttth (w : Warp) (r : SReg) (v : Word) : (w.setS r v).nttth = w.nttth := rfl
@[simp] theorem Warp.setS_phase (w : Warp) (r : SReg) (v : Word) : (w.setS r v).phase = w.phase := rfl
@[simp] theorem Warp.setS_cause (w : Warp) (r : SReg) (v : Word) : (w.setS r v).cause = w.cause := rfl
@[simp] theorem Warp.setS_epc (w : Warp) (r : SReg) (v : Word) : (w.setS r v).epc = w.epc := rfl
@[simp] theorem Warp.setS_tval (w : Warp) (r : SReg) (v : Word) : (w.setS r v).tval = w.tval := rfl
@[simp] theorem Warp.setS_tlanes (w : Warp) (r : SReg) (v : Word) : (w.setS r v).tlanes = w.tlanes := rfl
@[simp] theorem Warp.setS_tinfo (w : Warp) (r : SReg) (v : Word) : (w.setS r v).tinfo = w.tinfo := rfl
@[simp] theorem Warp.setS_hstat (w : Warp) (r : SReg) (v : Word) : (w.setS r v).hstat = w.hstat := rfl
@[simp] theorem Warp.setS_handler (w : Warp) (r : SReg) (v : Word) : (w.setS r v).handler = w.handler := rfl
@[simp] theorem Warp.setS_halt (w : Warp) (r : SReg) (v : Word) : (w.setS r v).halt = w.halt := rfl
@[simp] theorem Warp.setS_batches (w : Warp) (r : SReg) (v : Word) : (w.setS r v).batches = w.batches := rfl
@[simp] theorem Warp.setS_batchNo (w : Warp) (r : SReg) (v : Word) : (w.setS r v).batchNo = w.batchNo := rfl
@[simp] theorem Warp.setS_accord (w : Warp) (r : SReg) (v : Word) : (w.setS r v).accord = w.accord := rfl
@[simp] theorem Warp.setS_accordTag (w : Warp) (r : SReg) (v : Word) : (w.setS r v).accordTag = w.accordTag := rfl
@[simp] theorem Warp.setS_bars (w : Warp) (r : SReg) (v : Word) : (w.setS r v).bars = w.bars := rfl
@[simp] theorem Warp.setS_mmqs (w : Warp) (r : SReg) (v : Word) : (w.setS r v).mmqs = w.mmqs := rfl
@[simp] theorem Warp.setS_bad (w : Warp) (r : SReg) (v : Word) : (w.setS r v).bad = w.bad := rfl
@[simp] theorem Warp.setS_hint (w : Warp) (r : SReg) (v : Word) : (w.setS r v).hint = w.hint := rfl

/-! ### `Warp.setSn` -/

@[simp] theorem Warp.setSn_id (w : Warp) (r : Nat) (v : Word) : (w.setSn r v).id = w.id := rfl
@[simp] theorem Warp.setSn_block (w : Warp) (r : Nat) (v : Word) : (w.setSn r v).block = w.block := rfl
@[simp] theorem Warp.setSn_index (w : Warp) (r : Nat) (v : Word) : (w.setSn r v).index = w.index := rfl
@[simp] theorem Warp.setSn_part (w : Warp) (r : Nat) (v : Word) : (w.setSn r v).part = w.part := rfl
@[simp] theorem Warp.setSn_slot (w : Warp) (r : Nat) (v : Word) : (w.setSn r v).slot = w.slot := rfl
@[simp] theorem Warp.setSn_budget (w : Warp) (r : Nat) (v : Word) : (w.setSn r v).budget = w.budget := rfl
@[simp] theorem Warp.setSn_spillBase (w : Warp) (r : Nat) (v : Word) : (w.setSn r v).spillBase = w.spillBase := rfl
@[simp] theorem Warp.setSn_spillSize (w : Warp) (r : Nat) (v : Word) : (w.setSn r v).spillSize = w.spillSize := rfl
@[simp] theorem Warp.setSn_vregs (w : Warp) (r : Nat) (v : Word) : (w.setSn r v).vregs = w.vregs := rfl
@[simp] theorem Warp.setSn_shapes (w : Warp) (r : Nat) (v : Word) : (w.setSn r v).shapes = w.shapes := rfl
@[simp] theorem Warp.setSn_tops (w : Warp) (r : Nat) (v : Word) : (w.setSn r v).tops = w.tops := rfl
@[simp] theorem Warp.setSn_flags (w : Warp) (r : Nat) (v : Word) : (w.setSn r v).flags = w.flags := rfl
@[simp] theorem Warp.setSn_queues (w : Warp) (r : Nat) (v : Word) : (w.setSn r v).queues = w.queues := rfl
@[simp] theorem Warp.setSn_access (w : Warp) (r : Nat) (v : Word) : (w.setSn r v).access = w.access := rfl
@[simp] theorem Warp.setSn_subs (w : Warp) (r : Nat) (v : Word) : (w.setSn r v).subs = w.subs := rfl
@[simp] theorem Warp.setSn_splits (w : Warp) (r : Nat) (v : Word) : (w.setSn r v).splits = w.splits := rfl
@[simp] theorem Warp.setSn_exited (w : Warp) (r : Nat) (v : Word) : (w.setSn r v).exited = w.exited := rfl
@[simp] theorem Warp.setSn_fmt (w : Warp) (r : Nat) (v : Word) : (w.setSn r v).fmt = w.fmt := rfl
@[simp] theorem Warp.setSn_nbv (w : Warp) (r : Nat) (v : Word) : (w.setSn r v).nbv = w.nbv := rfl
@[simp] theorem Warp.setSn_fpctl (w : Warp) (r : Nat) (v : Word) : (w.setSn r v).fpctl = w.fpctl := rfl
@[simp] theorem Warp.setSn_nttth (w : Warp) (r : Nat) (v : Word) : (w.setSn r v).nttth = w.nttth := rfl
@[simp] theorem Warp.setSn_phase (w : Warp) (r : Nat) (v : Word) : (w.setSn r v).phase = w.phase := rfl
@[simp] theorem Warp.setSn_cause (w : Warp) (r : Nat) (v : Word) : (w.setSn r v).cause = w.cause := rfl
@[simp] theorem Warp.setSn_epc (w : Warp) (r : Nat) (v : Word) : (w.setSn r v).epc = w.epc := rfl
@[simp] theorem Warp.setSn_tval (w : Warp) (r : Nat) (v : Word) : (w.setSn r v).tval = w.tval := rfl
@[simp] theorem Warp.setSn_tlanes (w : Warp) (r : Nat) (v : Word) : (w.setSn r v).tlanes = w.tlanes := rfl
@[simp] theorem Warp.setSn_tinfo (w : Warp) (r : Nat) (v : Word) : (w.setSn r v).tinfo = w.tinfo := rfl
@[simp] theorem Warp.setSn_hstat (w : Warp) (r : Nat) (v : Word) : (w.setSn r v).hstat = w.hstat := rfl
@[simp] theorem Warp.setSn_handler (w : Warp) (r : Nat) (v : Word) : (w.setSn r v).handler = w.handler := rfl
@[simp] theorem Warp.setSn_halt (w : Warp) (r : Nat) (v : Word) : (w.setSn r v).halt = w.halt := rfl
@[simp] theorem Warp.setSn_batches (w : Warp) (r : Nat) (v : Word) : (w.setSn r v).batches = w.batches := rfl
@[simp] theorem Warp.setSn_batchNo (w : Warp) (r : Nat) (v : Word) : (w.setSn r v).batchNo = w.batchNo := rfl
@[simp] theorem Warp.setSn_accord (w : Warp) (r : Nat) (v : Word) : (w.setSn r v).accord = w.accord := rfl
@[simp] theorem Warp.setSn_accordTag (w : Warp) (r : Nat) (v : Word) : (w.setSn r v).accordTag = w.accordTag := rfl
@[simp] theorem Warp.setSn_bars (w : Warp) (r : Nat) (v : Word) : (w.setSn r v).bars = w.bars := rfl
@[simp] theorem Warp.setSn_mmqs (w : Warp) (r : Nat) (v : Word) : (w.setSn r v).mmqs = w.mmqs := rfl
@[simp] theorem Warp.setSn_bad (w : Warp) (r : Nat) (v : Word) : (w.setSn r v).bad = w.bad := rfl
@[simp] theorem Warp.setSn_hint (w : Warp) (r : Nat) (v : Word) : (w.setSn r v).hint = w.hint := rfl

/-! ### `Warp.setFlag` -/

@[simp] theorem Warp.setFlag_id (w : Warp) (k : Nat) (f : Flag) : (w.setFlag k f).id = w.id := rfl
@[simp] theorem Warp.setFlag_block (w : Warp) (k : Nat) (f : Flag) : (w.setFlag k f).block = w.block := rfl
@[simp] theorem Warp.setFlag_index (w : Warp) (k : Nat) (f : Flag) : (w.setFlag k f).index = w.index := rfl
@[simp] theorem Warp.setFlag_part (w : Warp) (k : Nat) (f : Flag) : (w.setFlag k f).part = w.part := rfl
@[simp] theorem Warp.setFlag_slot (w : Warp) (k : Nat) (f : Flag) : (w.setFlag k f).slot = w.slot := rfl
@[simp] theorem Warp.setFlag_budget (w : Warp) (k : Nat) (f : Flag) : (w.setFlag k f).budget = w.budget := rfl
@[simp] theorem Warp.setFlag_spillBase (w : Warp) (k : Nat) (f : Flag) : (w.setFlag k f).spillBase = w.spillBase := rfl
@[simp] theorem Warp.setFlag_spillSize (w : Warp) (k : Nat) (f : Flag) : (w.setFlag k f).spillSize = w.spillSize := rfl
@[simp] theorem Warp.setFlag_vregs (w : Warp) (k : Nat) (f : Flag) : (w.setFlag k f).vregs = w.vregs := rfl
@[simp] theorem Warp.setFlag_shapes (w : Warp) (k : Nat) (f : Flag) : (w.setFlag k f).shapes = w.shapes := rfl
@[simp] theorem Warp.setFlag_tops (w : Warp) (k : Nat) (f : Flag) : (w.setFlag k f).tops = w.tops := rfl
@[simp] theorem Warp.setFlag_sregs (w : Warp) (k : Nat) (f : Flag) : (w.setFlag k f).sregs = w.sregs := rfl
@[simp] theorem Warp.setFlag_queues (w : Warp) (k : Nat) (f : Flag) : (w.setFlag k f).queues = w.queues := rfl
@[simp] theorem Warp.setFlag_access (w : Warp) (k : Nat) (f : Flag) : (w.setFlag k f).access = w.access := rfl
@[simp] theorem Warp.setFlag_subs (w : Warp) (k : Nat) (f : Flag) : (w.setFlag k f).subs = w.subs := rfl
@[simp] theorem Warp.setFlag_splits (w : Warp) (k : Nat) (f : Flag) : (w.setFlag k f).splits = w.splits := rfl
@[simp] theorem Warp.setFlag_exited (w : Warp) (k : Nat) (f : Flag) : (w.setFlag k f).exited = w.exited := rfl
@[simp] theorem Warp.setFlag_fmt (w : Warp) (k : Nat) (f : Flag) : (w.setFlag k f).fmt = w.fmt := rfl
@[simp] theorem Warp.setFlag_nbv (w : Warp) (k : Nat) (f : Flag) : (w.setFlag k f).nbv = w.nbv := rfl
@[simp] theorem Warp.setFlag_fpctl (w : Warp) (k : Nat) (f : Flag) : (w.setFlag k f).fpctl = w.fpctl := rfl
@[simp] theorem Warp.setFlag_nttth (w : Warp) (k : Nat) (f : Flag) : (w.setFlag k f).nttth = w.nttth := rfl
@[simp] theorem Warp.setFlag_phase (w : Warp) (k : Nat) (f : Flag) : (w.setFlag k f).phase = w.phase := rfl
@[simp] theorem Warp.setFlag_cause (w : Warp) (k : Nat) (f : Flag) : (w.setFlag k f).cause = w.cause := rfl
@[simp] theorem Warp.setFlag_epc (w : Warp) (k : Nat) (f : Flag) : (w.setFlag k f).epc = w.epc := rfl
@[simp] theorem Warp.setFlag_tval (w : Warp) (k : Nat) (f : Flag) : (w.setFlag k f).tval = w.tval := rfl
@[simp] theorem Warp.setFlag_tlanes (w : Warp) (k : Nat) (f : Flag) : (w.setFlag k f).tlanes = w.tlanes := rfl
@[simp] theorem Warp.setFlag_tinfo (w : Warp) (k : Nat) (f : Flag) : (w.setFlag k f).tinfo = w.tinfo := rfl
@[simp] theorem Warp.setFlag_hstat (w : Warp) (k : Nat) (f : Flag) : (w.setFlag k f).hstat = w.hstat := rfl
@[simp] theorem Warp.setFlag_handler (w : Warp) (k : Nat) (f : Flag) : (w.setFlag k f).handler = w.handler := rfl
@[simp] theorem Warp.setFlag_halt (w : Warp) (k : Nat) (f : Flag) : (w.setFlag k f).halt = w.halt := rfl
@[simp] theorem Warp.setFlag_batches (w : Warp) (k : Nat) (f : Flag) : (w.setFlag k f).batches = w.batches := rfl
@[simp] theorem Warp.setFlag_batchNo (w : Warp) (k : Nat) (f : Flag) : (w.setFlag k f).batchNo = w.batchNo := rfl
@[simp] theorem Warp.setFlag_accord (w : Warp) (k : Nat) (f : Flag) : (w.setFlag k f).accord = w.accord := rfl
@[simp] theorem Warp.setFlag_accordTag (w : Warp) (k : Nat) (f : Flag) : (w.setFlag k f).accordTag = w.accordTag := rfl
@[simp] theorem Warp.setFlag_bars (w : Warp) (k : Nat) (f : Flag) : (w.setFlag k f).bars = w.bars := rfl
@[simp] theorem Warp.setFlag_mmqs (w : Warp) (k : Nat) (f : Flag) : (w.setFlag k f).mmqs = w.mmqs := rfl
@[simp] theorem Warp.setFlag_bad (w : Warp) (k : Nat) (f : Flag) : (w.setFlag k f).bad = w.bad := rfl
@[simp] theorem Warp.setFlag_hint (w : Warp) (k : Nat) (f : Flag) : (w.setFlag k f).hint = w.hint := rfl

/-! ### `Warp.setQueue` -/

@[simp] theorem Warp.setQueue_id (w : Warp) (q : BitVec 2) (l : List QEntry) : (w.setQueue q l).id = w.id := rfl
@[simp] theorem Warp.setQueue_block (w : Warp) (q : BitVec 2) (l : List QEntry) : (w.setQueue q l).block = w.block := rfl
@[simp] theorem Warp.setQueue_index (w : Warp) (q : BitVec 2) (l : List QEntry) : (w.setQueue q l).index = w.index := rfl
@[simp] theorem Warp.setQueue_part (w : Warp) (q : BitVec 2) (l : List QEntry) : (w.setQueue q l).part = w.part := rfl
@[simp] theorem Warp.setQueue_slot (w : Warp) (q : BitVec 2) (l : List QEntry) : (w.setQueue q l).slot = w.slot := rfl
@[simp] theorem Warp.setQueue_budget (w : Warp) (q : BitVec 2) (l : List QEntry) : (w.setQueue q l).budget = w.budget := rfl
@[simp] theorem Warp.setQueue_spillBase (w : Warp) (q : BitVec 2) (l : List QEntry) : (w.setQueue q l).spillBase = w.spillBase := rfl
@[simp] theorem Warp.setQueue_spillSize (w : Warp) (q : BitVec 2) (l : List QEntry) : (w.setQueue q l).spillSize = w.spillSize := rfl
@[simp] theorem Warp.setQueue_vregs (w : Warp) (q : BitVec 2) (l : List QEntry) : (w.setQueue q l).vregs = w.vregs := rfl
@[simp] theorem Warp.setQueue_shapes (w : Warp) (q : BitVec 2) (l : List QEntry) : (w.setQueue q l).shapes = w.shapes := rfl
@[simp] theorem Warp.setQueue_tops (w : Warp) (q : BitVec 2) (l : List QEntry) : (w.setQueue q l).tops = w.tops := rfl
@[simp] theorem Warp.setQueue_sregs (w : Warp) (q : BitVec 2) (l : List QEntry) : (w.setQueue q l).sregs = w.sregs := rfl
@[simp] theorem Warp.setQueue_flags (w : Warp) (q : BitVec 2) (l : List QEntry) : (w.setQueue q l).flags = w.flags := rfl
@[simp] theorem Warp.setQueue_access (w : Warp) (q : BitVec 2) (l : List QEntry) : (w.setQueue q l).access = w.access := rfl
@[simp] theorem Warp.setQueue_subs (w : Warp) (q : BitVec 2) (l : List QEntry) : (w.setQueue q l).subs = w.subs := rfl
@[simp] theorem Warp.setQueue_splits (w : Warp) (q : BitVec 2) (l : List QEntry) : (w.setQueue q l).splits = w.splits := rfl
@[simp] theorem Warp.setQueue_exited (w : Warp) (q : BitVec 2) (l : List QEntry) : (w.setQueue q l).exited = w.exited := rfl
@[simp] theorem Warp.setQueue_fmt (w : Warp) (q : BitVec 2) (l : List QEntry) : (w.setQueue q l).fmt = w.fmt := rfl
@[simp] theorem Warp.setQueue_nbv (w : Warp) (q : BitVec 2) (l : List QEntry) : (w.setQueue q l).nbv = w.nbv := rfl
@[simp] theorem Warp.setQueue_fpctl (w : Warp) (q : BitVec 2) (l : List QEntry) : (w.setQueue q l).fpctl = w.fpctl := rfl
@[simp] theorem Warp.setQueue_nttth (w : Warp) (q : BitVec 2) (l : List QEntry) : (w.setQueue q l).nttth = w.nttth := rfl
@[simp] theorem Warp.setQueue_phase (w : Warp) (q : BitVec 2) (l : List QEntry) : (w.setQueue q l).phase = w.phase := rfl
@[simp] theorem Warp.setQueue_cause (w : Warp) (q : BitVec 2) (l : List QEntry) : (w.setQueue q l).cause = w.cause := rfl
@[simp] theorem Warp.setQueue_epc (w : Warp) (q : BitVec 2) (l : List QEntry) : (w.setQueue q l).epc = w.epc := rfl
@[simp] theorem Warp.setQueue_tval (w : Warp) (q : BitVec 2) (l : List QEntry) : (w.setQueue q l).tval = w.tval := rfl
@[simp] theorem Warp.setQueue_tlanes (w : Warp) (q : BitVec 2) (l : List QEntry) : (w.setQueue q l).tlanes = w.tlanes := rfl
@[simp] theorem Warp.setQueue_tinfo (w : Warp) (q : BitVec 2) (l : List QEntry) : (w.setQueue q l).tinfo = w.tinfo := rfl
@[simp] theorem Warp.setQueue_hstat (w : Warp) (q : BitVec 2) (l : List QEntry) : (w.setQueue q l).hstat = w.hstat := rfl
@[simp] theorem Warp.setQueue_handler (w : Warp) (q : BitVec 2) (l : List QEntry) : (w.setQueue q l).handler = w.handler := rfl
@[simp] theorem Warp.setQueue_halt (w : Warp) (q : BitVec 2) (l : List QEntry) : (w.setQueue q l).halt = w.halt := rfl
@[simp] theorem Warp.setQueue_batches (w : Warp) (q : BitVec 2) (l : List QEntry) : (w.setQueue q l).batches = w.batches := rfl
@[simp] theorem Warp.setQueue_batchNo (w : Warp) (q : BitVec 2) (l : List QEntry) : (w.setQueue q l).batchNo = w.batchNo := rfl
@[simp] theorem Warp.setQueue_accord (w : Warp) (q : BitVec 2) (l : List QEntry) : (w.setQueue q l).accord = w.accord := rfl
@[simp] theorem Warp.setQueue_accordTag (w : Warp) (q : BitVec 2) (l : List QEntry) : (w.setQueue q l).accordTag = w.accordTag := rfl
@[simp] theorem Warp.setQueue_bars (w : Warp) (q : BitVec 2) (l : List QEntry) : (w.setQueue q l).bars = w.bars := rfl
@[simp] theorem Warp.setQueue_mmqs (w : Warp) (q : BitVec 2) (l : List QEntry) : (w.setQueue q l).mmqs = w.mmqs := rfl
@[simp] theorem Warp.setQueue_bad (w : Warp) (q : BitVec 2) (l : List QEntry) : (w.setQueue q l).bad = w.bad := rfl
@[simp] theorem Warp.setQueue_hint (w : Warp) (q : BitVec 2) (l : List QEntry) : (w.setQueue q l).hint = w.hint := rfl

/-! ### `Warp.setSub` -/

@[simp] theorem Warp.setSub_id (w : Warp) (o : Option Nat) (b : Sub) : (w.setSub o b).id = w.id := by cases o <;> rfl
@[simp] theorem Warp.setSub_block (w : Warp) (o : Option Nat) (b : Sub) : (w.setSub o b).block = w.block := by cases o <;> rfl
@[simp] theorem Warp.setSub_index (w : Warp) (o : Option Nat) (b : Sub) : (w.setSub o b).index = w.index := by cases o <;> rfl
@[simp] theorem Warp.setSub_part (w : Warp) (o : Option Nat) (b : Sub) : (w.setSub o b).part = w.part := by cases o <;> rfl
@[simp] theorem Warp.setSub_slot (w : Warp) (o : Option Nat) (b : Sub) : (w.setSub o b).slot = w.slot := by cases o <;> rfl
@[simp] theorem Warp.setSub_budget (w : Warp) (o : Option Nat) (b : Sub) : (w.setSub o b).budget = w.budget := by cases o <;> rfl
@[simp] theorem Warp.setSub_spillBase (w : Warp) (o : Option Nat) (b : Sub) : (w.setSub o b).spillBase = w.spillBase := by cases o <;> rfl
@[simp] theorem Warp.setSub_spillSize (w : Warp) (o : Option Nat) (b : Sub) : (w.setSub o b).spillSize = w.spillSize := by cases o <;> rfl
@[simp] theorem Warp.setSub_vregs (w : Warp) (o : Option Nat) (b : Sub) : (w.setSub o b).vregs = w.vregs := by cases o <;> rfl
@[simp] theorem Warp.setSub_shapes (w : Warp) (o : Option Nat) (b : Sub) : (w.setSub o b).shapes = w.shapes := by cases o <;> rfl
@[simp] theorem Warp.setSub_tops (w : Warp) (o : Option Nat) (b : Sub) : (w.setSub o b).tops = w.tops := by cases o <;> rfl
@[simp] theorem Warp.setSub_sregs (w : Warp) (o : Option Nat) (b : Sub) : (w.setSub o b).sregs = w.sregs := by cases o <;> rfl
@[simp] theorem Warp.setSub_flags (w : Warp) (o : Option Nat) (b : Sub) : (w.setSub o b).flags = w.flags := by cases o <;> rfl
@[simp] theorem Warp.setSub_queues (w : Warp) (o : Option Nat) (b : Sub) : (w.setSub o b).queues = w.queues := by cases o <;> rfl
@[simp] theorem Warp.setSub_splits (w : Warp) (o : Option Nat) (b : Sub) : (w.setSub o b).splits = w.splits := by cases o <;> rfl
@[simp] theorem Warp.setSub_exited (w : Warp) (o : Option Nat) (b : Sub) : (w.setSub o b).exited = w.exited := by cases o <;> rfl
@[simp] theorem Warp.setSub_fmt (w : Warp) (o : Option Nat) (b : Sub) : (w.setSub o b).fmt = w.fmt := by cases o <;> rfl
@[simp] theorem Warp.setSub_nbv (w : Warp) (o : Option Nat) (b : Sub) : (w.setSub o b).nbv = w.nbv := by cases o <;> rfl
@[simp] theorem Warp.setSub_fpctl (w : Warp) (o : Option Nat) (b : Sub) : (w.setSub o b).fpctl = w.fpctl := by cases o <;> rfl
@[simp] theorem Warp.setSub_nttth (w : Warp) (o : Option Nat) (b : Sub) : (w.setSub o b).nttth = w.nttth := by cases o <;> rfl
@[simp] theorem Warp.setSub_phase (w : Warp) (o : Option Nat) (b : Sub) : (w.setSub o b).phase = w.phase := by cases o <;> rfl
@[simp] theorem Warp.setSub_cause (w : Warp) (o : Option Nat) (b : Sub) : (w.setSub o b).cause = w.cause := by cases o <;> rfl
@[simp] theorem Warp.setSub_epc (w : Warp) (o : Option Nat) (b : Sub) : (w.setSub o b).epc = w.epc := by cases o <;> rfl
@[simp] theorem Warp.setSub_tval (w : Warp) (o : Option Nat) (b : Sub) : (w.setSub o b).tval = w.tval := by cases o <;> rfl
@[simp] theorem Warp.setSub_tlanes (w : Warp) (o : Option Nat) (b : Sub) : (w.setSub o b).tlanes = w.tlanes := by cases o <;> rfl
@[simp] theorem Warp.setSub_tinfo (w : Warp) (o : Option Nat) (b : Sub) : (w.setSub o b).tinfo = w.tinfo := by cases o <;> rfl
@[simp] theorem Warp.setSub_hstat (w : Warp) (o : Option Nat) (b : Sub) : (w.setSub o b).hstat = w.hstat := by cases o <;> rfl
@[simp] theorem Warp.setSub_handler (w : Warp) (o : Option Nat) (b : Sub) : (w.setSub o b).handler = w.handler := by cases o <;> rfl
@[simp] theorem Warp.setSub_halt (w : Warp) (o : Option Nat) (b : Sub) : (w.setSub o b).halt = w.halt := by cases o <;> rfl
@[simp] theorem Warp.setSub_batches (w : Warp) (o : Option Nat) (b : Sub) : (w.setSub o b).batches = w.batches := by cases o <;> rfl
@[simp] theorem Warp.setSub_batchNo (w : Warp) (o : Option Nat) (b : Sub) : (w.setSub o b).batchNo = w.batchNo := by cases o <;> rfl
@[simp] theorem Warp.setSub_accord (w : Warp) (o : Option Nat) (b : Sub) : (w.setSub o b).accord = w.accord := by cases o <;> rfl
@[simp] theorem Warp.setSub_accordTag (w : Warp) (o : Option Nat) (b : Sub) : (w.setSub o b).accordTag = w.accordTag := by cases o <;> rfl
@[simp] theorem Warp.setSub_bars (w : Warp) (o : Option Nat) (b : Sub) : (w.setSub o b).bars = w.bars := by cases o <;> rfl
@[simp] theorem Warp.setSub_mmqs (w : Warp) (o : Option Nat) (b : Sub) : (w.setSub o b).mmqs = w.mmqs := by cases o <;> rfl
@[simp] theorem Warp.setSub_bad (w : Warp) (o : Option Nat) (b : Sub) : (w.setSub o b).bad = w.bad := by cases o <;> rfl
@[simp] theorem Warp.setSub_hint (w : Warp) (o : Option Nat) (b : Sub) : (w.setSub o b).hint = w.hint := by cases o <;> rfl

/-! ### What an update leaves of a lookup -/

@[simp] theorem Sys.setContext_warp? (y : Sys) (n : Nat) (c : Context) (id : Nat) : (y.setContext n c).warp? id = y.warp? id := rfl
@[simp] theorem Sys.setContext_block? (y : Sys) (n : Nat) (c : Context) (id : Nat) : (y.setContext n c).block? id = y.block? id := rfl
@[simp] theorem Sys.mark_warp? (y : Sys) (n id : Nat) : (y.mark n).warp? id = y.warp? id := rfl
@[simp] theorem Sys.mark_block? (y : Sys) (n id : Nat) : (y.mark n).block? id = y.block? id := rfl
@[simp] theorem Sys.setWarp_block? (y : Sys) (w : Warp) (id : Nat) : (y.setWarp w).block? id = y.block? id := rfl
@[simp] theorem Sys.setBlock_warp? (y : Sys) (k : Block) (id : Nat) : (y.setBlock k).warp? id = y.warp? id := rfl
@[simp] theorem Sys.useFree_warp? (y : Sys) (n id : Nat) : (y.useFree n).warp? id = y.warp? id := rfl
@[simp] theorem Sys.dropOp_warp? (y : Sys) (n id : Nat) : (y.dropOp n).warp? id = y.warp? id := rfl
@[simp] theorem Sys.addOp_warp? (y : Sys) (p : Op) (id : Nat) : (y.addOp p).warp? id = y.warp? id := rfl

end Sys2Proof.Machine
end

