-- ==== Sys2Proof/Laws/Issue.lean ====
section
/-! SUPPORT. Laws of issue: what `env?` finds, and what a completed word leaves. -/

namespace Sys2Proof.Machine

/-! ### Finding and replacing -/

theorem Sys.warp?_id {y : Sys} {id : Nat} {w : Warp} (h : y.warp? id = some w) : w.id = id := by
  have := List.find?_some h
  simpa using this

theorem find_map_setWarp (l : List Warp) (w : Warp) (id : Nat) (h : (l.find? (fun v => v.id == w.id)).isSome = true) :
    (l.map (fun v => if v.id == w.id then w else v)).find? (fun v => v.id == id) =
      if id = w.id then some w else l.find? (fun v => v.id == id) := by
  induction l with
  | nil => simp at h
  | cons v l ih =>
    by_cases hv : v.id = w.id
    · by_cases hi : id = w.id
      · simp [hv, hi]
      · have h1 : ¬ w.id = id := fun e => hi e.symm
        have h2 : ¬ v.id = id := fun e => hi (by rw [← e, hv])
        have h3 : ∀ l : List Warp, (l.map (fun v => if v.id == w.id then w else v)).find? (fun v => v.id == id) =
            l.find? (fun v => v.id == id) := by
          intro l
          induction l with
          | nil => rfl
          | cons x l ihl =>
            by_cases hx : x.id = w.id
            · have h4 : ¬ x.id = id := fun e => hi (by rw [← e, hx])
              simpa [hx, h1, h4] using ihl
            · by_cases h5 : x.id = id
              · simp [h5, hi]
              · simpa [hx, h5] using ihl
        simpa [hv, h1, h2, hi] using h3 l
    · have hs : (l.find? (fun v => v.id == w.id)).isSome = true := by simpa [hv] using h
      by_cases hi : v.id = id
      · have : ¬ id = w.id := fun e => hv (by rw [hi, e])
        simp [hi, this]
      · simpa [hv, hi] using ih hs

/-- The warp found after one was replaced. -/
theorem Sys.warp?_setWarp {y : Sys} {w v : Warp} (id : Nat) (h : y.warp? v.id = some w) :
    (y.setWarp v).warp? id = if id = v.id then some v else y.warp? id :=
  find_map_setWarp y.warps v id (by rw [show y.warps.find? (fun w => w.id == v.id) = some w from h]; rfl)

@[simp] theorem Sys.setWarp_rest (y : Sys) (w : Warp) : { y.setWarp w with warps := y.warps } = y := rfl

/-! ### Tables -/

theorem Table.get?_set {α : Type} (t : Table α) (k j : Nat) (v : α) :
    Table.get? (Table.set t k v) j = if j = k then some v else Table.get? t j := by
  induction t with
  | nil =>
    by_cases hj : j = k
    · simp [Table.set, Table.get?, hj]
    · have : ¬ k = j := fun e => hj e.symm
      simp [Table.set, Table.get?, hj, this]
  | cons c r ih =>
    obtain ⟨a, b⟩ := c
    simp only [Table.set]
    split
    · by_cases hj : j = k
      · simp [Table.get?, hj]
      · have : ¬ k = j := fun e => hj e.symm
        simp [Table.get?, hj, this]
    · split
      · rename_i hk
        subst hk
        by_cases hj : j = a
        · simp [Table.get?, hj]
        · have : ¬ a = j := fun e => hj e.symm
          simp [Table.get?, hj, this]
      · rename_i hk hak
        by_cases hja : a = j
        · have : ¬ j = k := by omega
          simp [Table.get?, hja, this]
        · simp only [Table.get?, hja, if_false]
          exact ih

theorem Sys.context_setContext (y : Sys) (c d : Nat) (x : Context) :
    (y.setContext c x).context d = if d = c then x else y.context d := by
  simp only [Sys.context, Sys.setContext, Table.getD, Table.get?_set]
  split <;> rfl

/-! ### The issuing environment -/

/-- What the environment of an issuing word holds. -/
theorem env?_spec {i : Instr} {s : State} {e : Env} (h : env? i s = some e) :
    e.s = s ∧ e.i = i ∧ s.sys.cur = some (e.w.id, e.o) ∧ s.sys.warp? e.w.id = some e.w ∧
      e.w.sub? e.o = some e.b ∧ s.sys.block? e.w.block = some e.k := by
  unfold env? at h
  split at h
  · cases h
  · rename_i c hc
    split at h
    · cases h
    · rename_i w hw
      split at h
      · rename_i b k hb hk
        cases h
        have hid := Sys.warp?_id hw
        refine ⟨rfl, rfl, ?_, ?_, hb, hk⟩
        · rw [hc, hid]
        · rw [hid]; exact hw
      · cases h

/-- An issued word whose checks pass does what its meaning gives. -/
theorem issue_ok {i : Instr} {s : State} {e : Env} {body : Env → Except Hold Upd} {u : Upd} (h : Ready i s e)
    (hb : body e = .ok u) : issue i s body = .next (commit s u) := by
  obtain ⟨-, h1, h2, h3⟩ := h
  simp only [issue, h1, h2, hb]
  cases hl : i.lateMem
  · rfl
  · simp [h3 hl]

/-- An issued word of the plain kind, whose checks pass. -/
theorem issue_error {i : Instr} {s : State} {e : Env} {body : Env → Except Hold Upd} {x : Hold}
    (h1 : env? i s = some e) (h2 : e.precheck = none) (hb : body e = .error x) :
    issue i s body = .next (commit s (e.held x)) := by
  simp only [issue, h1, h2, hb]

theorem issueReg_ok {i : Instr} {s : State} {e : Env} {body : Env → Except Hold Warp} {w : Warp} (h : Ready i s e)
    (hb : body e = .ok w) :
    issueReg i s body = .next { s with sys := (s.sys.setWarp (e.after w e.i.pops)).mark e.k.ctx } := by
  have he := (env?_spec h.env).1
  unfold issueReg
  rw [issue_ok h (u := e.done w) (by simp [hb])]
  simp only [Env.done, Env.y, he]
  rfl

/-! ### The warp after a completed word -/

theorem find_map_sub (l : List Sub) (b : Sub) (k : Nat) (h : (l.find? (fun v => v.id == b.id)).isSome = true) :
    (l.map (fun v => if v.id == b.id then b else v)).find? (fun v => v.id == k) =
      if k = b.id then some b else l.find? (fun v => v.id == k) := by
  have other : ∀ l : List Sub, k ≠ b.id → (l.map (fun v => if v.id == b.id then b else v)).find? (fun v => v.id == k) =
      l.find? (fun v => v.id == k) := by
    intro l hk
    induction l with
    | nil => rfl
    | cons x l ih =>
      have hk' : ¬ b.id = k := fun e => hk e.symm
      by_cases hx : x.id = b.id
      · have h4 : ¬ x.id = k := fun e => hk' (by rw [← e, hx])
        simpa [hx, hk'] using ih
      · by_cases h5 : x.id = k
        · simp [h5, hk]
        · simpa [hx, h5] using ih
  by_cases hk : k = b.id
  · subst hk
    rw [if_pos rfl]
    induction l with
    | nil => simp at h
    | cons x l ih =>
      by_cases hx : x.id = b.id
      · simp [hx]
      · have : (l.find? (fun v => v.id == b.id)).isSome = true := by simpa [hx] using h
        simpa [hx] using ih this
  · rw [if_neg hk]; exact other l hk

@[simp] theorem Sub.past_id (b : Sub) : b.past.id = b.id := by
  unfold Sub.past
  split
  · dsimp only
    split <;> rfl
  · rfl
  · rfl

/-- The sub-warps after one was replaced by another of its identifier. -/
theorem Warp.sub?_setSub {w : Warp} {o : Option Nat} {b b' : Sub} (h : w.sub? o = some b) (hid : b'.id = b.id)
    (k : Option Nat) : (w.setSub o b').sub? k = if k = o then some b' else w.sub? k := by
  cases o with
  | none =>
    cases k with
    | none =>
      simp only [Warp.sub?, Option.map_eq_some_iff] at h
      obtain ⟨a, ha, _⟩ := h
      simp [Warp.setSub, Warp.sub?, ha]
    | some k => simp [Warp.setSub, Warp.sub?]
  | some j =>
    have hj : b.id = j := by simpa using List.find?_some h
    cases k with
    | none => simp [Warp.setSub, Warp.sub?]
    | some k =>
      have := find_map_sub w.subs b' k (by
        rw [hid, hj]; rw [show w.subs.find? (fun v => v.id == j) = some b from h]; rfl)
      rw [hid, hj] at this
      simpa [Warp.setSub, Warp.sub?] using this

@[simp] theorem Warp.setQueue_sub? (w : Warp) (q : BitVec 2) (l : List QEntry) (o : Option Nat) :
    (w.setQueue q l).sub? o = w.sub? o := by cases o <;> rfl

/-- Pops change the queues alone. -/
theorem Warp.popAll_eq (w : Warp) (l : List (BitVec 2 × Nat)) :
    w.popAll l = { w with queues := (w.popAll l).queues } := by
  unfold Warp.popAll
  induction l generalizing w with
  | nil => rfl
  | cons p l ih =>
    simp only [List.foldl_cons]
    rw [ih]
    rfl

/-- Pops depend on the queues alone. -/
theorem Warp.popAll_queues {w v : Warp} (l : List (BitVec 2 × Nat)) (h : w.queues = v.queues) :
    (w.popAll l).queues = (v.popAll l).queues := by
  unfold Warp.popAll
  induction l generalizing w v with
  | nil => exact h
  | cons p l ih =>
    simp only [List.foldl_cons]
    apply ih
    simp [Warp.setQueue, Warp.queue, h]

/-- What a meaning may have changed in its warp before `Env.after`: registers and flags only. -/
structure RegsOnly (w v : Warp) : Prop where
  subs : v.subs = w.subs
  access : v.access.map (fun a => (a.sub, a.jobs, a.ended)) = w.access.map (fun a => (a.sub, a.jobs, a.ended))
  queues : v.queues = w.queues
  same : { v with vregs := w.vregs, shapes := w.shapes, tops := w.tops, sregs := w.sregs,
                  flags := w.flags, fpctl := w.fpctl, access := w.access } = w

theorem RegsOnly.refl (w : Warp) : RegsOnly w w := ⟨rfl, rfl, rfl, rfl⟩

theorem RegsOnly.id {w v : Warp} (h : RegsOnly w v) : v.id = w.id := by
  have := congrArg Warp.id h.same; exact this

theorem RegsOnly.sub? {w v : Warp} (h : RegsOnly w v) (o : Option Nat) : v.sub? o = w.sub? o := by
  cases o with
  | some k => simp [Warp.sub?, h.subs]
  | none =>
    have := h.access
    cases hv : v.access <;> cases hw : w.access <;> simp_all [Warp.sub?]

theorem Warp.setSub_same (w : Warp) (o : Option Nat) (b : Sub) :
    { w.setSub o b with subs := w.subs, access := w.access } = w := by cases o <;> rfl

/-- The parts of a warp that `Env.after` leaves. -/
theorem Env.after_same (e : Env) (w : Warp) (l : List (BitVec 2 × Nat)) :
    { e.after w l with queues := w.queues, subs := w.subs, access := w.access, bad := w.bad } = w := by
  unfold Env.after Env.afterIn
  rw [Warp.popAll_eq]
  cases e.o <;> rfl

@[simp] theorem Env.after_vregs (e : Env) (w : Warp) (l : List (BitVec 2 × Nat)) : (e.after w l).vregs = w.vregs :=
  (congrArg Warp.vregs (e.after_same w l) :)
@[simp] theorem Env.after_shapes (e : Env) (w : Warp) (l : List (BitVec 2 × Nat)) : (e.after w l).shapes = w.shapes :=
  (congrArg Warp.shapes (e.after_same w l) :)
@[simp] theorem Env.after_tops (e : Env) (w : Warp) (l : List (BitVec 2 × Nat)) : (e.after w l).tops = w.tops :=
  (congrArg Warp.tops (e.after_same w l) :)
@[simp] theorem Env.after_sregs (e : Env) (w : Warp) (l : List (BitVec 2 × Nat)) : (e.after w l).sregs = w.sregs :=
  (congrArg Warp.sregs (e.after_same w l) :)
@[simp] theorem Env.after_flags (e : Env) (w : Warp) (l : List (BitVec 2 × Nat)) : (e.after w l).flags = w.flags :=
  (congrArg Warp.flags (e.after_same w l) :)
@[simp] theorem Env.after_fpctl (e : Env) (w : Warp) (l : List (BitVec 2 × Nat)) : (e.after w l).fpctl = w.fpctl :=
  (congrArg Warp.fpctl (e.after_same w l) :)
@[simp] theorem Env.after_id (e : Env) (w : Warp) (l : List (BitVec 2 × Nat)) : (e.after w l).id = w.id :=
  (congrArg Warp.id (e.after_same w l) :)

@[simp] theorem Env.after_queues (e : Env) (w : Warp) (l : List (BitVec 2 × Nat)) :
    (e.after w l).queues = (w.popAll l).queues := by
  unfold Env.after Env.afterIn; cases e.o <;> rfl

@[simp] theorem Env.after_bad (e : Env) (w : Warp) (l : List (BitVec 2 × Nat)) :
    (e.after w l).bad = e.repaired e.y w.bad := rfl

theorem Warp.setSub_access (w : Warp) (o : Option Nat) (b : Sub) :
    (w.setSub o b).access.map (fun a => (a.xregs, a.jobs, a.ended)) = w.access.map (fun a => (a.xregs, a.jobs, a.ended)) := by
  cases o
  · cases h : w.access <;> simp [Warp.setSub, h]
  · rfl

theorem Env.after_access (e : Env) (w : Warp) (l : List (BitVec 2 × Nat)) :
    (e.after w l).access.map (fun a => (a.xregs, a.jobs, a.ended)) = w.access.map (fun a => (a.xregs, a.jobs, a.ended)) := by
  have h1 : (e.after w l).access = ((w.popAll l).setSub e.o (((w.popAll l).sub? e.o).getD e.b).past).access := rfl
  rw [h1, Warp.setSub_access, Warp.popAll_eq]

theorem Env.after_xregs (e : Env) (w : Warp) (l : List (BitVec 2 × Nat)) :
    (e.after w l).access.map (·.xregs) = w.access.map (·.xregs) := by
  have h := congrArg (Option.map (·.1)) (e.after_access w l)
  simp only [Option.map_map] at h
  exact h

@[simp] theorem Warp.popAll_sub? (w : Warp) (l : List (BitVec 2 × Nat)) (o : Option Nat) : (w.popAll l).sub? o = w.sub? o := by
  rw [Warp.popAll_eq]; cases o <;> rfl

/-- The sub-warps after a completed word: the issuing one past the word, the others as they were. -/
theorem Env.after_sub? {e : Env} {w : Warp} (hb : w.sub? e.o = some e.b) (l : List (BitVec 2 × Nat)) (k : Option Nat) :
    (e.after w l).sub? k = if k = e.o then some e.b.past else w.sub? k := by
  have h1 : (e.after w l).sub? k = ((w.popAll l).setSub e.o (((w.popAll l).sub? e.o).getD e.b).past).sub? k := by
    cases k <;> rfl
  rw [h1, Warp.popAll_sub?, hb, Option.getD_some,
    Warp.sub?_setSub (b := e.b) (by rw [Warp.popAll_sub?]; exact hb) (Sub.past_id _), Warp.popAll_sub?]

/-- What a completed word leaves of its warp. -/
theorem Env.after_frame {e : Env} {v : Warp} (hb : e.w.sub? e.o = some e.b) (h : RegsOnly e.w v) :
    WordFrame e (e.after v e.i.pops) where
  queues := by rw [Env.after_queues]; exact Warp.popAll_queues _ h.queues
  sub := by rw [Env.after_sub? (by rw [h.sub?]; exact hb)]; simp
  others k hk := by rw [Env.after_sub? (by rw [h.sub?]; exact hb), if_neg hk, h.sub?]
  bad := by rw [Env.after_bad]; exact congrArg (e.repaired e.y) (congrArg Warp.bad h.same :)
  access := by
    have h1 := congrArg (Option.map (fun a => (a.2.1, a.2.2))) (e.after_access v e.i.pops)
    have h2 := congrArg (Option.map (fun a => (a.2.1, a.2.2))) h.access
    simp only [Option.map_map] at h1 h2
    exact h1.trans h2
  same := by
    have h1 := congrArg (fun x : Warp => { x with
      vregs := e.w.vregs, shapes := e.w.shapes, tops := e.w.tops, sregs := e.w.sregs, flags := e.w.flags,
      fpctl := e.w.fpctl, queues := e.w.queues, access := e.w.access, subs := e.w.subs, bad := e.w.bad })
      (e.after_same v e.i.pops)
    have h2 := congrArg (fun x : Warp => { x with
      queues := e.w.queues, subs := e.w.subs, bad := e.w.bad }) h.same
    exact h1.trans h2

/-- What a completed word leaves of the machine. -/
theorem onlyWarp_of {i : Instr} {s : State} {e : Env} {v : Warp} (h : env? i s = some e) (hid : v.id = e.w.id) :
    OnlyWarp s { s with sys := (s.sys.setWarp v).mark e.k.ctx } e v := by
  obtain ⟨-, -, -, hw, -, -⟩ := env?_spec h
  have hw' : s.sys.warp? v.id = some e.w := by rw [hid]; exact hw
  constructor
  · rw [Sys.mark_warp?, Sys.warp?_setWarp _ hw', if_pos hid.symm]
  · intro id hne
    rw [Sys.mark_warp?, Sys.warp?_setWarp _ hw', if_neg (by rw [hid]; exact hne)]
  · intro a; rfl
  · intro c
    simp only [Sys.mark, Sys.context_setContext]
    split
    · rename_i hc; subst hc; rfl
    · rfl
  · rfl

end Sys2Proof.Machine
end

