-- ==== Sys2Proof/Laws/Operands.lean ====
section
/-! SUPPORT. Laws of operand results: what writing lanes and scalar registers changes. -/

namespace Sys2Proof.Machine

theorem Warp.vl_eq (w : Warp) {r i : Nat} (hr : r < 256) (hi : i < 32) : w.vl r i = w.vregs[r][i] := by
  simp [Warp.vl, Warp.v, hr, hi]

@[simp] theorem Env.after_vl (e : Env) (w : Warp) (l : List (BitVec 2 × Nat)) (r i : Nat) :
    (e.after w l).vl r i = w.vl r i := by simp [Warp.vl, Warp.v]

/-- The lanes of a register after the masked lanes of another, or the same, were written. -/
theorem Warp.writeV_vl (w : Warp) (d : Nat) (m : LaneMask) (l : Lanes) {r i : Nat} (hr : r < 256) (hi : i < 32) :
    (w.writeV d m l).vl r i = if r = d ∧ m.getLsbD i = true then l[i] else w.vl r i := by
  rw [Warp.vl_eq _ hr hi]
  by_cases hd : r = d
  · subst hd
    simp only [Warp.writeV, Warp.unshape, Vector.getElem_setIfInBounds_self, Vector.getElem_ofFn]
    simp [Warp.vl, Warp.v, hr, hi]
  · have hd' : d ≠ r := fun h => hd h.symm
    simp [Warp.writeV, Warp.unshape, hd, Vector.getElem_setIfInBounds_ne, hd', Warp.vl_eq _ hr hi]

theorem Warp.writeV_regs (w : Warp) (d : Nat) (m : LaneMask) (l : Lanes) : RegsOnly w (w.writeV d m l) :=
  ⟨rfl, rfl, rfl, rfl⟩

theorem RegsOnly.trans {w v u : Warp} (h : RegsOnly w v) (g : RegsOnly v u) : RegsOnly w u where
  subs := g.subs.trans h.subs
  access := g.access.trans h.access
  queues := g.queues.trans h.queues
  same := by
    have h1 := congrArg (fun x : Warp => { x with
      vregs := w.vregs, shapes := w.shapes, tops := w.tops, sregs := w.sregs, flags := w.flags,
      fpctl := w.fpctl, access := w.access }) g.same
    exact h1.trans h.same

theorem Warp.writeV_shapes (w : Warp) (d : Nat) (m : LaneMask) (l : Lanes) {r : Nat} (hr : r < 256) :
    ((w.writeV d m l).shapes[r]?, (w.writeV d m l).tops[r]?) =
      if r = d then (some 0, some 0) else (w.shapes[r]?, w.tops[r]?) := by
  by_cases hd : r = d
  · subst hd; simp [Warp.writeV, Warp.unshape, hr]
  · have hd' : d ≠ r := fun h => hd h.symm
    simp [Warp.writeV, Warp.unshape, hd, Vector.getElem?_setIfInBounds_ne, hd']

theorem putLanes_regs (w : Warp) (m : LaneMask) (sz : Sz) (sg : Bool) (d : Nat) (f : Nat → Word) :
    RegsOnly w (putLanes w m sz sg d f) := by
  cases sz <;> first | exact Warp.writeV_regs _ _ _ _ | exact (Warp.writeV_regs _ _ _ _).trans (Warp.writeV_regs _ _ _ _)

theorem putLanes_vl (w : Warp) (m : LaneMask) (sz : Sz) (sg : Bool) (d : Nat) (f : Nat → Word) {r i : Nat}
    (hr : r < 256) (hi : i < 32) :
    (putLanes w m sz sg d f).vl r i =
      if m.getLsbD i && sz == .w64 && r == d + 1 then (f i >>> 32).setWidth 32
      else if m.getLsbD i && r == d then
        (if sz == .w64 then (f i).setWidth 32 else (ext sg sz.bits (f i)).setWidth 32)
      else w.vl r i := by
  cases sz
  case w64 =>
    simp only [putLanes]
    rw [Warp.writeV_vl _ _ _ _ hr hi, Warp.writeV_vl _ _ _ _ hr hi]
    by_cases h1 : r = d + 1 <;> by_cases h2 : r = d <;> by_cases h3 : m.getLsbD i = true <;> simp [h1, h2, h3]
  all_goals
    simp only [putLanes]
    rw [Warp.writeV_vl _ _ _ _ hr hi]
    by_cases h2 : r = d <;> by_cases h3 : m.getLsbD i = true <;> simp [h2, h3]

theorem putLanes_shapes (w : Warp) (m : LaneMask) (sz : Sz) (sg : Bool) (d : Nat) (f : Nat → Word) {r : Nat}
    (hr : r < 256) :
    ((putLanes w m sz sg d f).shapes[r]?, (putLanes w m sz sg d f).tops[r]?) =
      if r = d ∨ (sz = .w64 ∧ r = d + 1) then (some 0, some 0) else (w.shapes[r]?, w.tops[r]?) := by
  cases sz
  case w64 =>
    simp only [putLanes]
    rw [Warp.writeV_shapes _ _ _ _ hr, Warp.writeV_shapes _ _ _ _ hr]
    by_cases h1 : r = d + 1 <;> by_cases h2 : r = d <;> simp [h1, h2]
  all_goals
    simp only [putLanes]
    rw [Warp.writeV_shapes _ _ _ _ hr]
    simp

theorem putLanes_keeps (w : Warp) (m : LaneMask) (sz : Sz) (sg : Bool) (d : Nat) (f : Nat → Word) :
    (putLanes w m sz sg d f).sregs = w.sregs ∧ (putLanes w m sz sg d f).access = w.access ∧
      (putLanes w m sz sg d f).flags = w.flags ∧ (putLanes w m sz sg d f).fpctl = w.fpctl := by
  cases sz <;> exact ⟨rfl, rfl, rfl, rfl⟩

/-- A word whose meaning writes the lanes of one register, or pair, and FPCTL. -/
theorem writesLanesIn_of {i : Instr} {s : State} {e : Env} {m : LaneMask} {d : BitVec 8} {sz : Sz} {sg : Bool}
    {f : Nat → Word} {fp : Word} {body : Env → Except Hold Warp} (hx : exec i s = issueReg i s body) (h : Ready i s e)
    (hb : body e = .ok { putLanes e.w m sz sg d.toNat f with fpctl := fp }) : WritesLanesIn i s e m d sz sg f fp := by
  obtain ⟨-, -, -, -, hs, -⟩ := env?_spec h.env
  have hp := putLanes_regs e.w m sz sg d.toNat f
  have hr : RegsOnly e.w { putLanes e.w m sz sg d.toNat f with fpctl := fp } :=
    ⟨hp.subs, hp.access, hp.queues, hp.same⟩
  obtain ⟨k1, k2, k3, k4⟩ := putLanes_keeps e.w m sz sg d.toNat f
  refine ⟨_, e.after { putLanes e.w m sz sg d.toNat f with fpctl := fp } e.i.pops, by rw [hx, issueReg_ok h hb],
    onlyWarp_of h.env (by rw [Env.after_id, hr.id]), Env.after_frame hs hr, ?_, ?_, ?_, ?_⟩
  · constructor
    · simp [k1]
    · exact (e.after_xregs _ _).trans (congrArg (Option.map (·.xregs)) k2 :)
    · simp [k3]
  · simp
  · intro r i hr' hi
    rw [Env.after_vl]
    exact putLanes_vl _ _ _ _ _ _ hr' hi
  · intro r hr'
    simp only [Env.after_shapes, Env.after_tops]
    exact putLanes_shapes _ _ _ _ _ _ hr'

theorem writesLanesIn_plain {i : Instr} {s : State} {e : Env} {m : LaneMask} {d : BitVec 8} {sz : Sz} {sg : Bool}
    {f : Nat → Word} {body : Env → Except Hold Warp} (hx : exec i s = issueReg i s body) (h : Ready i s e)
    (hb : body e = .ok (putLanes e.w m sz sg d.toNat f)) : WritesLanesIn i s e m d sz sg f e.w.fpctl :=
  writesLanesIn_of hx h (by
    rw [hb]
    have h4 := (putLanes_keeps e.w m sz sg d.toNat f).2.2.2
    generalize putLanes e.w m sz sg d.toNat f = v at h4
    rw [← h4])

/-- A word whose meaning writes the active lanes of one register, or pair. -/
theorem writesLanes_of {i : Instr} {s : State} {e : Env} {d : BitVec 8} {sz : Sz} {sg : Bool} {f : Nat → Word}
    {body : Env → Except Hold Warp} (hx : exec i s = issueReg i s body) (h : Ready i s e)
    (hb : body e = .ok (putLanes e.w e.b.exec sz sg d.toNat f)) : WritesLanes i s e d sz sg f :=
  writesLanesIn_plain hx h hb

/-! ### Scalar registers -/

theorem Warp.setSx_regs (w : Warp) (o : Option Nat) (d : SReg) (x : Word) : RegsOnly w (w.setSx o d x) := by
  unfold Warp.setSx
  split
  · rename_i a h
    refine ⟨rfl, ?_, rfl, ?_⟩
    · simp [h]
    · rfl
  · exact ⟨rfl, rfl, rfl, rfl⟩

theorem Warp.s_setS (w : Warp) (d r : SReg) (x : Word) : (w.setS d x).s r = if r = d then x else w.s r := by
  by_cases h : r = d
  · subst h; simp [Warp.s, Warp.setS]
  · have h' : d.toNat ≠ r.toNat := fun e => h (BitVec.eq_of_toNat_eq e.symm)
    simp [Warp.s, Warp.setS, h, Vector.getElem_set_ne, h']

theorem Warp.sx_setSx (w : Warp) (o : Option Nat) (d r : SReg) (x : Word) (h : o = none → d.toNat < 32) :
    (w.setSx o d x).sx o r = if r = d then x else w.sx o r := by
  cases o with
  | some k => exact Warp.s_setS w d r x
  | none =>
    cases ha : w.access with
    | none =>
      have h1 : (w.setS d x).access = none := ha
      simp only [Warp.setSx, Warp.sx, ha, h1]
      exact Warp.s_setS w d r x
    | some a =>
      have hd := h rfl
      by_cases hr : r = d
      · subst hr; simp [Warp.setSx, Warp.sx, ha, hd]
      · have h' : d.toNat ≠ r.toNat := fun e => hr (BitVec.eq_of_toNat_eq e.symm)
        simp [Warp.setSx, Warp.sx, ha, hr, Vector.getElem?_setIfInBounds_ne, h']

theorem Env.after_sx (e : Env) (w : Warp) (l : List (BitVec 2 × Nat)) (o : Option Nat) (r : SReg) :
    (e.after w l).sx o r = w.sx o r := by
  have h := congrArg (Option.map (·.1)) (e.after_access w l)
  simp only [Option.map_map] at h
  cases o with
  | some k => simp [Warp.sx, Warp.s]
  | none =>
    cases h1 : (e.after w l).access <;> cases h2 : w.access <;> simp [h1, h2] at h <;> simp [Warp.sx, h1, h2, Warp.s, h]

/-- The checks before a meaning put every register of the access slice among X0 to X31 (R223). -/
theorem Ready.inRange {i : Instr} {s : State} {e : Env} (h : Ready i s e) {d : Nat} (hd : Use.sw d ∈ i.named)
    (ho : e.o = none) : d < 32 := by
  have he := (env?_spec h.env).2.1
  have h2 : e.outOfRange = false := by
    have := h.checks
    simp only [Env.precheck] at this
    by_cases hm : e.outOfRange = true
    · simp [hm] at this
    · simpa using hm
  simp only [Env.outOfRange, he, List.any_eq_false] at h2
  have := h2 _ hd
  simp [ho] at this
  omega

/-- A word whose meaning writes one scalar register. -/
theorem writesScalar_of {i : Instr} {s : State} {e : Env} {d : SReg} {x : Word} {body : Env → Except Hold Warp}
    (hx : exec i s = issueReg i s body) (h : Ready i s e) (hd : Use.sw d.toNat ∈ i.named)
    (hb : body e = .ok (e.w.setSx e.o d x)) : WritesScalar i s e d x := by
  obtain ⟨-, -, -, -, hs, -⟩ := env?_spec h.env
  have hr := Warp.setSx_regs e.w e.o d x
  have hin := h.inRange hd
  refine ⟨_, e.after (e.w.setSx e.o d x) e.i.pops, by rw [hx, issueReg_ok h hb], onlyWarp_of h.env
    (by rw [Env.after_id, hr.id]), Env.after_frame hs hr, ?_, ?_⟩
  · constructor <;> simp only [Env.after_vregs, Env.after_shapes, Env.after_tops] <;>
      (unfold Warp.setSx; split <;> rfl)
  · constructor
    · intro r; rw [Env.after_sx, Warp.sx_setSx _ _ _ _ _ hin]
    · intro ho
      rw [Env.after_sregs]
      rw [ho] at hs ⊢
      cases ha : e.w.access with
      | none => simp [Warp.sub?, ha] at hs
      | some a => simp [Warp.setSx, ha]
    · intro ho
      refine (e.after_xregs _ _).trans ?_
      cases ho' : e.o with
      | none => exact absurd ho' ho
      | some k => rfl
    · rw [Env.after_flags]; unfold Warp.setSx; split <;> rfl
    · rw [Env.after_fpctl]; unfold Warp.setSx; split <;> rfl

end Sys2Proof.Machine
end

