-- ==== Sys2Proof/Laws/Traps.lean ====
section
/-! SUPPORT. Laws of traps: what an event, a fault record, a pending cause and a handler entry change. -/

namespace Sys2Proof.Machine

/-! ### Changes one after another -/

@[simp] theorem Upd.andThen_sys (s : State) (u : Upd) (f : State → Upd) : (Upd.andThen s u f).sys = (f (commit s u)).sys := rfl
@[simp] theorem Upd.andThen_stores (s : State) (u : Upd) (f : State → Upd) :
    (Upd.andThen s u f).stores = u.stores ++ (f (commit s u)).stores := rfl
@[simp] theorem Upd.each_nil {α : Type} (s : State) (f : α → State → Upd) : Upd.each s f [] = .of s.sys := rfl
theorem Upd.each_cons {α : Type} (s : State) (f : α → State → Upd) (x : α) (l : List α) :
    Upd.each s f (x :: l) = { sys := (Upd.each (commit s (f x s)) f l).sys,
                              stores := (f x s).stores ++ (Upd.each (commit s (f x s)) f l).stores } := rfl

/-- What every change of a list keeps, the list keeps. -/
theorem Upd.each_keeps {α : Type} (P : Sys → Prop) (f : α → State → Upd) (l : List α)
    (h : ∀ x s, P s.sys → P (f x s).sys) : ∀ s : State, P s.sys → P (Upd.each s f l).sys := by
  induction l with
  | nil => exact fun s hs => hs
  | cons x xs ih => exact fun s hs => ih (commit s (f x s)) (h x s hs)

/-! ### Events and fault records (R452, R466) -/

/-- An event writes one record, moves the ring's tail and interrupts the host, or counts one more as dropped. -/
theorem raiseEventAt_cases (s : State) (ty ctx : Nat) (a0 a1 : Word) (tick : Nat) :
    (∃ k l, l.length = 32 ∧ raiseEventAt s ty ctx a0 a1 tick = controlWrite { s with sys := { s.sys with
      ctl := { s.sys.ctl with eventTail := s.sys.ctl.eventTail + 1, msix := s.sys.ctl.msix + 1 } } } k l) ∨
    raiseEventAt s ty ctx a0 a1 tick = .of { s.sys with ctl := { s.sys.ctl with evcfg := evDropped s.sys.ctl.evcfg } } := by
  have len : ∀ n v, (leBytes n v).length = n := by intro n v; simp [leBytes]
  simp only [raiseEventAt]
  split
  · exact .inl ⟨_, _, by simp [len], rfl⟩
  · exact .inr rfl

/-- An event changes registers of the control die, and what is not visible yet, alone. -/
theorem raiseEvent_rest (s : State) (ty ctx : Nat) (a0 a1 : Word) :
    { (raiseEvent s ty ctx a0 a1).sys with ctl := s.sys.ctl, unseen := s.sys.unseen } = s.sys := by
  rcases raiseEventAt_cases s ty ctx a0 a1 s.sys.clk with ⟨k, l, -, h⟩ | h <;> simp only [raiseEvent, h] <;> rfl

@[simp] theorem raiseEvent_warps (s : State) (ty ctx : Nat) (a0 a1 : Word) : (raiseEvent s ty ctx a0 a1).sys.warps = s.sys.warps := by
  rw [← congrArg Sys.warps (raiseEvent_rest s ty ctx a0 a1)]

@[simp] theorem raiseEvent_context (s : State) (ty ctx : Nat) (a0 a1 : Word) (c : Nat) :
    (raiseEvent s ty ctx a0 a1).sys.context c = s.sys.context c := by
  have h : (raiseEvent s ty ctx a0 a1).sys.contexts = s.sys.contexts := by
    rw [← congrArg Sys.contexts (raiseEvent_rest s ty ctx a0 a1)]
  simp only [Sys.context, h]

/-- A fault record goes to the log of its context while the log has room; a full log counts it as dropped. -/
theorem logFault_context (s : State) (ctx : Nat) (r : List Byte) :
    (logFault s ctx r).sys.context ctx =
      if (s.sys.context ctx).log.length < 256 then { s.sys.context ctx with log := (s.sys.context ctx).log ++ [r] }
      else { s.sys.context ctx with dropped := (s.sys.context ctx).dropped + 1 } := by
  simp only [logFault]
  split
  · simp [Sys.context_setContext]
  · simp [Sys.context_setContext]

@[simp] theorem logFault_warps (s : State) (ctx : Nat) (r : List Byte) : (logFault s ctx r).sys.warps = s.sys.warps := by
  simp only [logFault]
  split
  · simp [Sys.setContext]
  · rfl

/-! ### Handler entry and pending causes (R447, R449) -/

/-- With a handler, entry is a change of the warp, whose reads for a fetch are given up. -/
theorem enterHandler_named {s : State} {w : Warp} {k : Block} (b : Sub) (t : TrapInfo) (epc header : Word) (l : List TrapInfo)
    (own : Bool) (h : s.sys.block? w.block = some k) (hk : k.handler ≠ 0) :
    enterHandler s w b t epc header l own =
      .of ((s.sys.unasked (· == .sub w.id (some b.id))).setWarp
        (w.intoHandler b t epc header k.handler l (if own then some s.sys.time.cycle else none))) := by
  simp only [enterHandler, h, if_neg hk]

/-- Without a handler, the warp ends as R451 says. -/
theorem enterHandler_none {s : State} {w : Warp} {k : Block} (b : Sub) (t : TrapInfo) (epc header : Word) (l : List TrapInfo)
    (own : Bool) (h : s.sys.block? w.block = some k) (hk : k.handler = 0) :
    enterHandler s w b t epc header l own = unhandled s w t (t.originPC epc) 0 := by
  simp [enterHandler, h, hk]

/-- A cause whose bit is clear pends behind the others. -/
theorem pendCause_new {s : State} {w : Warp} {d : Handler} {pc : Word} {t : TrapInfo} (h : w.cause &&& t.cause.bit = 0) :
    pendCause s w d pc t = .of (s.sys.setWarp { w with
      cause := w.cause ||| t.cause.bit, handler := some { d with pending := d.pending ++ [t] } }) := by
  simp [pendCause, h]

/-- A trap of a warp that is in no handler and has received no block-halt: the halt goes to the others, and the warp enters. -/
theorem takePrecise_first {s : State} {w : Warp} (b : Sub) (t : TrapInfo) (h : w.handler = none) (hh : w.halt = none) :
    takePrecise s w b t = Upd.andThen s (sendHalt s w t.cause) (fun s1 => enterHandler s1 w b t b.pc b.header [] true) := by
  simp [takePrecise, h, hh]

/-- A trap of a warp slice is precise. -/
@[simp] theorem takeTrap_sub (s : State) (w : Warp) (k : Nat) (b : Sub) (t : TrapInfo) : takeTrap s w (some k) b t = takePrecise s w b t := rfl

end Sys2Proof.Machine
end

