-- ==== Sys2Proof/Tests/Slice0.lean ====
section
/-! SUPPORT. Tests: ill-formed terms are refused, words written out from the manual's encodings decode to what they stand for,
and for every statement a concrete state and operands that meet its hypotheses. -/

namespace Sys2Proof.Tests
set_option Elab.async false
open Sys2Proof Sys2Proof.Machine

/-! ### Ill-formed terms -/

theorem test_wf_refuses_vector_forms :
    [ Instr.iadd ⟨5, .v 4 .none, .v 6, .w64, true, 0⟩, .iadd ⟨4, .v 5 .none, .v 6, .w64, true, 0⟩,
      .iadd ⟨4, .v 4 .none, .v 7, .w64, true, 0⟩, .iadd ⟨4, .v 4 .none, .v 6, .w32, true, 2⟩,
      .iand ⟨4, .v 4 .none, .v 6, .w32, false, 1⟩, .imad ⟨4, .v 4 .none, .imm 1, 8, .w32, false, 0⟩,
      .imad ⟨4, .v 4 .none, .v 6, 7, .w64, false, 0⟩, .imadw ⟨4, .v 5 .none, .v 6, 8, .w64, false, 0⟩,
      .imadw ⟨5, .v 5 .none, .v 6, 8, .w32, false, 0⟩, .imadw ⟨4, .v 5 .none, .v 6, 9, .w32, false, 0⟩,
      .iaddc ⟨5, .v 5 .none, .v 6, 8, .w32, false, 0⟩, .isubb ⟨4, .v 5 .none, .v 6, 8, .w32, true, 0⟩,
      .isubb ⟨4, .v 5 .none, .v 6, 8, .w32, false, 1⟩, .iabs ⟨4, .v 5 .none, .w32, true, 2⟩,
      .fshf ⟨4, .v 5 .none, .imm 6, 8, .w32, false, 0⟩, .bfe ⟨4, .v 5 .none, .v 6, .w32, false, 1⟩,
      .bfi ⟨4, .v 5 .none, .imm 6, 8, .w32, false, 0⟩, .prmb ⟨4, .v 5 .none, .v 6, 8, .w64, false, 0⟩,
      .sel ⟨4, .v 5 .none, .v 6, 128, .w32, false, 0⟩, .lea ⟨5, .v 4 .none, .v 6, .w64, false, 3⟩ ].all
      (fun i => !i.wf) = true := by decide

theorem test_wf_refuses_compare_move_scalar_lane :
    [ Instr.icmpEq ⟨128, .v 5 .none, .v 6, .w32, false, 0⟩, .icmpLt ⟨4, .v 5 .none, .v 6, .w32, true, 0⟩,
      .icmpLt ⟨4, .v 5 .none, .v 6, .w32, false, 1⟩, .movi 5 1 .w64, .stov 5 4 (.imm 0) .w64 false,
      .stov 4 4 (.imm 32) .w32 false, .vtos 4 5 (.imm 0) .w64 false, .vtos 4 5 (.imm 32) .w32 false,
      .sadd ⟨4, .s 5, .s 6, .w32, false, 2⟩, .sand ⟨4, .s 5, .s 6, .w32, false, 1⟩,
      .ssel ⟨4, .s 5, 6, 128, .w32, false⟩, .scmp ⟨4, .s 5, 6, 10, .w32, false⟩,
      .lperm ⟨4, .v 5 (.up 1), .v 6, .w32, false, 0⟩, .lscan ⟨4, .v 5 .none, .max, .w32, false, false, true⟩,
      .lred ⟨4, .v 5 .none, .add, .w32, false, true, false⟩, .ballot ⟨4, .v 5 .none, .w32, true, 0⟩ ].all
      (fun i => !i.wf) = true := by decide

theorem test_wf_refuses_float_and_paired :
    [ Instr.fadd ⟨4, .v 5 .none, .imm 6, .f32, .dyn⟩, .fadd ⟨5, .v 4 .none, .v 6, .f64, .dyn⟩,
      .fmin ⟨4, .v 5 .none, .v 6, .f32, .rtz⟩, .ffma ⟨4, .v 4 .none, .v 6, 7, .f64, .dyn⟩,
      .fsqrt ⟨5, .v 4 .none, .f64, .dyn⟩, .fcmp ⟨4, .v 5 .none, .v 6, 8, .f32, .dyn⟩,
      .fcmp ⟨4, .v 5 .none, .v 6, 0, .f32, .rup⟩, .fcvt 4 (.v 5 .none) .f32 .f32 .dyn, .fcvt 4 (.v 5 .none) .u32 .s32 .dyn,
      .fcvt 5 (.v 4 .none) .f64 .f32 .dyn, .fclass ⟨4, .v 5 .none, .f32, .rdn⟩,
      .pairedWord ⟨.hnop, 1, .v 0⟩ ⟨.hadd, 4, .v 5⟩, .pairedWord ⟨.hsadd, 128, .s 1⟩ ⟨.hnop, 0, .v 0⟩,
      .pairedWord ⟨.hsadd, 4, .v 1⟩ ⟨.hnop, 0, .v 0⟩, .pairedWord ⟨.hfadd, 4, .imm 1⟩ ⟨.hnop, 0, .v 0⟩,
      .pairedWord ⟨.hadd, 4, .v 5⟩ ⟨.hadd, 8, .v 6⟩, .pairedWord ⟨.hadd, 4, .v 5⟩ ⟨.hadd, 9, .v 4⟩,
      .pairedWord ⟨.hsmov, 4, .s 5⟩ ⟨.hsmov, 4, .s 6⟩, .pairedWord ⟨.hsmov, 4, .s 5⟩ ⟨.hsadd, 6, .s 4⟩,
      .pairedWord ⟨.hadd, 4, .v 8⟩ ⟨.hadd, 12, .v 1⟩,
      .clauseStart ⟨0, 0, 15, 0, false, false⟩, .clauseStart ⟨0, 12, 15, 1, false, false⟩,
      .clauseStart ⟨0, 0, 14, 1, false, false⟩ ].all (fun i => !i.wf) = true := by decide

theorem test_wf_refuses_memory_and_engines :
    [ Instr.lds ⟨8, none, none, 0, 0, .out 3, .w32⟩, .lds ⟨9, none, none, 0, 0, .none, .w64⟩,
      .lds ⟨8, none, none, 1, 0, .none, .w32⟩, .lds ⟨8, none, some 255, 0, 0, .none, .w32⟩,
      .ldsu ⟨8, none, 0, .both 3, .w32⟩, .ldk ⟨9, none, 0, 1, .none, .w64⟩, .stk ⟨9, none, 0, 1, .none, .w64⟩,
      .ats ⟨9, none, none, 0, 0, .none, .add, true⟩, .atm ⟨9, none, none, 0, 0, .none, .cas, false⟩,
      .atsu ⟨127, none, 0, .none, .cas, false⟩, .gath ⟨8, none, none, 0, 0, .both 3, .w32⟩,
      .cpl ⟨9, none, none, 0, 0, none, 1, false⟩, .cpb ⟨127, none, 0, none, 1⟩, .halloc 127 1 none false false false,
      .pcommit 127 1 none false, .pdecommit 127 1 none false false, .pqry 127 1 false, .strm 0 32 1 2 .w32 false false,
      .strm 0 1 32 2 .w32 false false, .strm 0 1 2 32 .w32 false false, .lmul 127 1 2 3 false,
      .zld 0 (.v 4) (.imm 32), .zst 4 0 (.imm 32), .accrun 127 1 2 3 false, .accstat 127 false ].all
      (fun i => !i.wf) = true := by decide

theorem test_wf_refuses_tasks_and_system :
    [ Instr.bar ⟨none, none, none, 16, .blk, false⟩, .bar ⟨none, none, none, 8, .clu, false⟩,
      .bararr ⟨some 1, none, none, 0, .blk, false⟩, .bararr ⟨none, none, none, 0, .blk, true⟩, .barwt none 4 .die false,
      .xred 5 6 0 .add, .xred 4 7 0 .add, .qpost none 121 none false false, .dpub 0 1 121 none false false,
      .srd 128 .exec, .swr .clock (.imm 0) ].all (fun i => !i.wf) = true := by decide

theorem test_wf_refuses_machine_steps :
    [ Instr.issueSelect 240 0, .issueSelect 0 6, .tableWalk 6 0 0, .binDispatch 0 0 64, .binDispatch 0 6 0,
      .regionTableWrite 0 2048 0, .extentAdd 0 2048 1, .sectorPacket 0 2, .refresh 12 0 0, .refresh 0 32 0, .refresh 0 0 64,
      .stackHotRefresh 12, .flitCrcFail 8, .shapeRecordWrite 64 0, .qcfgWrite 4096 0, .measurementExtend 8 [],
      .attestationRequest [], .contextDescriptorWrite 4096 0 0, .contextDescriptorWrite 0 8 0, .hangcfgWrite 4096 0,
      .collectiveReduce 0 16 [] ].all (fun i => !i.wf) = true := by decide

/-! ### Words of the manual's encodings -/

/-- The word decodes to the instruction. -/
def reads (x : Nat × Instr) : Bool :=
  match decode (BitVec.ofNat 64 x.1) with
  | .ok i => i == x.2
  | .error _ => false

theorem test_decode_vector_words :
    [ (0x0104050600000003, Instr.iadd ⟨4, .v 5 .none, .v 6, .w32, true, 1⟩),
      (0x0103030400000208, .iadd ⟨3, .v 3 (.up 1), .v 4, .w32, false, 0⟩),
      (0x010C04FDFF020000, .iadd ⟨12, .v 4 .none, .imm 0xFFFD, .w32, false, 0⟩),
      (0x02020764001A0000, .icmpLtu ⟨2, .v 7 .none, .imm 100, .w32, false, 0⟩),
      (0x07080A0C0E0C1005, .ffma ⟨8, .v 10 .none, .v 12, 14, .f64, .rtz⟩),
      (0x0608040000040002, .lscan ⟨8, .v 4 .none, .add, .w32, false, true, false⟩) ].all reads = true := by decide

theorem test_decode_memory_words :
    [ (0x100802030B079FF8, Instr.sts ⟨8, some 2, some 3, 3, 0xFF8, .out 11, .w64⟩),
      (0x10100403FF100000, .ldk ⟨16, some 4, 0, 3, .none, .w32⟩),
      (0x110406050902C000, .ats ⟨4, some 6, some 5, 2, 0, .both 9, .add, false⟩),
      (0x11080CFFFF081940, .atm ⟨8, some 12, none, 0, 0x40, .none, .cas, true⟩),
      (0x1205050900014000, .wmerge 5 5 9), (0x1207030000044001, .wmarkV 7 3),
      (0x1306040509024010, .gath ⟨6, some 4, some 5, 2, 16, .inp 9, .w32⟩),
      (0x1308040AFF0C0100, .cpl ⟨8, some 4, some 10, 0, 0, none, 1, false⟩), (0x1314FFFFFF180000, .cpwait 20 0),
      (0x141403FFFF000001, .halloc 20 3 none true false false), (0x141E02FFFF0E0000, .pcommit 30 2 none true),
      (0x1501040506014000, .strm 1 4 5 6 .w32 false false) ].all reads = true := by decide

theorem test_decode_big_and_tile_words :
    [ (0x2004050600000000, Instr.badd 4 (.v 5) (.v 6)), (0x2004040100020000, .badd 4 (.v 4) (.imm 1)),
      (0x2007070300150001, .bshr 7 (.v 7) (.s 3) true), (0x200809020A1D0000, .bdivs 8 (.v 9) 2 10 false),
      (0x2104020305000001, .bconv 4 (.v 2) (.v 3) 5 true), (0x210A050600050000, .cres 10 5 6 none),
      (0x2214040506000000, .lmul 20 4 5 6 false), (0x22160405060A0000, .nttf 22 4 5 6 true),
      (0x2800000300020000, .setfmt (.imm 3)), (0x2804101800040000, .mma 4 (.v 16) (.v 24) 0),
      (0x2802082010040000, .mma 2 (.v 8) (.v 32) 16), (0x2800081009080000, .mmq 0 (.v 8) (.v 16) 9),
      (0x28000003000E0000, .zclr 0 3), (0x280C020500150000, .zst 12 2 (.s 5)),
      (0x2828020506191001, .zcvt 40 2 5 (some 6) .f16 true), (0x2914040506000000, .accrun 20 4 5 6 false),
      (0x2914040506020000, .accrun 20 4 5 6 true), (0x2916FFFFFF040000, .accstat 22 false) ].all reads = true := by decide

theorem test_decode_control_words :
    [ (0x3005400003040001, Instr.brs 5 true 3), (0x300780000A080000, .brv 7 false 10), (0x3009800006100000, .bsplit (.v 9) 6),
      (0x3000000000140000, .join), (0x303E400100180000, .call 62 0x100), (0x303E4000001C0000, .ret 62),
      (0x30097FFFFE240000, .loop 9 0x3FFFFE), (0x30003FFFFC000000, .bra 0x3FFFFC), (0x3000000000280000, .exit),
      (0x30000000002C0000, .nop), (0x311415FF01015000, .bar ⟨some 20, some 21, none, 1, .blk, true⟩),
      (0x31FF0E0D00115000, .sigx 0 14 13 true), (0x322808FF1E000000, .qpost (some 40) 8 (some 30) false false),
      (0x320A0B101E080000, .dpub 10 11 16 (some 30) false false), (0x32FF04FFFF0C0001, .dsig 4 none false true false),
      (0x32141516FF100000, .launch 20 21 22 none false), (0x38031800000C8000, .srd 3 .clock),
      (0x3812000400110000, .swr .fpctl (.s 4)), (0x3800004200020000, .trap (.imm 0x42)),
      (0x7F0031F480000000, .clauseStart ⟨3, 1, 15, 4, true, false⟩),
      (0x80080A0016141200, .pairedWord ⟨.hadd, 4, .v 5⟩ ⟨.hfmul, 10, .v 9⟩) ].all reads = true := by decide

/-- Reserved widths and modifiers, and an output witness on a load, are no instruction. -/
theorem test_decode_refuses_illegal_words :
    [ 0x0104050600000700, 0x0104050600000620, 0x0104050600000008, 0x100604050A028010 ].all
      (fun w : Nat => (match decode (BitVec.ofNat 64 w) with | .ok _ => false | .error _ => true)) = true := by decide

/-! ### States that meet the hypotheses of the statements -/

/-- A state in which a warp of core 0 is about to issue `i`, the one word of its clause. -/
def at_ (i : Instr) : State :=
  let s := State.reset.withFetchWord 64 (Instr.word i).toNat
  { s with sys := { s.sys with cur := s.sys.selected.head?, selected := [] } }

/-- The same, with a change of the warp. -/
def atWith (i : Instr) (f : Warp → Warp) : State :=
  { at_ i with sys := { (at_ i).sys with warps := (at_ i).sys.warps.map f } }

/-- The same, with a change of everything but memory. -/
def atSys (i : Instr) (f : Sys → Sys) : State := { at_ i with sys := f (at_ i).sys }

/-- The word is ready, and `p` holds of its environment. -/
def when (i : Instr) (s : State) (p : Env → Bool) : Bool :=
  i.wf && (match env? i s with
    | none => false
    | some e => e.precheck.isNone && (!i.lateMem || e.memBad.isNone) && p e)

/-- `when` finds what the statements ask for. -/
theorem ready_of {i : Instr} {s : State} {p : Env → Bool} (h : when i s p = true) :
    ∃ e, Ready i s e ∧ p e = true := by
  unfold when at h
  cases he : env? i s with
  | none => simp [he] at h
  | some e =>
    simp only [he, Bool.and_eq_true, Bool.or_eq_true, Option.isNone_iff_eq_none, Bool.not_eq_true'] at h
    exact ⟨e, ⟨h.1, he, h.2.1.1, fun l => by simpa [l] using h.2.1.2⟩, h.2.2⟩

/-- Each word of a list is ready in the state made for it. -/
def allReady (l : List Instr) : Bool := l.all (fun i => when i (at_ i) (fun _ => true))

theorem ready_all {l : List Instr} (h : allReady l = true) : ∀ i ∈ l, ∃ e, Ready i (at_ i) e := by
  intro i hi
  obtain ⟨e, he, -⟩ := ready_of (List.all_eq_true.mp h i hi)
  exact ⟨e, he⟩

def ab : OpAB := ⟨4, .v 5 .none, .v 6, .w32, false, 0⟩
def abc : OpABC := ⟨4, .v 5 .none, .v 6, 8, .w32, false, 0⟩
def oa : OpA := ⟨4, .v 5 .none, .w32, false, 0⟩
def os : OpS := ⟨4, .s 5, .s 6, .w64, false, 0⟩
def fab : FpAB := ⟨4, .v 5 .none, .v 6, .f32, .dyn⟩
def fabc : FpABC := ⟨4, .v 5 .none, .v 6, 7, .f32, .dyn⟩
def sc : OpScan := ⟨4, .v 5 .none, .add, .w32, false, false, false⟩

theorem test_integer_words_ready : ∀ i ∈ [ Instr.iadd { ab with sg := true, fl := 1 }, .isub ab, .imul ab, .imulh ab, .imin ab, .imax ab,
    .iand ab, .ior ab, .ixor ab, .iandn ab, .shl { ab with b := .imm 32 }, .shr { ab with b := .imm 31 }, .sar ab, .rot ab ],
    ∃ e, Ready i (at_ i) e := ready_all (by decide)

theorem test_one_source_words_ready : ∀ i ∈ [ Instr.iabs oa, .clz oa, .ctz oa, .popc oa, .brev oa, .mov oa, .movi 4 0xFFFF .w64,
    .icmpEq ab, .icmpNe ab, .icmpLt ab, .icmpLe ab, .icmpGt ab, .icmpGe ab, .icmpLtu ab, .icmpLeu ab, .icmpGtu ab, .icmpGeu ab,
    .stov 4 5 (.imm 31) .w32 false, .vtos 4 5 (.imm 0) .w32 true ], ∃ e, Ready i (at_ i) e := ready_all (by decide)

theorem test_three_source_words_ready : ∀ i ∈ [ Instr.imad abc, .fshf abc, .bfi abc, .prmb abc, .sel abc, .imadw abc, .bfe ab, .lea ab,
    .iaddc abc, .isubb abc ], ∃ e, Ready i (at_ i) e := ready_all (by decide)

theorem test_division_words_ready : ∀ i ∈ [ Instr.idiv { ab with b := .imm 1 }, .irem { ab with b := .imm 0 } ],
    ∃ e, Ready i (at_ i) e := ready_all (by decide)

theorem test_scalar_words_ready : ∀ i ∈ [ Instr.sadd os, .ssub os, .smul os, .smulh os, .smin os, .smax os, .sand os, .sor os, .sxor os,
    .sandn os, .sshl os, .sshr os, .ssar os, .slea os, .sclz ⟨4, .s 5, .w64, false⟩, .sctz ⟨4, .s 5, .w32, false⟩,
    .spopc ⟨4, .special .clock, .w64, false⟩, .ssel ⟨4, .s 5, 6, 7, .w64, false⟩, .scmp ⟨4, .s 5, 6, 9, .w64, false⟩,
    .smovi 4 0xFFFFFFFF true, .smovh 4 1 ], ∃ e, Ready i (at_ i) e := ready_all (by decide)

theorem test_lane_words_ready : ∀ i ∈ [ Instr.lperm ab, .lscan { sc with ex := true, sat := true }, .lred { sc with op := .xor }, .ballot oa ],
    ∃ e, Ready i (at_ i) e := ready_all (by decide)

theorem test_float_words_ready : ∀ i ∈ [ Instr.fadd fab, .fsub fab, .fmul fab, .fdiv fab, .fmin fab, .fmax fab, .ffma fabc,
    .fsqrt ⟨4, .v 5 .none, .f32, .rdn⟩, .fcmp fabc, .fclass ⟨4, .v 6 .none, .f64, .dyn⟩, .fcvt 4 (.v 5 .none) .f64 .f32 .dyn ],
    ∃ e, Ready i (at_ i) e := ready_all (by decide)

theorem test_scratch_words_ready : ∀ i ∈ [ Instr.lds ⟨8, none, none, 0, 0, .none, .w32⟩, .sts ⟨8, none, none, 0, 0, .none, .w32⟩,
    .ldsu ⟨8, none, 0, .none, .w64⟩, .stsu ⟨8, none, 0, .none, .w64⟩, .ldk ⟨8, none, 0, 3, .none, .w32⟩,
    .stk ⟨8, none, 0, 3, .none, .w32⟩, .ats ⟨8, none, none, 0, 0, .none, .add, false⟩, .atsu ⟨8, none, 0, .none, .swap, true⟩ ],
    ∃ e, Ready i (at_ i) e := ready_all (by decide)

theorem test_memory_words_ready : ∀ i ∈ [ Instr.gath ⟨8, some 2, none, 0, 0, .none, .w32⟩, .gaths ⟨8, some 2, 0, .none, .w32⟩,
    .scat ⟨8, some 2, none, 0, 0, .none, .w32⟩, .atm ⟨8, some 2, none, 0, 0, .none, .add, false⟩,
    .cpl ⟨8, some 4, none, 0, 0, none, 1, false⟩, .cpb ⟨8, some 4, 0, none, 1⟩, .cpseal 1, .cpwait 4 1, .cpqry 4 1 ],
    ∃ e, Ready i (at_ i) e := ready_all (by decide)

theorem test_witness_words_ready : ∀ i ∈ [ Instr.wmerge 4 5 6, .wmarkL 4 5, .wmarkV 4 5, .wtest 4 5, .wwait 5 ],
    ∃ e, Ready i (at_ i) e := ready_all (by decide)

theorem test_engine_words_ready : ∀ i ∈ [ Instr.halloc 20 3 none true false false, .hfree 20 3 none false, .hqry 20 3 false,
    .pcommit 20 3 none false, .pdecommit 20 3 none true false, .pqry 20 3 false, .lmul 20 4 5 6 false, .ladd 20 4 5 6 true false,
    .nttf 20 4 5 6 false, .ntti 20 4 5 6 false, .accrun 20 4 5 6 false, .accstat 20 true, .qinfo 20 3 false,
    .qpost (some 40) 8 none true false, .dpub 10 11 16 none false false, .dsig 4 none false true false, .launch 20 21 22 none false ],
    ∃ e, Ready i (at_ i) e := ready_all (by decide)

theorem test_big_words_ready : ∀ i ∈ [ Instr.badd 4 (.v 5) (.imm 1), .bsub 4 (.v 5) (.v 6), .bneg 4 (.v 5), .bnorm 4 (.v 5),
    .bcmp 4 (.v 5) (.v 6) true, .bshl 4 (.v 5) (.imm 1055), .bshr 4 (.v 5) (.s 3) true, .bmuls 4 (.v 5) (.imm 7) true,
    .bdivs 4 (.v 5) 2 10 false, .blen 4 (.v 5), .bbits 4 (.v 5) true, .bcvtTotc 4 (.v 5), .bcvtFromtc 4 (.v 5), .bcvtF64 4 (.v 5),
    .bspill 4 5 none, .bfill 4 5 none ], ∃ e, Ready i (at_ i) e := ready_all (by decide)

theorem test_tile_words_ready : ∀ i ∈ [ Instr.bconv 0 (.v 2) (.v 3) 5 true, .cres 10 0 6 none, .setfmt (.imm 3), .mma 0 (.v 16) (.v 24) 0,
    .mmq 0 (.v 8) (.v 16) 0, .zclr 0 63, .zld 0 (.v 4) (.imm 31), .zst 4 0 (.imm 0), .zadd 0 1 true, .zcvt 40 0 5 none .f16 true ],
    ∃ e, Ready i (at_ i) e := ready_all (by decide)

theorem test_control_words_ready : ∀ i ∈ [ Instr.bra 1, .brs 5 true 1, .brv 5 true 1, .brz none 1, .bsplit (.s 3) 1, .join, .call 3 1,
    .ret 3, .jmpi 3 0, .loop 3 0x3FFFFF, .exit, .nop, .trap (.imm 1), .tret, .phint 1, .bkpt 3, .srd 4 .laneid, .srd 4 .clock,
    .swr .fpctl (.imm 0) ], ∃ e, Ready i (at_ i) e := ready_all (by decide)

theorem test_sync_words_ready : ∀ i ∈ [ Instr.bar ⟨none, none, none, 15, .blk, true⟩, .bararr ⟨none, none, none, 0, .blk, false⟩,
    .barwt none 0 .blk false, .waitx 0 3 none, .sigx 0 3 4 true, .xred 4 6 0 .add, .qdisc 4 0 ], ∃ e, Ready i (at_ i) e := ready_all (by decide)

theorem test_access_words_ready : ∀ i ∈ [ Instr.strm 1 4 5 6 .w32 false false, .strmend 0xF, .qmark 3 7 ],
    ∃ e, Ready i (at_ i) e := ready_all (by decide)

theorem test_paired_word_and_header_ready : ∀ i ∈ [ Instr.pairedWord ⟨.hadd, 4, .v 5⟩ ⟨.hfmul, 10, .v 9⟩,
    .clauseStart ⟨3, 1, 15, 4, true, false⟩ ], ∃ e, Ready i (at_ i) e := ready_all (by decide)

/-! ### Words whose statements ask for more -/

def onlineDie (d : Die) : Die := { d with regionAll := { d.regionAll with state := 1 } }

/-- The leaf of a page of stacked memory at 0x20000, readable and writable (R21). -/
def dataPage (place : TlbAt) : TlbEntry := { place, ctx := 0, base := 2, level := 0, pte := 0x20003 }

/-- Every region online, and the data page known to core 0 and die 0. -/
def world (y : Sys) : Sys :=
  { y with dies := y.dies.map onlineDie, tlb := [dataPage (.core 0), dataPage (.die 0)] ++ y.tlb }

/-- A state about to issue `i`, with a change of the warp and a change of the machine. -/
def on (i : Instr) (f : Warp → Warp) (g : Sys → Sys) : State :=
  { at_ i with sys := g (world { (at_ i).sys with warps := (at_ i).sys.warps.map f }) }

/-- A witness of device scope for a write that is not yet visible. -/
def notYet : Word := mkWit 2 0 (2 ^ 20)

theorem test_met_Division_zero_divisor : ∃ e, Ready (.irem { ab with b := .imm 0 }) (at_ (.irem { ab with b := .imm 0 })) e ∧
    (e.b.active 0 && e.laneB .w32 ab.a .w32 (.imm 0) false 0 == 0) = true := ready_of (by decide)

theorem test_met_Division_no_zero_divisor : ∃ e, Ready (.idiv { ab with b := .imm 1 }) (at_ (.idiv { ab with b := .imm 1 })) e ∧
    ((List.range 32).all (fun i => toI false 32 (e.laneB .w32 ab.a .w32 (.imm 1) false i) != 0)) = true := ready_of (by decide)

theorem test_met_PairedWord : ∃ e, Ready (.pairedWord ⟨.hadd, 4, .v 5⟩ ⟨.hfmul, 10, .v 9⟩)
    (at_ (.pairedWord ⟨.hadd, 4, .v 5⟩ ⟨.hfmul, 10, .v 9⟩)) e ∧ decide (e.w.fpctl.extractLsb' 16 5 = 0) = true :=
  ready_of (by decide)

theorem test_met_Float_flag_enabled : ∃ e, Ready (.fdiv fab) (atWith (.fdiv fab) (fun w => { w with fpctl := 0x1F0000 })) e ∧
    decide ((({ f := f32Fmt, r := .ne, flush := false } : FpCtx).div (.fin false 0 0) (.fin false 0 0)).2 &&&
      e.w.fpctl.extractLsb' 16 5 ≠ 0) = true := ready_of (by decide)

theorem test_met_Rounding : f32Fmt ∈ [f16Fmt, f32Fmt, f64Fmt] ∧ (0x3F800000#64).toNat < 2 ^ f32Fmt.width ∧
    f32Fmt.unpack 0x3F800000 = .fin false (2 ^ 23) (-23) ∧ f32Fmt.unpack 1 = .fin false 1 (-149) ∧ (∃ k, FpVal.nan true = .nan k) := by
  refine ⟨by decide, by decide, by decide, by decide, ⟨true, rfl⟩⟩

/-- The header of the tests: it waits for flags 0 and 1. -/
def head1 : Instr := .clauseStart ⟨3, 1, 15, 4, true, false⟩

/-- What both statements of a clause's start ask for. -/
def clauseFits (e : Env) : Bool :=
  decide (e.b.pc.toNat % 65536 + 8 * 4 < 65536) && e.o.isSome && !e.savesHere ⟨3, 1, 15, 4, true, false⟩

theorem test_met_ClauseStarts_flags_clear : ∃ e, Ready head1 (at_ head1) e ∧
    (clauseFits e && (List.range 12).all (fun k => e.w.flag k == { count := 0, err := none }) &&
      ((at_ head1).sys.vaBase e.asker (some e.k.core) (dieOf e.k.core) e.k.ctx e.b.pc.toNat).isSome) = true := ready_of (by decide)

theorem test_met_ClauseStarts_flag_counts :
    ∃ e, Ready head1 (atWith head1 (fun w => { w with flags := w.flags.set 1 { count := 1, err := none } })) e ∧
    (clauseFits e && (e.w.flag 1).count != 0) = true := ready_of (by decide)

/-- A load of each lane from the own window. -/
def lds1 : MemV := ⟨8, some 2, none, 0, 0, .none, .w32⟩

theorem test_met_ScratchForms_elements : ∃ e, Ready (.lds lds1) (at_ (.lds lds1)) e ∧
    ((match e.locate 4 (e.memElems lds1) with | .ok l => !l.isEmpty | _ => false) && !e.flagFull (e.op false)) = true :=
  ready_of (by decide)

theorem test_met_ScratchForms_no_lane :
    ∃ e, Ready (.lds lds1) (atWith (.lds lds1) (fun w => { w with subs := w.subs.map (fun b => { b with exec := 0 }) })) e ∧
    ((match e.locate 4 (e.memElems lds1) with | .ok l => l.isEmpty | _ => false) && !e.flagFull (e.op false)) = true :=
  ready_of (by decide)

/-- The traps of the lanes of `lds1`, in the order of precedence: the one at place `n` is the first that some lane raises. -/
def firstFail (s : State) (n : Nat) (e : Env) : Bool :=
  let fails := fun c => (e.memElems lds1).any (fun x => decide (elemFail (s.sys.windows e.k (some e.w)) 4 x = some c))
  let order := [Cause.window, .scratchBounds, .spillBounds, .align]
  (order.take n).all (fun c => !fails c) && fails (order.getD n .window)

/-- `lds1` with its base in S2. -/
def lds1At (a : Word) : State := atWith (.lds lds1) (fun w => w.setS 2 a)

theorem test_met_ScratchElements_window : ∃ e, Ready (.lds lds1) (lds1At 0x400000) e ∧ firstFail (lds1At 0x400000) 0 e = true :=
  ready_of (by decide)

theorem test_met_ScratchElements_bounds : ∃ e, Ready (.lds lds1) (lds1At 4096) e ∧ firstFail (lds1At 4096) 1 e = true :=
  ready_of (by decide)

theorem test_met_ScratchElements_spill : ∃ e, Ready (.lds lds1) (lds1At 0x20000000) e ∧ firstFail (lds1At 0x20000000) 2 e = true :=
  ready_of (by decide)

theorem test_met_ScratchElements_align : ∃ e, Ready (.lds lds1) (lds1At 4091) e ∧ firstFail (lds1At 4091) 3 e = true :=
  ready_of (by decide)

def gath1 : Instr := .gath lds1
def scat1 : Instr := .scat lds1

/-- The elements stand on known pages. -/
def located (acc : Access3) (e : Env) : Bool :=
  (match e.locateMain 4 acc (e.memElems lds1) with | .ok x => !x.2.isEmpty | _ => false) && !e.flagFull (e.op false)

theorem test_met_MainMemory_read : ∃ e, Ready gath1 (on gath1 (fun w => w.setS 2 0x2FFFC) id) e ∧ located .read e = true :=
  ready_of (by decide)

theorem test_met_MainMemory_write : ∃ e, Ready scat1 (on scat1 (fun w => w.setS 2 0x20000) id) e ∧ located .write e = true :=
  ready_of (by decide)

theorem test_met_MainMemory_no_lane :
    ∃ e, Ready gath1 (on gath1 (fun w => { w with subs := w.subs.map (fun b => { b with exec := 0 }) }) id) e ∧
    (e.memElems lds1).isEmpty = true := ready_of (by decide)

theorem test_met_Witness_well_formed : ∃ e, Ready (.wmerge 4 5 6) (atWith (.wmerge 4 5 6) (fun w => w.setS 5 (mkWit 0 3 5))) e ∧
    (!witBad e.y.clk (e.w.s 5) && !witBad e.y.clk (e.w.s 6)) = true := ready_of (by decide)

theorem test_met_Witness_satisfied : ∃ e, Ready (.wwait 5) (at_ (.wwait 5)) e ∧
    (!witBad e.y.clk (e.w.s 5) && decide (e.y.satisfied (coreReader e.k.core) (e.w.s 5) = .yes)) = true := ready_of (by decide)

theorem test_met_Witness_waits : ∃ e, Ready (.wwait 5) (atWith (.wwait 5) (fun w => w.setS 5 notYet)) e ∧
    (!witBad e.y.clk (e.w.s 5) && decide (e.y.satisfied (coreReader e.k.core) (e.w.s 5) = .wait)) = true := ready_of (by decide)

theorem test_met_Witness_malformed : ∃ e, Ready (.wtest 4 5) (atWith (.wtest 4 5) (fun w => w.setS 5 (mkWit 2 1 5))) e ∧
    witBad e.y.clk (e.w.s 5) = true := ready_of (by decide)

theorem test_met_Witness_mark_local : ∃ e, Ready (.wmarkL 4 5) (atWith (.wmarkL 4 5) (fun w => w.setS 5 4095)) e ∧
    (decide ((e.w.s 5).toNat < 2 ^ 32) && (rangeFail (e.y.windows e.k (some e.w)) (e.w.s 5).toNat 1).isNone) = true :=
  ready_of (by decide)

theorem test_met_Witness_mark_virtual : ∃ e, Ready (.wmarkV 4 5) (on (.wmarkV 4 5) (fun w => w.setS 5 0x2FFFF) id) e ∧
    (match e.y.known e.asker (some e.k.core) (dieOf e.k.core) e.k.ctx ((e.w.s 5).toNat / 65536) with
      | some (.leaf _ _) => true | _ => false) = true := ready_of (by decide)

def cpl1 : CopyL := ⟨8, some 4, none, 0, 0, none, 1, false⟩
def cpb1 : CopyB := ⟨8, some 4, 0, none, 1⟩

theorem test_met_Copy_lanes : ∃ e, Ready (.cpl cpl1) (at_ (.cpl cpl1)) e ∧
    (!witBad e.y.clk (e.optS none) && (laneCopyTrap (e.y.windows e.k none) ((e.laneElems cpl1.base cpl1.index cpl1.sc 0).map (fun x =>
        ({ lane := x.lane, m := x.ea, l := (e.w.vl 8 x.lane).toNat, v := min ((e.w.vl 9 x.lane).toNat % 64) 32 } : LaneCopy)))).isNone &&
      !e.flagFull (e.op true) && decide (e.y.copies e.w 1 + 32 ≤ 255)) = true := ready_of (by decide)

theorem test_met_Copy_block :
    ∃ e, Ready (.cpb cpb1) (on (.cpb cpb1) (fun w => (w.setS 4 0x20000).setS 9 0x4000000000000007) id) e ∧
    (let src := ((e.optS cpb1.base).toNat : Int)
     let shape := e.w.sn 9
     let sides := copySides src (e.w.s 8) shape .write
     (blockCopyTrap (e.y.windows e.k none) src (e.w.s 8) shape sides).isNone && !(blockTouches shape sides).isEmpty &&
       (match e.translate (blockTouches shape sides) with | .ok _ => true | _ => false) && !e.flagFull (e.op true)) = true :=
  ready_of (by decide +kernel)

/-- A closed batch of tag 1. -/
def batch1 : Batch := { no := 0, tag := 1, closed := true, taken := false, wit := 0, err := none }

theorem test_met_Copy_closed_batch : ∃ e, Ready (.cpwait 4 1) (atWith (.cpwait 4 1) (fun w => { w with batches := [batch1] })) e ∧
    (e.w.batches.any (fun b => b.tag == 1 && b.closed && !b.taken) && !e.flagFull { e.op false with pendS := [4] }) = true :=
  ready_of (by decide)

theorem test_met_Copy_no_closed_batch : ∃ e, Ready (.cpwait 4 1) (at_ (.cpwait 4 1)) e ∧
    (e.w.batches.isEmpty && !e.flagFull { e.op false with pendS := [4] }) = true := ready_of (by decide)

theorem test_met_Engine_bad_witness :
    ∃ e, Ready (.lmul 20 4 5 6 false) (atWith (.lmul 20 4 5 6 false) (fun w => w.setS 20 (mkWit 2 1 5))) e ∧
    witBad e.y.clk (e.w.s 20) = true := ready_of (by decide)

/-- The clause of a word that counts on flag 0. -/
def counting (b : Sub) : Sub :=
  match b.place with
  | .inside c => { b with place := .inside { c with h := { c.h with seta := 0, setb := 0 } } }
  | _ => b

/-- The warp with its word counting on flag 0, which stands at `n`. -/
def flagAt (n : Nat) (w : Warp) : Warp :=
  { w with subs := w.subs.map counting, flags := w.flags.set 0 { count := n, err := none } }

theorem test_met_Engine_flag_full : ∃ e, Ready (.hqry 20 3 false) (atWith (.hqry 20 3 false) (flagAt 63)) e ∧
    e.flagFull { e.op false with args := [e.w.s 3], pendS := [20] } = true := ready_of (by decide)

theorem test_met_Engine_flag_has_room : ∃ e, Ready (.hqry 20 3 false) (atWith (.hqry 20 3 false) (flagAt 62)) e ∧
    (e.flagFull { e.op false with args := [e.w.s 3], pendS := [20] } == false) = true := ready_of (by decide)

/-- A bin that takes records of key 1: ring of 1 record, entry at 0x20000. -/
def bin1 : Bin where
  cfg := #v[9, 0x20000, 0, 0]
  hwq := []
  ring := []
  held := []
  heldParked := none
  refillParked := none
  head := 0
  tail := 0
  running := 0
  accepted := 0
  reserved := 0
  expired := false
  since := none
  raised := 0

def noBin : Bin := { bin1 with cfg := #v[0, 0, 0, 0] }

/-- The bin table of context 0 on die 0, whose bin 0 is `b`. -/
def bins1 (b : Bin) : Bins := { ctx := 0, die := 0, launch := 1, handler := 0, bins := (Vector.replicate 64 noBin).set 0 b }

def qpost1 : Instr := .qpost (some 40) 8 none false false

theorem test_met_Qpost_no_bin : ∃ e, Ready qpost1 (at_ qpost1) e ∧
    (!witBad e.y.clk 0 && (e.y.recordBin e.k.ctx (dieOf e.k.core) ((List.range 8).map (fun i => e.w.sn (8 + i)))).isNone) = true :=
  ready_of (by decide)

theorem test_met_Qpost_room : ∃ e, Ready qpost1 (on qpost1 (fun w => w.setS 8 8) (fun y => { y with bins := [bins1 bin1] })) e ∧
    (!witBad e.y.clk 0 && e.y.recordBin e.k.ctx (dieOf e.k.core) ((List.range 8).map (fun i => e.w.sn (8 + i))) == some (0, 0) &&
      ((e.y.bin? e.k.ctx 0 0).map (·.room)) == some true && !e.flagFull (e.op false)) = true := ready_of (by decide)

theorem test_met_Counter_words_page : ∀ i ∈ [ Instr.dpub 10 20 24 none true false, .dsig 20 none false false false, .launch 20 20 22 none false ],
    ∃ e, Ready i (on i (fun w => w.setS 20 0x20000) id) e ∧
      ((match e.taskPage (e.w.s 20) 128 128 .write 0 with | .ok _ => true | _ => false) &&
       (match e.taskPage (e.w.s 20) 256 256 .read 0 with | .ok _ => true | _ => false) && !e.flagFull (e.op false)) = true := by
  intro i hi
  simp only [List.mem_cons, List.not_mem_nil, or_false] at hi
  rcases hi with rfl | rfl | rfl <;> exact ready_of (by decide)

def dsigTk : Instr := .dsig 4 none false true false

/-- The control die may write the ticket or not, as `f` leaves the regions. -/
def ticketOpens (f : Sys → Sys) (b : Bool) (e : Env) : Bool :=
  e.y.isTicket e.k.ctx (e.w.s 4) && !witBad e.y.clk 0 && !e.flagFull (e.op false) &&
    (f e.y).opens e.k.ctx (mainKey 0 (e.w.s 4).toNat) 128 true == b

def shut (y : Sys) : Sys := { y with fwRegions := Vector.replicate 64 closedRegion }

theorem test_met_Dsig_ticket : (∃ e, Ready dsigTk (at_ dsigTk) e ∧ ticketOpens id true e = true) ∧
    (∃ e, Ready dsigTk (atSys dsigTk shut) e ∧ ticketOpens shut false e = true) := ⟨ready_of (by decide), ready_of (by decide)⟩

/-! ### States for the steps of the machine -/

/-- A page table that maps page 2 to the leaf `e` (R19 to R21), a page pool with one frame of two places (R46). -/
def tables (e : Word) : Memory :=
  (((((State.reset.mem.putAll 0x40000 (leBytes 8 0x42001)).putAll 0x42000 (leBytes 8 0x44001)).putAll 0x44000 (leBytes 8 0x46001)).putAll
    0x46010 (leBytes 8 e.toNat)).putAll 0x50000 (leBytes 4 1 ++ leBytes 4 2 ++ leBytes 8 0x51000)).putAll 0x51000 (leBytes 8 0x90000)

def normalLeaf : Word := 0x8000000000020003

/-- Context 0 with those tables, that pool, and a Flacon arena of 64 KiB. -/
def context0 : Context :=
  { Context.reset with desc := #v[0x40001, 0x50000, 0, 0, 0, BitVec.allOnes 64, 4, 0], arena := some (0x200000, 65536) }

/-- The machine of the tests: warp 1 of block 2 stands on core 0. -/
def machine : Sys := { world (at_ .nop).sys with contexts := [(0, context0)] }

def theWarp : Warp := codeWarp 1 2 false false

def theBlock : Block := codeBlock 2

def theSub : Sub := codeSub false

/-- A state of the tests: the tables with the leaf, and a change of the machine. -/
def stLeaf (e : Word) (f : Sys → Sys) : State := { mem := tables e, sys := f machine }

def st (f : Sys → Sys) : State := stLeaf normalLeaf f

/-- An operation of the warp, for the tests to change. -/
def op1 : Op where
  id := 9
  instr := .nop
  warp := some 1
  sub := 1
  lanes := 0
  pc := 0
  ctx := 0
  core := 0
  part := 0
  slot := 0
  index := 0
  block := 2
  flag := none
  tick := 0
  wit := 0
  args := []
  phase := 0
  set := []
  pendV := []
  pendS := [4]
  results := []
  status := 0
  out := 0
  err := none
  stage := .queued
  pos := 0
  batch := none
  home := 0
  lost := []
  moved := []

def withOp (p : Op) : State := st (fun y => { y with ops := [p] })

/-- The operation and its warp are there. -/
def mine (p : Op) (s : State) : Prop :=
  s.sys.op? p.id = some p ∧ p.warp = some theWarp.id ∧ s.sys.warp? theWarp.id = some theWarp

/-- A request to the own scratchpad of core 0, or to `key`. -/
def req1 (key : Nat) (kind : ReqKind) : Req :=
  { id := 5, op := 9, origin := .part 0 0, tick := 0, key, size := 4, kind, lanes := [0], va := 0x20000, ctx := 0, bounced := false,
    arrived := false, left := 0 }

def withReq (r : Req) (f : Sys → Sys) : State := st (fun y => f { y with reqs := [r] })

theorem test_the_warp : (st id).sys.warp? 1 = some theWarp ∧ (st id).sys.block? 2 = some theBlock ∧ theWarp.sub? (some 0) = some theSub :=
  ⟨rfl, rfl, rfl⟩

/-! ### Memory traffic -/

/-- The requests of one access are this one alone, and it can be served. -/
def alone (r : Req) (s : State) : Bool :=
  decide (s.sys.reqs.find? (fun q => q.id == r.id) = some r) && r.single && !r.isHeld && decide (s.sys.access r = [r]) && s.sys.ready r &&
    (s.sys.reqFails r).isNone

theorem test_met_Homes : ([ ReqKind.read, .write [1, 2, 3, 4], .atomic .cas false [{ lane := 31, val := 1, cmp := 0 }] ].all
    (fun k => alone (req1 (2 ^ 50) k) (withReq (req1 (2 ^ 50) k) id))) = true := by decide +kernel

/-- A write to those bytes that is not visible yet. -/
def unseen1 (key : Nat) (y : Sys) : Sys := { y with unseen := [{ origin := .host, tick := 0, key, size := 4, op := 0 }] }

theorem test_met_Homes_waits : (withReq (req1 (2 ^ 50) .read) (unseen1 (2 ^ 50))).sys.access (req1 (2 ^ 50) .read) = [req1 (2 ^ 50) .read] ∧
    (withReq (req1 (2 ^ 50) .read) (unseen1 (2 ^ 50))).sys.accepts (req1 (2 ^ 50) .read) = true ∧
    (withReq (req1 (2 ^ 50) .read) (unseen1 (2 ^ 50))).sys.ready (req1 (2 ^ 50) .read) = false := by decide +kernel

theorem test_met_Homes_atomic : (32 = 32 ∨ 32 = 64) ∧ (0xFFFFFFFF#64).toNat < 2 ^ 32 := by decide +kernel

/-- A state with the packet of one request to the data page. -/
def packet1 (k : ReqKind) (f : Sys → Sys) : State := withReq (req1 0x20000 k) f

/-- Its home accepts the packet, and can serve it now or not. -/
def packetReady (s : State) (now : Bool) : Bool :=
  let rs := s.sys.packet 9 2
  !rs.isEmpty && rs.all s.sys.accepts && (ingressOf rs).isNone && rs.all s.sys.ready == now

def moving : Migration :=
  { ctx := 0, vpage := 2, src := 0x20000, dst := 0x70000, pte := normalLeaf, leafKey := 0x46010, phase := .freeze, background := false,
    stale := false }

theorem test_met_Packet_lacks : packetReady (packet1 .read id) true = true ∧
    (packet1 .read id).sys.packetLacks ((packet1 .read id).sys.packet 9 2) ≠ [] := by decide +kernel

def held1 (y : Sys) : Sys := { y with cached := [(0x20000, false)] }

theorem test_met_Packet_held : packetReady (packet1 .read held1) true = true ∧
    (packet1 .read held1).sys.packetLacks ((packet1 .read held1).sys.packet 9 2) = [] := by decide +kernel

theorem test_met_Packet_waits : packetReady (packet1 .read (unseen1 0x20000)) false = true := by decide +kernel

def frozen1 (y : Sys) : Sys := { y with migrations := [moving] }

theorem test_met_Packet_frozen : packetReady (packet1 (.write [0, 0, 0, 0]) frozen1) true = true ∧
    ((packet1 (.write [0, 0, 0, 0]) frozen1).sys.packet 9 2).any (fun r => r.kind.writes && !r.arrived &&
      (packet1 (.write [0, 0, 0, 0]) frozen1).sys.frozenFrame r.key) = true := by decide +kernel

def wants1 : State := st (fun y => { y with wanted := [{ sector := 0x20000, ctx := 0, vpage := 2 }], returned := [0x20040] })

def want1 : Wanted := { sector := 0x20000, ctx := 0, vpage := 2 }

theorem test_met_Sectors :
    (wants1.sys.wanted.filter (fun q => paDie (keyPA q.sector) == 0 && wants1.sys.stackOf q == wants1.sys.stackOf want1)).take 32 ≠ [] ∧
    0x20040 ∈ wants1.sys.returned ∧ paDie (keyPA 0x20040) = 0 ∧ Table.get? wants1.sys.cached 0x20040 = none ∧ 0x20000 < 2 ^ 48 := by
  have h : wants1.sys.wanted = [want1] := rfl
  have d : paDie (keyPA want1.sector) = 0 := by decide +kernel
  refine ⟨?_, by decide +kernel⟩
  simp [h, d]

/-- The host was asked for a sector long ago. -/
def snoop1 : Snoop := { sector := 0x20040, tick := 0, own := false }

def snooped : State := packet1 (.write [0, 0, 0, 0]) (fun y => { y with hostHeld := [0x20000], snooping := [snoop1] })

theorem test_met_Snoops : snooped.sys.reqs.find? (fun q => q.id == 5) = some (req1 0x20000 (.write [0, 0, 0, 0])) ∧
    (sectorsOf 0x20000 4).filter (fun x => snooped.sys.hostHeld.contains x) ≠ [] ∧
    snooped.sys.snooping.find? (fun x => x.sector == 0x20040) = some snoop1 ∧
    snoop1.tick + 250 * bits snooped.sys.ctl.ctocfg 31 16 ≤ snooped.sys.time.now ∧ (List.replicate 64 (0 : Byte)).length = 64 := by
  decide +kernel

def leftAt : Req := { req1 (2 ^ 48) .read with left := 2 ^ 20 - 500000 }

/-- The host was asked for a sector that function 0 had read; a read that came before waits there or not. -/
def asked0 (f : Sys → Sys) : Sys := f (st (fun y => { y with hostHeld := [0x20040], snooping := [snoop1], holder := [(0x20040, 0)] })).sys

theorem test_met_Snoop_data : (asked0 id).readWaits 0x20040 64 0 = false ∧ (asked0 id).ctl.hostFrozen.contains 0 = false ∧
    (asked0 id).permits .hostFn ((asked0 id).hostMask 0) 0x20040 64 true = true ∧ (asked0 id).accessFails 0x20040 64 false = none ∧
    (asked0 (fun y => { y with reading := [{ key := 0x20040, size := 4, tick := y.time.now, who := .op 9 }] })).readWaits 0x20040 64 0 = true ∧
    (asked0 (fun y => { y with ctl := { y.ctl with hostFrozen := [0] } })).ctl.hostFrozen.contains 0 = true := by decide +kernel

def askedReq : Req := { req1 (2 ^ 48) (.asked (.sub 1 (some 0)) none) with left := 2 ^ 20 - 500000 }

theorem test_met_Timeout_asked : (withReq askedReq id).sys.reqs.find? (fun q => q.id == 5) = some askedReq ∧
    (withReq askedReq id).sys.timeout (keyKind (2 ^ 48)) = some 500000 ∧ askedReq.left + 500000 ≤ (withReq askedReq id).sys.time.now ∧
    askedReq.arrived = false ∧ (((withReq askedReq id).sys.warp? 1).bind (fun x => x.sub? (some 0))).isSome = true := by decide +kernel

theorem test_met_Timeout : (withReq leftAt id).sys.reqs.find? (fun q => q.id == 5) = some leftAt ∧
    (withReq leftAt id).sys.timeout (keyKind (2 ^ 48)) = some 500000 ∧
    leftAt.left + 500000 ≤ (withReq leftAt id).sys.time.now ∧ leftAt.isHeld = false ∧ (withReq leftAt id).sys.leaving leftAt = [leftAt] := by
  decide +kernel

def bouncedReq : Req := { req1 0x20000 (.write [0, 0, 0, 0]) with bounced := true }

def bouncedBy (e : Word) (f : Sys → Sys) : State := stLeaf e (fun y => f { y with reqs := [bouncedReq] })

theorem test_met_Bounce : (bouncedBy normalLeaf id).sys.reqs.find? (fun q => q.id == 5) = some bouncedReq ∧ bouncedReq.bounced = true ∧
    walk (bouncedBy normalLeaf id) 0 0x20000 = .leaf 0 normalLeaf ∧ pteSparse normalLeaf = 0 ∧ pteW normalLeaf = true ∧
    (bouncedBy normalLeaf id).sys.frozenFrame 0x20000 = false ∧ (bouncedBy normalLeaf id).sys.opens 0 0x20000 4 true = true ∧
    (bouncedBy normalLeaf frozen1).sys.frozenFrame 0x20000 = true ∧
    walk (bouncedBy 0x8000000000000013 id) 0 0x20000 = .leaf 0 0x8000000000000013 ∧ pteSparse 0x8000000000000013 ≠ 0 ∧
    walk (bouncedBy 0 id) 0 0x20000 = .absent 0 0 ∧ walkQuiet (bouncedBy normalLeaf id) 0 0x20000 = true ∧
    (∀ m ∈ (bouncedBy normalLeaf id).sys.migrations, ¬ (m.ctx = 0 ∧ m.vpage = 2)) ∧
    (∃ m ∈ (bouncedBy normalLeaf frozen1).sys.migrations, m.ctx = 0 ∧ m.vpage = 2) := by decide +kernel

/-- A running copy of one lane, from the data page to the own window. -/
def copyOp : Op := { op1 with
  instr := .cpl cpl1, stage := .running, args := [0, 0x20000, 0, 32], set := [{ vpage := 2, level := 0, pte := 0x20003 }] }

theorem test_met_Copy_moves : mine copyOp (withOp copyOp) ∧
    (match copyOp.copyUnit 0 with
      | some c =>
        let y := (withOp copyOp).sys
        let src := y.opRuns copyOp c.srcLocal c.src c.srcLen
        let dst := y.opRuns copyOp c.dstLocal c.dst c.dstLen
        copyOp.stage == .running && !copyOp.pos.testBit 0 && !y.frozenBy (.copy 0) && y.mayBegin copyOp (.copy 0) &&
          decide (y.satisfied (clusterReader 0) copyOp.wit = .yes) &&
          (match y.pass copyOp (.copy 0) src dst with
            | .ok z => (z.readFails copyOp src).isNone && (z.writeFails copyOp dst).isNone
            | _ => false)
      | none => false) = true := ⟨⟨rfl, rfl, rfl⟩, by decide +kernel⟩

def loadOp (err : Option TrapInfo) : Op :=
  { op1 with instr := .lds lds1, stage := .running, flag := some 11, pendV := [8], err := err }

theorem test_met_Operation_completes : mine (loadOp none) (withOp (loadOp none)) ∧ (withOp (loadOp none)).sys.complete (loadOp none) = true ∧
    (∀ d t, (loadOp none).instr ≠ .cpwait d t) ∧ (loadOp none).batch = none ∧ (loadOp none).err = none :=
  ⟨⟨rfl, rfl, rfl⟩, by decide +kernel, (by intro d t h; cases h), rfl, rfl⟩

def memErr : TrapInfo := { trapOf .memError 0 with reason := .timeout }

theorem test_met_Operation_fails : mine (loadOp (some memErr)) (withOp (loadOp (some memErr))) ∧
    (withOp (loadOp (some memErr))).sys.complete (loadOp (some memErr)) = true ∧ (∀ d t, (loadOp (some memErr)).instr ≠ .cpwait d t) ∧
    (loadOp (some memErr)).err = some memErr ∧ memErr.cause ≠ .impreciseStore ∧ (loadOp (some memErr)).flag = some 11 ∧
    (theWarp.flag 11).err = none ∧ 11 < 12 :=
  ⟨⟨rfl, rfl, rfl⟩, by decide +kernel, by (intro d t h; cases h), rfl, by decide +kernel, rfl, by decide +kernel, by decide +kernel⟩

/-! ### Agents and engines -/

/-- A command with one operand and an Op's other fields as they are. -/
def command (i : Instr) (args : List Word) : Op := { op1 with instr := i, args := args }

/-- The hypotheses of a heap command's service. -/
def heapServed (p : Op) (s : State) : Bool :=
  p.warp.isSome && decide (s.sys.op? p.id = some p) && decide (s.sys.heapDie p = 0) && !(s.sys.die 0).halted && s.sys.mayServe p (.flacon 0) &&
    decide (s.sys.satisfied (dieReader 0) p.wit = .yes)

def hallocOp (n : Word) : Op := command (.halloc 20 3 none true false false) [n]

/-- One free block of class 0 of the die. -/
def block1 (state : HeapState) : HeapBlock := { addr := 0x200000, cls := 0, owner := 0, state, wit := 0, mark := mkWit 2 0 5 }

def heapWith (p : Op) (c : Context) : State := st (fun y => { y with ops := [p], contexts := [(0, c)] })

theorem test_met_Halloc_no_arena : heapServed (hallocOp 1) (heapWith (hallocOp 1) { context0 with arena := none }) = true ∧
    ((heapWith (hallocOp 1) { context0 with arena := none }).sys.context 0).arena = none := by decide +kernel

def badSize (n : Word) : Bool :=
  heapServed (hallocOp n) (heapWith (hallocOp n) context0) && ((heapWith (hallocOp n) context0).sys.context 0).arena.isSome &&
    (n.toNat == 0 || Nat.blt (2 ^ 24) n.toNat)

theorem test_met_Halloc_invalid : badSize 0 = true ∧ badSize 0x1000001 = true := ⟨by decide +kernel, by decide +kernel⟩

def full : Context := { context0 with arena := some (0x200000, 256), heap := [block1 .live] }

theorem test_met_Halloc_exhausted : heapServed (hallocOp 256) (heapWith (hallocOp 256) full) = true ∧
    (full.take 0 (heapClass 256) ((heapWith (hallocOp 256) full).sys.freeAt 0)).isNone = true := ⟨by decide +kernel, rfl⟩

def roomy : Context := { context0 with arena := some (0x200000, 256), heap := [block1 .free] }

/-- Whatever the free value, there is one block to take. -/
theorem pick_one {α : Type} (v : Word) (x : α) (l : List α) (h : l = [x]) : pickFree v l = some x := by
  subst h; simp [pickFree, Nat.mod_one]

theorem roomy_takes (v : Word) : roomy.take 0 (heapClass 1) v = some (block1 .free) := by
  have h : (roomy.heap.filter (fun b => b.cls == heapClass 1 && b.state == .free)).filter (fun b => b.owner == 0) = [block1 .free] := by
    decide +kernel
  simp only [Context.take, pick_one v _ _ h]

theorem test_met_Halloc_takes : heapServed (hallocOp 1) (heapWith (hallocOp 1) roomy) = true ∧
    (∀ v, roomy.take 0 (heapClass 1) v = some (block1 .free)) ∧
    (match engineSet (heapWith (hallocOp 1) roomy) (hallocOp 1) ((hallocOp 1).requester 4 0) (.flacon 0) 0 [] with
      | .go y =>
        (match y.pass (hallocOp 1) (.flacon 0) [] [] with
          | .ok z => (z.writeFails (hallocOp 1) []).isNone
          | _ => false)
      | _ => false) = true :=
  ⟨by decide +kernel, roomy_takes, by decide +kernel⟩

def hfreeOp : Op := command (.hfree 20 3 none false) [0x200000]

theorem test_met_Hfree : heapServed hfreeOp (heapWith hfreeOp full) = true ∧
    full.heap.find? (fun b => b.addr == 0x200000 && b.state == .live) = some (block1 .live) ∧ full.arena ≠ none ∧
    heapServed hfreeOp (heapWith hfreeOp roomy) = true ∧ (∀ b ∈ roomy.heap, b.addr = 0x200000 → b.state ≠ .live) := by decide +kernel

def hqryOp : Op := command (.hqry 20 3 false) [0x2000FF]

theorem test_met_Hqry : heapServed hqryOp (heapWith hqryOp full) = true := by decide +kernel

def freeing : Context := { context0 with heap := [block1 .freeing] }

theorem test_met_Heap_return : ((heapWith hqryOp freeing).sys.context 0).heap.find? (fun b => b.addr == 0x200000 && b.state == .freeing) =
      some (block1 .freeing) ∧ (heapWith hqryOp freeing).sys.settled (dieReader 0) (block1 .freeing).wit = .yes ∧
    (heapWith hqryOp freeing).sys.settled (dieReader 0) (block1 .freeing).mark = .yes := by decide +kernel

/-- A state whose leaf of page 2 is `e`, with the command `p`. -/
def paged (e : Word) (p : Op) (f : Sys → Sys) : State := stLeaf e (fun y => f { y with ops := [p] })

def pcommitOp (stage : Stage) : Op := { command (.pcommit 20 3 none false) [0x20000] with stage := stage }
def pdecommitOp (stage : Stage) (args : List Word) : Op := { command (.pdecommit 20 3 none false false) args with stage := stage }

def pageStarts (s : State) (p : Op) (e : Word) : Bool :=
  decide (s.sys.op? p.id = some p) && (s.sys.wordTwo p).isNone && decide (p.args = [0x20000]) && p.waiting && s.sys.pageMay p && walkQuiet s 0 0x20000 &&
    decide (s.sys.satisfied controlReader p.wit = .yes) &&
    (match pageLeaf p 0x20000 s with | .leaf k x => k == 0x46010 && x == e | _ => false)

def reserveLeaf : Word := 0x8000000000000013

theorem test_met_Commit_already : pageStarts (paged normalLeaf (pcommitOp .queued) id) (pcommitOp .queued) normalLeaf = true ∧
    pteSparse normalLeaf = 0 := by decide +kernel

/-- The control die may make these accesses for context 0. -/
def may (s : State) (l : List (Nat × Nat × Bool)) : Bool :=
  match s.sys.ctlFate 0 l with
  | .go _ => true
  | _ => false

/-- Whether the page's pool is as `q` says, and it and other places may be accessed. -/
def poolIs (s : State) (l : List (Nat × Nat × Bool)) (q : Pool → Bool) : Bool :=
  match s.pool 0 with
  | some p => may s [(p.key, 24, false)] && may s l && q p
  | none => false

theorem test_met_Commit_takes_a_frame :
    pageStarts (paged reserveLeaf (pcommitOp .queued) id) (pcommitOp .queued) reserveLeaf = true ∧ pteSparse reserveLeaf ≠ 0 ∧
    poolIs (paged reserveLeaf (pcommitOp .queued) id) [(0x51000, 8, false)] (fun q => q.count == 1 && q.frames == 0x51000) = true ∧
    may (paged reserveLeaf (pcommitOp .queued) id) [(0x50000, 4, true), (0x90000, 65536, true), (0x46010, 8, true)] = true := by
  decide +kernel

/-- The context without a pool. -/
def poolless (y : Sys) : Sys := { y with contexts := [(0, { context0 with desc := context0.desc.set 1 0 })] }

/-- The context with an empty pool of no place at 0x52000. -/
def emptyPool (y : Sys) : Sys := { y with contexts := [(0, { context0 with desc := context0.desc.set 1 0x52000 })] }

theorem test_met_Commit_no_pool : pageStarts (paged reserveLeaf (pcommitOp .queued) poolless) (pcommitOp .queued) reserveLeaf = true ∧
    ((paged reserveLeaf (pcommitOp .queued) poolless).pool 0).isNone = true ∧
    pageStarts (paged reserveLeaf (pcommitOp .queued) emptyPool) (pcommitOp .queued) reserveLeaf = true ∧
    poolIs (paged reserveLeaf (pcommitOp .queued) emptyPool) [] (fun q => q.count == 0) = true := by decide +kernel

theorem test_met_Decommit_starts :
    pageStarts (paged reserveLeaf (pdecommitOp .queued [0x20000]) id) (pdecommitOp .queued [0x20000]) reserveLeaf = true ∧
    pteSparse reserveLeaf = 1 ∧
    pageStarts (paged 0x8000000000000023 (pdecommitOp .queued [0x20000]) id) (pdecommitOp .queued [0x20000]) 0x8000000000000023 = true ∧
    pteSparse 0x8000000000000023 = 2 ∧
    pageStarts (paged normalLeaf (pdecommitOp .queued [0x20000]) poolless) (pdecommitOp .queued [0x20000]) normalLeaf = true ∧
    pageStarts (paged normalLeaf (pdecommitOp .queued [0x20000]) id) (pdecommitOp .queued [0x20000]) normalLeaf = true ∧
    may (paged reserveLeaf (pdecommitOp .queued [0x20000]) id) [(0x46010, 8, true)] = true ∧
    poolIs (paged normalLeaf (pdecommitOp .queued [0x20000]) id) [(0x50000, 4, true), (0x51008, 8, true), (0x46010, 8, true)]
      (fun q => q.count == 1 && q.cap == 2) = true ∧
    poolIs (paged normalLeaf (pdecommitOp .queued [0x20000]) emptyPool) [] (fun q => q.cap ≤ q.count) = true := by decide +kernel

theorem test_met_Page_commands_end :
    (paged normalLeaf (pcommitOp .running) id).sys.op? 9 = some (pcommitOp .running) ∧
    (paged normalLeaf (pcommitOp .running) id).sys.pageDrained 0 2 = true ∧
    (paged reserveLeaf (pdecommitOp .running [0x20000]) id).sys.pageDrained 0 2 = true ∧
    (paged reserveLeaf (pdecommitOp .running [0x20000, 0x46010, normalLeaf]) id).sys.pageDrained 0 2 = true ∧
    poolIs (paged reserveLeaf (pdecommitOp .running [0x20000, 0x46010, normalLeaf]) id)
      [(0x50000, 24, false), (0x50000, 4, true), (0x51008, 8, true), (0x46010, 8, false), (0x46010, 8, true)] (fun _ => true) = true := by decide +kernel

/-- The host's commit of the page, and as it stands at its end. -/
def hostCommit : Op := { command (.pcommit 0 0 none false) [0x20000] with warp := none }
def hostCommitted : Op := { hostCommit with stage := .done, results := [(codeS 0, 4), (codeS 1, 0)], status := 4 }

theorem test_met_Host_commit : pageStarts (paged normalLeaf hostCommit id) hostCommit normalLeaf = true ∧
    (paged normalLeaf hostCommitted id).sys.op? 9 = some hostCommitted ∧ (paged normalLeaf hostCommitted id).sys.taskRecord hostCommitted = none ∧
    (paged normalLeaf hostCommitted id).sys.drained 9 = true ∧ (paged normalLeaf hostCommitted id).sys.ctl.held = false := by decide +kernel

/-! ### Counters and posts -/

theorem test_met_Counter_words : dsigFate 0x8000000000000001 = .writes 0x8000000000000000 true ∧ dsigFate 0x8000000000000000 = .underflow ∧
    dsigFate 0x80000000 = .underflow ∧ dpubFate 0xFFFFFFFF 1 = .writes 0x8000000000000000 true ∧ dpubFate 0x8000000000000000 0 = .already ∧
    dpubFate 0 0x80000000 = .underflow ∧ dpubFate 0xFFFFFFFF 0 = .underflow ∧ (-(2 ^ 31 : Int) < (1 : Int)) := by decide +kernel

/-- An operation on the counter at the data page. -/
def counterOp (i : Instr) (args : List Word) : Op := { op1 with instr := i, args := args, set := [{ vpage := 2, level := 0, pte := 0x20003 }] }

def counterFree (s : State) (p : Op) : Bool :=
  decide (s.sys.op? p.id = some p) && p.err.isNone && p.lost.isEmpty && s.sys.taskMay p && !s.sys.readWaits 0x20000 128 p.id && !s.sys.postHeld p.id && s.sys.counterKey p == some 0x20000 &&
    s.sys.quiet 0x20000 128 && !s.sys.frozenFrame 0x20000 && !s.sys.recalling 0x20000 128 && (s.sys.accessFails 0x20000 128 true).isNone &&
    !s.sys.counterBehind p

/-- The state with that operation, the counter's word and the post record of key 1. -/
def counted (p : Op) (w : Word) : State :=
  { mem := ((tables normalLeaf).putAll 0x20000 (leBytes 8 w.toNat)).putAll 0x20040 (leBytes 8 8)
    sys := { machine with ops := [p], bins := [bins1 bin1] } }

def dsigOp : Op := counterOp (.dsig 20 none false false false) [0x20000]
def dpubOp : Op := counterOp (.dpub 10 20 24 none false false) [0x20000, 1, 8, 0, 0, 0, 0, 0, 0, 0]

theorem test_met_Counter_free : counterFree (counted dsigOp 5) dsigOp = true ∧ counterFree (counted dpubOp 5) dpubOp = true ∧
    (counted dsigOp 5).mem.word 0x20000 = 5 ∧ counterFree (counted dsigOp 0x8000000000000001) dsigOp = true ∧
    counterFree (counted dpubOp 0x8000000000000000) dpubOp = true :=
  ⟨by decide +kernel, by decide +kernel, by decide +kernel, by decide +kernel, by decide +kernel⟩

theorem test_met_Counter_posts : mine dsigOp (counted dsigOp 0x8000000000000001) ∧
    (counted dsigOp 0x8000000000000001).sys.ticketAt 0 0x20000 = none ∧
    (counted dsigOp 0x8000000000000001).sys.recordBin 0 (paDie (keyPA 0x20000))
      ((counted dsigOp 0x8000000000000001).mem.words (0x20000 + 64) 8) = some (0, 0) ∧
    (counted dsigOp 0x8000000000000001).sys.bin? 0 0 0 = some bin1 ∧ bin1.room = true ∧ (dpubOp.args.drop 2).length = 8 :=
  ⟨⟨rfl, rfl, rfl⟩, by decide +kernel, by decide +kernel, by decide +kernel, by decide +kernel, by decide +kernel⟩

def endSignal : Op := { counterOp (.dsig 0 none true false false) [0x20000, 0] with warp := none }

theorem test_met_Task_end_signal : counterFree (counted endSignal 5) endSignal = true ∧ endSignal.warp = none ∧ endSignal.set ≠ [] ∧
    (∀ v, endSignal.stage ≠ .parked v) ∧ dsigFate 5 = .writes 4 false := by
  refine ⟨by decide +kernel, rfl, by decide +kernel, ?_, by decide +kernel⟩; intro v h; cases h

def postOp : Op := { op1 with instr := .qpost (some 40) 8 none false false, args := [8, 0, 0, 0, 0, 0, 0, 0, 0, 0] }
def reserved1 : Bin := { bin1 with reserved := 1 }
def posted : State := st (fun y => { y with ops := [postOp], bins := [bins1 reserved1] })

theorem test_met_Qpost_accept : mine postOp posted ∧ postOp.err = none ∧ posted.sys.taskMay postOp = true ∧
    postOp.args.drop 8 = [BitVec.ofNat 64 0, BitVec.ofNat 64 0] ∧ posted.sys.bin? 0 0 0 = some reserved1 ∧
    posted.sys.taskBehind postOp (fun q => q.isPost && q.args.drop 8 == postOp.args.drop 8) = false :=
  ⟨⟨rfl, rfl, rfl⟩, rfl, by decide +kernel, by decide +kernel, by decide +kernel, by decide +kernel⟩

def waitingPost : WaitingPost := { ctx := 0, die := 0, bin := 0, record := [8, 0, 0, 0, 0, 0, 0, 0], addr := none, op := none }
def waitingState : State := st (fun y => { y with bins := [bins1 bin1], posts := [waitingPost] })

theorem test_met_Bin_post : waitingState.sys.posts.find? (fun z => z.ctx == 0 && z.die == 0 && z.bin == 0) = some waitingPost ∧
    waitingState.sys.bin? 0 0 0 = some bin1 ∧ bin1.room = true ∧ (waitingState.sys.context 0).frozen = false ∧
    (∀ p, waitingPost.op.bind waitingState.sys.op? = some p → p.err = none) := by
  refine ⟨by decide +kernel, by decide +kernel, by decide +kernel, by decide +kernel, ?_⟩; intro p h; cases h

/-- A launch of the queue `q`, whose ring of two slots lies at 0x60000. -/
def launchOp (q : Word) : Op := { counterOp (.launch 20 21 22 none false) [0x20000, q] with pendS := [20] }
def queue1 : Queue := { cfg := 0x8100000000060000, head := 0, tail := 0 }
def queued (p : Op) : State := st (fun y => { y with ops := [p], ctl := { y.ctl with queues := [(1, queue1)] } })

def launchReady (q : Word) : Bool :=
  let y := (queued (launchOp q)).sys
  decide (y.op? 9 = some (launchOp q)) && (launchOp q).err.isNone && y.taskMay (launchOp q) &&
    y.runsQuiet (y.opRuns (launchOp q) false 0x20000 256) && (y.runsFail (y.opRuns (launchOp q) false 0x20000 256)).isNone

theorem test_met_Launch_enqueue : launchReady 1 = true ∧ launchReady 4096 = true := ⟨by decide +kernel, by decide +kernel⟩

theorem test_met_Launch_room : 1 < 4096 ∧ 2 ^ bits queue1.cfg 59 56 ≠ 1 ∧ bits queue1.cfg 11 0 = op1.ctx ∧
    may (queued (launchOp 1)) [(0x60000, 16, false)] = true ∧ may (queued (launchOp 1)) [(0x60100, 256, true), (0x60000, 4, true)] = true ∧
    ((queued (launchOp 1)).mem.value 0x60000 4 + 2 ^ 32 - (queued (launchOp 1)).mem.value 0x60008 4) % 2 ^ 32 < 2 := by decide +kernel

/-! ### Engine commands -/

def doneOp (i : Instr) : Op := { op1 with instr := i, stage := .done, results := [(codeS 20, 0)] }

theorem test_met_Engine_command_spent : ∀ i ∈ [ Instr.halloc 20 3 none true false false, .lmul 20 4 5 6 false, .accrun 20 4 5 6 false ],
    (withOp (doneOp i)).sys.op? 9 = some (doneOp i) ∧ (doneOp i).stage = .done ∧ (withOp (doneOp i)).sys.drained 9 = true ∧
    (withOp (doneOp i)).sys.frozenBy (doneOp i).engineOrigin = false ∧ (withOp (doneOp i)).sys.ctl.held = false := by decide +kernel

theorem test_met_Engine_queries : (withOp (command (.accstat 20 false) [])).sys.mayServe (command (.accstat 20 false) []) (.accord 0) = true ∧
    ((withOp (command (.qinfo 20 3 false) [1])).sys.context 0).frozen = false ∧ (withOp (command (.qinfo 20 3 false) [1])).sys.ctl.held = false := by
  decide +kernel

def pqryOp (va : Word) : Op := command (.pqry 20 3 false) [va]

theorem test_met_Pqry : (pqryOp 0x20000).waiting = true ∧ walkQuiet (withOp (pqryOp 0x20000)) 0 0x20000 = true ∧
    walk (withOp (pqryOp 0x20000)) 0 0x20000 = .leaf 0 normalLeaf ∧ walk (withOp (pqryOp 0x10000)) 0 0x10000 = .absent 0 0 ∧
    walk (paged 0x8000000000020033 (pqryOp 0x20000) id) 0 0x20000 = .malformed 0 0x8000000000020033 := by decide +kernel

/-- The block of an engine task with this record, and its command. -/
def taskState (r : List Word) (stage : Stage) : State :=
  st (fun y => { y with
    ops := [{ command (.lmul 0 0 0 0 false) [] with warp := none, stage := stage }]
    blocks := [{ theBlock with job := .task 0 0 1 r }] })

def taskDone (succ : Word) : Bool :=
  let y := (taskState [2, succ, 0, 0, 0, 0, 0, 0] .done).sys
  y.ops.all (fun p => decide (y.op? p.id = some p) && p.warp.isNone && decide (y.taskRecord p = some [2, succ, 0, 0, 0, 0, 0, 0]) &&
    (y.wordTwo p).isNone && p.stage == .done && y.drained p.id && p.taskOk && (y.block? p.block).isSome)

theorem test_met_Task_command : taskDone 0 = true ∧ taskDone 0x20000 = true := ⟨by decide +kernel, by decide +kernel⟩

theorem test_met_Command_replay : (withOp { op1 with stage := .resumed }).sys.op? 9 = some { op1 with stage := .resumed } := by decide +kernel

/-! ### Big numbers, tiles, branches and divergence -/

def okH {α : Type} : Except Hold α → Bool
  | .ok _ => true
  | .error _ => false

/-- The warp with a big number in a register. -/
def big (r : BitVec 8) (v : Int) (w : Warp) : Warp :=
  match w.putBig r v with
  | .ok x => x
  | .error _ => w

theorem test_met_Big_values : ∃ e, Ready (.badd 4 (.v 5) (.v 6)) (atWith (.badd 4 (.v 5) (.v 6)) (fun w => big 5 (2 ^ 1024 - 1) (big 6 1 w))) e ∧
    (okH (e.checkBig ([.v 5] ++ (BigB.v 6).asSource) false) && e.big (.v 5) 0 + e.bigB (.v 5) (.v 6) == 2 ^ 1024) = true :=
  ready_of (by decide +kernel)

theorem test_met_Big_shift : ∃ e, Ready (.bshl 4 (.v 5) (.imm 1056)) (atWith (.bshl 4 (.v 5) (.imm 1056)) (big 5 (-1))) e ∧
    (okH (e.checkBig [.v 5] false) && e.big (.v 5) 0 == -1 && (e.uni (.imm 1056)).toNat == 1056) = true := ready_of (by decide +kernel)

theorem test_met_Big_divisor : ∃ e, Ready (.bdivs 4 (.v 5) 2 10 true) (atWith (.bdivs 4 (.v 5) 2 10 true) (fun w => (big 5 7 w).setS 2 (-2))) e ∧
    (okH (e.checkBig [.v 5] false) && toI true 32 (e.w.s 2) == -2) = true := ready_of (by decide +kernel)

theorem test_met_Big_two_s_complement : ∃ e, Ready (.bcvtTotc 4 (.v 5)) (atWith (.bcvtTotc 4 (.v 5)) (big 5 (2 ^ 1023))) e ∧
    (okH (e.checkBig [.v 5] false) && e.big (.v 5) 0 == 2 ^ 1023) = true := ready_of (by decide +kernel)

theorem test_met_Big_from_negative : ∃ e, Ready (.bcvtFromtc 4 (.v 5)) (atWith (.bcvtFromtc 4 (.v 5)) (big 5 (-1))) e ∧
    (okH (e.checkBig [.v 5] false) && decide (e.big (.v 5) 0 < 0)) = true := ready_of (by decide +kernel)

theorem test_met_Big_float_flag : ∃ e, Ready (.bcvtF64 4 (.v 5))
      (atWith (.bcvtF64 4 (.v 5)) (fun w => { big 5 (2 ^ 53 + 1) w with fpctl := 0x1F0000 })) e ∧
    (okH (e.checkBig [.v 5] false) && (f64Fmt.round (RSel.mode .dyn e.w.fpctl) false false (2 ^ 53 + 1) 0).2 &&& e.w.fpctl.extractLsb' 16 5 != 0) =
      true := ready_of (by decide +kernel)

/-- A limb array at the start of the own window, with this capacity and length. -/
def limbArray (i : Instr) (len cap : Nat) : State :=
  let s := atWith i (big 4 5)
  { s with mem := s.mem.putAll (scratchKey 0 0) (leBytes 4 len ++ leBytes 4 0 ++ leBytes 4 cap ++ leBytes 4 0) }

def headOf (e : Env) : LimbHeader :=
  match e.arrayCheck 0 16 with
  | .ok l => (match e.readRuns l allLanes with | .ok bs => limbHeader bs | .error _ => limbHeader [])
  | .error _ => limbHeader []

/-- The capacity that a spill reads of the array. -/
def capOf (e : Env) : Nat :=
  match e.readRuns (localRuns (e.y.windows e.k (some e.w)) 8 4) allLanes with
  | .ok bs => leValue bs
  | .error _ => 99

theorem test_met_Spill : ∃ e, Ready (.bspill 4 5 (some 6)) (limbArray (.bspill 4 5 (some 6)) 0 1) e ∧
    (okH (e.checkBig [.v 4] true) && okH (e.arrayCheck 0 16) && okH (e.arrayCheck 0 20) && capOf e == 1) = true := ready_of (by decide +kernel)

theorem test_met_Spill_no_room : ∃ e, Ready (.bspill 4 5 none) (limbArray (.bspill 4 5 none) 0 0) e ∧
    (okH (e.checkBig [.v 4] true) && okH (e.arrayCheck 0 16) && okH (e.arrayCheck 0 20) && capOf e == 0) = true := ready_of (by decide +kernel)

theorem test_met_Fill : ∃ e, Ready (.bfill 4 5 none) (limbArray (.bfill 4 5 none) 1 1) e ∧
    (okH (e.witnessIn 0) && !(headOf e).bad && (headOf e).len == 1) = true := ready_of (by decide +kernel)

theorem test_met_Fill_malformed : ∃ e, Ready (.bfill 4 5 none) (limbArray (.bfill 4 5 none) 2 1) e ∧
    (okH (e.witnessIn 0) && (headOf e).bad) = true := ready_of (by decide +kernel)

theorem test_met_Fill_long : ∃ e, Ready (.bfill 4 5 none) (limbArray (.bfill 4 5 none) 34 40) e ∧
    (okH (e.witnessIn 0) && !(headOf e).bad && (headOf e).len == 34) = true := ready_of (by decide +kernel)

/-- The tiles are the block's, nothing owns them, and none is bad. -/
def tilesFree (e : Env) (l : List Nat) : Bool :=
  e.k.badAcc.isEmpty && l.all (fun z => decide (z < e.k.zCount) && decide (z < 256) && !e.y.tileOwned e.k z)

theorem test_met_Tiles : ∀ i ∈ [ Instr.bconv 0 (.v 2) (.v 3) 5 true, .cres 10 0 6 none, .mma 0 (.v 16) (.v 24) 0, .zclr 0 1, .zld 0 (.v 4) (.imm 31),
    .zst 4 0 (.imm 0), .zadd 0 1 true, .zcvt 40 0 5 none .f16 true ], ∃ e, Ready i (at_ i) e ∧
      (tilesFree e [0, 1] && okH (e.checkBig [.v 2, .v 3] false) && okH (e.groupCheck []) && decide (e.w.fmt.toNat % 8 ≤ 4) &&
        decide (32 ≤ e.w.budget)) = true := by
  intro i hi
  simp only [List.mem_cons, List.not_mem_nil, or_false] at hi
  rcases hi with rfl | rfl | rfl | rfl | rfl | rfl | rfl | rfl <;> exact ready_of (by decide +kernel)

/-- The block with one element of tile 0, row 0. -/
def accum (v : BitVec 128) (y : Sys) : Sys := { y with blocks := y.blocks.map (fun k => { k with acc := Table.set k.acc 0 v }) }

theorem test_met_Row_carries : ∃ e, Ready (.cres 10 0 6 (some 7)) (at_ (.cres 10 0 6 (some 7))) e ∧ (tilesFree e [0] && e.k.accAt 0 == 0) = true :=
  ready_of (by decide +kernel)

theorem test_met_Row_carry_out : ∃ e, Ready (.cres 10 0 6 (some 7)) (atSys (.cres 10 0 6 (some 7)) (fun y =>
      { y with blocks := y.blocks.map (fun k => { k with acc := Table.set k.acc 31 (2 ^ 40) }) })) e ∧
    (tilesFree e [0] && (((List.range 32).map (fun j => (e.k.accAt j).toInt * 2 ^ (32 * j))).sum.fdiv (2 ^ 1024) == 2 ^ 8)) = true :=
  ready_of (by decide +kernel)

/-- A grid of one block of four warps, whose warps 0 to 3 are a quad of cohort 0. -/
def grid1 : Grid :=
  { launch := 1, ctx := 0, slotPA := 0x60100, lpb := Vector.replicate 32 0, binTable := [], prio := 1, roles := [], cohorts := (Vector.replicate 256 0).set 0 0xC00000000000000F,
    ticketKey := 0x60200, state := .running, judged := true, exhausted := true, installs := [], claims := [], assigned := [(0, 0)], ended := [],
    raised := [], accept := 0 }

def ofGrid (k : Block) : Block := { k with job := .grid 1 0, launch := 1 }

def gridded (y : Sys) : Sys := { y with grids := [grid1], blocks := y.blocks.map ofGrid }

def mmq1 : Instr := .mmq 0 (.v 8) (.v 16) 0

theorem test_met_Mmq_arrives : ∃ e, Ready mmq1 (atSys mmq1 gridded) e ∧
    (tilesFree e [0] && (e.y.quad e.k 0 == some [0, 1, 2, 3]) && decide (e.w.index = 0)) = true := ready_of (by decide +kernel)

/-- The state with headers before and behind the word. -/
def headed (s : State) : State :=
  let h := leBytes 8 0x7F0031F480000000
  { s with mem := (((s.mem.putAll (mainKey 0 0x10000) h).putAll (mainKey 0 0x10010) h).putAll (mainKey 0 0x10018) h) }

def branches : List Instr := [ .bra 1, .brs 5 true 1, .brv 5 true 1, .brz none (-1), .call 3 1, .loop 3 2 ]

theorem test_met_Branch_targets : ∀ i ∈ branches, ∃ e, Ready i (headed (at_ i)) e ∧
    (okH (e.target ((e.b.pc.toNat : Int) + 8) false) && okH (e.target ((e.b.pc.toNat : Int) - 8) false)) = true := by
  intro i hi
  simp only [branches, List.mem_cons, List.not_mem_nil, or_false] at hi
  rcases hi with rfl | rfl | rfl | rfl | rfl | rfl <;> exact ready_of (by decide +kernel)

theorem test_met_Call_guarded : ∃ e, Ready (.call 3 1) (headed (atSys (.call 3 1) (fun y => { y with ops := [{ op1 with flag := some 0, pendS := [3] }] }))) e ∧
    (e.guard?.isSome && okH (e.target ((e.b.pc.toNat : Int) + 8) false)) = true := ready_of (by decide +kernel)

theorem test_met_Jump_targets : ∀ i ∈ [ Instr.ret 3, .jmpi 3 (-1) ], ∃ e, Ready i (headed (atWith i (fun w => w.setS 3 0x10018))) e ∧
    (okH (e.target (e.w.s 3).toNat true) && okH (e.target ((e.w.s 3).toNat - 8) true)) = true := by
  intro i hi
  simp only [List.mem_cons, List.not_mem_nil, or_false] at hi
  rcases hi with rfl | rfl <;> exact ready_of (by decide +kernel)

/-- V5 with this value in lane 0, zero elsewhere. -/
def lane0 (w : Warp) : Warp := { w with vregs := w.vregs.set 5 (Vector.ofFn (fun i : Fin 32 => if i.val = 0 then 1 else 0)) }

theorem test_met_Brv_votes_differ : ∃ e, Ready (.brv 5 false 1) (atWith (.brv 5 false 1) lane0) e ∧
    (e.w.vl 5 0 != 0 && e.w.vl 5 1 == 0 && e.b.active 0 && e.b.active 1) = true := ready_of (by decide +kernel)

def bsplit5 (t : Word) : State := headed (atWith (.bsplit (.s 5) 1) (fun w => w.setS 5 t))

/-- The votes of the lanes, and whether the target passes its checks. -/
def votesAre (t : LaneMask) (e : Env) : Bool :=
  (e.w.s 5).setWidth 32 == t && e.b.exec == allLanes && okH (e.target ((e.b.pc.toNat : Int) + 8) false)

theorem test_met_Bsplit_votes : (∃ e, Ready (.bsplit (.s 5) 1) (bsplit5 0) e ∧ votesAre 0 e = true) ∧
    (∃ e, Ready (.bsplit (.s 5) 1) (bsplit5 0xFFFFFFFF) e ∧ votesAre 0xFFFFFFFF e = true) ∧
    (∃ e, Ready (.bsplit (.s 5) 1) (bsplit5 1) e ∧ votesAre 1 e = true) ∧
    (∃ e, Ready (.bsplit (.s 5) 1) (bsplit5 0xF) e ∧ (votesAre 0xF e && e.w.splits.isEmpty) = true) :=
  ⟨ready_of (by decide +kernel), ready_of (by decide +kernel), ready_of (by decide +kernel), ready_of (by decide +kernel)⟩

def framed (i : Instr) (f : List Frame) : State :=
  atWith i (fun w => { w with subs := w.subs.map (fun b => { b with frames := f }) })

def frameForms : List Frame :=
  [.serial allLanes allLanes (some (0x10010, 1)), .serial allLanes allLanes none, .split 0 true (some 1), .split 0 false none]

theorem test_met_Join_frames : ∀ f ∈ frameForms, ∃ e, Ready .join (framed .join [f]) e ∧ decide (e.b.frames = [f]) = true := by
  intro f hf
  simp only [frameForms, List.mem_cons, List.not_mem_nil, or_false] at hf
  rcases hf with rfl | rfl | rfl | rfl <;> exact ready_of (by decide +kernel)

/-- A second sub-warp, which waits at the JOIN of entry 0. -/
def sibling (b : Sub) : Sub := { b with id := 7, wait := .join 0, exec := 0xFFFF, perm := 0xFFFF, lset := 0xFFFF, frames := [.split 0 false none] }

def twoSubs (i : Instr) : State := atWith i (fun w => { w with
  splits := [0]
  subs := w.subs.flatMap (fun b => [{ b with exec := 0xFFFF0000, perm := 0xFFFF0000, lset := 0xFFFF0000, frames := [.split 0 true none] }, sibling b]) })

theorem test_met_Join_sibling : ∃ e, Ready .join (twoSubs .join) e ∧
    ((e.w.waiting 0 e.b.id).isSome && decide (e.b.frames = [.split 0 true none])) = true := ready_of (by decide +kernel)

theorem test_met_Exit_sibling : ∃ e, Ready .exit (twoSubs .exit) e ∧
    (e.o.isSome && decide (e.w.subs.length = 2) && decide (e.b.frames = [.split 0 true none]) && e.w.handler.isNone) = true :=
  ready_of (by decide +kernel)

theorem test_met_Exit : ∃ e, Ready .exit (at_ .exit) e ∧ (e.o.isSome && e.b.frames.isEmpty && decide (e.w.subs = [e.b])) = true :=
  ready_of (by decide +kernel)

theorem test_met_Exit_pending_path : ∃ e, Ready .exit (framed .exit [.serial allLanes allLanes (some (0x10010, 1))]) e ∧ e.o.isSome = true :=
  ready_of (by decide +kernel)

/-- The access slice of the warp stands at the word. -/
def sliced (i : Instr) : State :=
  let s := at_ i
  { s with sys := { s.sys with cur := some (1, none), warps := [codeWarp 1 2 false true] } }

theorem test_met_Exit_of_the_access_slice : ∃ e, Ready .exit (sliced .exit) e ∧ decide (e.o = none) = true := ready_of (by decide +kernel)

/-! ### System words -/

def handler1 : Handler :=
  { sub := 0, kin := [], cause := .align, shadow := allLanes, epc := 0x10008, header := 0, epcWritten := false, entered := true, cycle := none, pending := [], queued := [] }

def inHandler (h : Handler) (i : Instr) : State := atWith i (fun w => { w with handler := some h, cause := h.cause.bit })

theorem test_met_Handler_registers : ∀ i ∈ [ Instr.swr .epc (.imm 8), .swr .tval (.imm 0), .swr .tlanes (.imm 1), .swr .tinfo (.imm 1), .swr .cause (.imm 0) ],
    ∃ e, Ready i (inHandler handler1 i) e ∧ (decide (e.w.handler = some handler1) && handler1.has e.b.id) = true := by
  intro i hi
  simp only [List.mem_cons, List.not_mem_nil, or_false] at hi
  rcases hi with rfl | rfl | rfl | rfl | rfl <;> exact ready_of (by decide +kernel)

theorem test_met_Plain_special_registers : ∀ i ∈ [ Instr.swr .exec (.imm 1), .swr .fmt (.imm 3), .swr .fpctl (.imm 3), .swr .nttth (.imm 0),
    .swr .phase (.imm 63), .swr .hstat (.imm 255), .swr .nbv (.imm 1), .swr .nbv (.imm 0) ], ∃ e, Ready i (at_ i) e :=
  ready_all (by decide +kernel)

theorem test_met_Tret_returns : ∃ e, Ready .tret (inHandler handler1 .tret) e ∧
    (decide (e.w.handler = some handler1) && handler1.has e.b.id && decide (e.o = some e.b.id)) = true := ready_of (by decide +kernel)

theorem test_met_Tret_pending : ∃ e, Ready .tret (inHandler { handler1 with pending := [trapOf .fpx 0] } .tret) e ∧
    (decide (e.w.handler = some { handler1 with pending := [trapOf .fpx 0] }) && decide (e.o = some e.b.id)) = true := ready_of (by decide +kernel)

theorem test_met_Tret_outside : ∃ e, Ready .tret (at_ .tret) e ∧ e.w.handler.isNone = true := ready_of (by decide +kernel)

theorem test_met_Bkpt_claimed : ∃ e, Ready (.bkpt 3) (atSys (.bkpt 3) (fun y => { y with contexts := [(0, { y.context 0 with claimed := true })] })) e ∧
    (e.y.context e.k.ctx).claimed = true := ready_of (by decide +kernel)

theorem test_met_Phint : ∃ e, Ready (.phint 1) (atSys (.phint 1) (fun y => { y with preempts := [{ unit := .context 0, cycle := 0 }] })) e ∧
    (e.y.preempting e.k).isSome = true := ready_of (by decide +kernel)

/-! ### Streams, barriers, signals and reductions -/

theorem test_met_Streams_end : ∃ e, Ready (.strmend 0xF) (at_ (.strmend 0xF)) e ∧
    (match e.w.access with | some z => z.jobs.toList.all (fun l => l.isEmpty) | none => false) = true := ready_of (by decide +kernel)

/-- A stream of one element of the own window. -/
def stream1 : Stream :=
  { q := 1, base := 0, desc := 0x400000000, strides := 4, sz := .w32, sext := false, locl := true, pos := 0, high := none,
    pc := 0x10008, parked := none }

def withJob (j : QJob) (w : Warp) : Warp :=
  { w with access := w.access.map (fun a => { a with jobs := a.jobs.set 1 [j] }) }

theorem test_met_Streams_wait : ∃ e, Ready (.strmend 2) (atWith (.strmend 2) (withJob (.stream stream1))) e ∧
    (match e.w.access with | some z => decide (QJob.stream stream1 ∈ z.jobs[1]?.getD []) | none => false) = true := ready_of (by decide +kernel)

theorem test_met_Stream_behind_another : ∃ e, Ready (.strm 1 4 5 6 .w32 false false)
      (atWith (.strm 1 4 5 6 .w32 false false) (withJob (.stream stream1))) e ∧
    (match e.w.access with | some z => decide (QJob.stream stream1 ∈ z.jobs[1]?.getD []) | none => false) = true := ready_of (by decide +kernel)

def entry1 : QEntry := .data zeroLanes

theorem test_met_Qdisc_marker : ∃ e, Ready (.qdisc 4 1) (atWith (.qdisc 4 1) (fun w => w.setQueue 1 [entry1, .marker 7, entry1])) e ∧
    decide (e.w.queue 1 = [entry1] ++ .marker 7 :: [entry1]) = true := ready_of (by decide +kernel)

def endedSlice (w : Warp) : Warp := { codeWarp w.id w.block false true with subs := w.subs, access := (codeWarp w.id w.block false true).access.map (fun a => { a with ended := true }) }

theorem test_met_Qdisc_ended : ∃ e, Ready (.qdisc 4 1) (atWith (.qdisc 4 1) (fun w => (endedSlice w).setQueue 1 [entry1])) e ∧
    (decide (e.w.queue 1 = [entry1]) && (e.w.access.map (·.ended)) == some true) = true := ready_of (by decide +kernel)

def bar0 : BarOp := ⟨none, some 21, none, 1, .blk, true⟩
def barr0 : BarOp := { bar0 with settle := false }

theorem test_met_Barrier_arrives : ∀ i ∈ [ Instr.bar bar0, .bararr barr0 ], ∃ e, Ready i (at_ i) e ∧
    (decide (e.b.exec = allLanes) && !witBad e.y.clk (e.optS bar0.w) && e.usable .blk 1 && (e.w.barSlot (e.barKey .blk 1)).isNone) = true := by
  intro i hi
  simp only [List.mem_cons, List.not_mem_nil, or_false] at hi
  rcases hi with rfl | rfl <;> exact ready_of (by decide +kernel)

/-- The warp has a slot at barrier 1 of its block. -/
def barAt (i : Instr) (r : BarResult) : State :=
  match env? i (at_ i) with
  | some e => atWith i (fun w => { w with bars := [{ key := e.barKey .blk 1, arrived := 1, result := r }] })
  | none => at_ i

theorem test_met_Barrier_slots : ∀ r ∈ [BarResult.open_, .spent, .done 0, .done 5], ∃ e, Ready (.barwt none 1 .blk true) (barAt (.barwt none 1 .blk true) r) e ∧
    (((e.w.barSlot (e.barKey .blk 1)).map (fun z => (z.result, z.arrived))) == some (r, 1)) = true := by
  intro r hr
  simp only [List.mem_cons, List.not_mem_nil, or_false] at hr
  rcases hr with rfl | rfl | rfl | rfl <;> exact ready_of (by decide +kernel)

theorem test_met_Barrier_second_arrival : ∃ e, Ready (.bar bar0) (barAt (.bar bar0) .open_) e ∧
    ((e.w.barSlot (e.barKey .blk 1)).isSome && e.usable .blk 1) = true := ready_of (by decide +kernel)

theorem test_met_Barrier_masks : ∃ e, Ready (.bar { bar0 with m := some 5 }) (atWith (.bar { bar0 with m := some 5 }) (fun w => w.setS 5 1)) e ∧
    decide (e.b.exec ≠ (e.w.s 5).setWidth 32) = true := ready_of (by decide +kernel)

theorem test_met_Barrier_bad_witness : ∃ e, Ready (.bar bar0) (atWith (.bar bar0) (fun w => w.setS 21 (mkWit 2 1 5))) e ∧
    (decide (e.b.exec = allLanes) && witBad e.y.clk (e.optS bar0.w)) = true := ready_of (by decide +kernel)

theorem test_met_Signals : (∃ e, Ready (.sigx 0 3 4 true) (atWith (.sigx 0 3 4 true) (fun w => w.setS 4 0x8000000000000000)) e ∧
      decide (e.w.s 4 = 0x8000000000000000) = true) ∧
    (∃ e, Ready (.sigx 0 3 4 false) (at_ (.sigx 0 3 4 false)) e ∧ decide ((e.w.s 4).toNat = e.y.ctl.packageId) = true) ∧
    (∃ e, Ready (.waitx 0 3 none) (at_ (.waitx 0 3 none)) e ∧ decide ((e.w.s 3).toNat ≤ ((e.y.context e.k.ctx).counter 0).toNat) = true) ∧
    (∃ e, Ready (.waitx 0 3 none) (atWith (.waitx 0 3 none) (fun w => w.setS 3 1)) e ∧
      decide (((e.y.context e.k.ctx).counter 0).toNat < (e.w.s 3).toNat) = true) :=
  ⟨ready_of (by decide +kernel), ready_of (by decide +kernel), ready_of (by decide +kernel), ready_of (by decide +kernel)⟩

def xred0 : Instr := .xred 4 6 0 .add

theorem test_met_Reductions : (∃ e, Ready xred0 (at_ xred0) e ∧
      (!e.flagFull { e.op false with pendV := [4, 5] } && (Table.getD e.y.ctl.grpcfg 0 (0, 0)).2 == 0) = true) ∧
    (∃ e, Ready xred0 (atSys xred0 (fun y => { y with ctl := { y.ctl with grpcfg := [(0, (1, 2))] } })) e ∧
      (!e.flagFull { e.op false with pendV := [4, 5] } && (Table.getD e.y.ctl.grpcfg 0 (0, 0)).1.getLsbD e.y.ctl.packageId) = true) :=
  ⟨ready_of (by decide +kernel), ready_of (by decide +kernel)⟩

/-! ### The checks of a word, and the step -/

theorem test_met_Word_misplaced : ∃ e, env? (.ldsu ⟨8, none, 0, .none, .w64⟩) (sliced (.mma 0 (.v 16) (.v 24) 0)) = some e ∧ e.i = .ldsu ⟨8, none, 0, .none, .w64⟩ ∧
    encode (.mma 0 (.v 16) (.v 24) 0) ≠ none := by
  refine ⟨_, rfl, rfl, by decide⟩

/-- The environment of a word that is turned away. -/
def turned (i : Instr) (s : State) (p : Env → Bool) : Bool :=
  (encode i).isSome && (match env? i s with | some e => p e | none => false)

theorem test_met_Words_turned_away :
    turned (.mma 0 (.v 16) (.v 24) 0) (sliced (.mma 0 (.v 16) (.v 24) 0)) (fun e => e.misplaced) = true ∧
    turned (.strm 1 4 5 6 .w32 false false) (atSys (.strm 1 4 5 6 .w32 false false) (fun y => { y with cur := some (1, some 0), warps := [codeWarp 1 2 false false] }))
      (fun e => e.misplaced) = true ∧
    turned (.iadd ab) (atWith (.iadd ab) (fun w => { w with budget := 4 })) (fun e => e.outOfRange) = true ∧
    turned (.iadd ab) (atSys (.iadd ab) (fun y => { y with ops := [{ op1 with flag := some 0, pendV := [5] }] }))
      (fun e => !e.misplaced && !e.outOfRange && e.illegalFirst.isNone && !e.guardLater && e.o.isSome && e.y.pendingV e.w.id 5 && decide (Use.vr 5 ∈ e.i.uses e.w.fmt)) = true ∧
    turned (.sigx 0 3 4 true) (atWith (.sigx 0 3 4 true) (fun w => w.setS 4 64)) (fun e => !e.misplaced && !e.outOfRange &&
      !e.y.pendingS e.w.id 4 && decide ((e.w.s 4).toNat = 64) && e.illegalFirst.isSome) = true ∧
    turned (.swr .cause (.s 3)) (at_ (.swr .cause (.s 3))) (fun e => !e.misplaced && !e.outOfRange && e.handler?.isNone) = true ∧
    turned (.lperm ab) (twoSubs (.lperm ab)) (fun e => !e.misplaced && !e.outOfRange && e.illegalFirst.isNone && e.unguarded?.isNone && e.converge?.isSome) = true ∧
    turned (.iadd { ab with a := .queue 1 }) (atWith (.iadd { ab with a := .queue 1 }) (fun w => codeWarp w.id w.block false true |> fun v => { w with access := v.access }))
      (fun e => !e.misplaced && !e.outOfRange && e.illegalFirst.isNone && e.unguarded?.isNone && e.converge?.isNone && decide (e.i.pops = [(1, 1)]) && (e.w.queue 1).isEmpty) = true := by
  decide +kernel

/-! ### Engines that run long commands -/

def lmulOp : Op :=
  { command (.lmul 20 4 5 6 false) [0x20000, 0x20100, 0x20200] with pendS := [20], set := [{ vpage := 2, level := 0, pte := 0x20003 }] }

/-- An array's header and one limb. -/
def arrayBytes (len cap v : Nat) : List Byte := leBytes 4 len ++ leBytes 4 0 ++ leBytes 4 cap ++ leBytes 4 0 ++ leBytes 4 v

/-- The sectors that the commands read are in the home cache. -/
def warm (y : Sys) : Sys := { y with cached := [(0x20000, false), (0x20040, false), (0x20100, false), (0x20200, false)] }

def arrays (p : Op) (cap : Nat) : State :=
  { mem := (((tables normalLeaf).putAll 0x20000 (arrayBytes 0 cap 0)).putAll 0x20100 (arrayBytes 1 1 7)).putAll 0x20200 (arrayBytes 1 1 6)
    sys := warm { machine with ops := [p] } }

def longStarts (s : State) (p : Op) : Bool :=
  decide (s.sys.op? p.id = some p) && p.warp.isSome && s.sys.mayServe p p.longOrigin && !s.sys.longBehind p &&
    decide (s.sys.satisfied (clusterReader (clusterOf p.core)) p.wit = .yes)

/-- An engine's accesses are made and none fails, and `f` holds after them. -/
def passes (y : Sys) (p : Op) (o : Origin) (rs ws : List Run) (f : Sys → Bool) : Bool :=
  match y.pass p o rs ws with
  | .ok z => (z.readFails p rs).isNone && (z.writeFails p ws).isNone && f z
  | .error _ => false

/-- The state with the command at work on those arrays, the result of `m` limbs at most. -/
def arithReady (p : Op) (cap m : Nat) : Bool :=
  let s := arrays p cap
  longStarts s p &&
  (match longSet s p ([0x20000, 0x20100, 0x20200].flatMap (fun a => engineTouches .read a 16)) with
    | .go y1 =>
      let all := [0x20000, 0x20100, 0x20200].flatMap (fun a => y1.engineRuns 9 0 0 a 16)
      !(limbHeader (runBytes s.mem (y1.engineRuns 9 0 0 0x20000 16))).bad &&
        ((limbHeader (runBytes s.mem (y1.engineRuns 9 0 0 0x20000 16))).cap == cap) &&
      passes y1 p p.longOrigin all [] (fun z1 => match longSet { s with sys := z1.runsRead 0 all } p (engineTouches .engineWrite 0x20000 (16 + 4 * m) ++
          engineTouches .read 0x20110 4 ++ engineTouches .read 0x20210 4) with
        | .go y2 =>
          let src := y2.engineRuns 9 0 0 0x20110 4 ++ y2.engineRuns 9 0 0 0x20210 4
          let dst := y2.engineRuns 9 0 0 0x20000 (16 + 4 * m)
          passes y2 p p.longOrigin src dst (fun _ => true)
        | _ => false)
    | _ => false)

theorem test_met_Long_arithmetic : arithReady lmulOp 2 2 = true ∧ arithReady lmulOp 0 0 = true ∧
    arithReady { lmulOp with instr := .ladd 20 4 5 6 false false } 2 2 = true ∧ arithReady { lmulOp with instr := .ladd 20 4 5 6 true false } 2 2 = true :=
  ⟨by decide +kernel, by decide +kernel, by decide +kernel, by decide +kernel⟩

/-- A transform of two values. -/
def nttOp : Op := { lmulOp with instr := .nttf 20 4 5 6 false, args := [0x20200, 0x20100, 1] }

def nttReady (p : Op) (x0 : Nat) : Bool :=
  let s : State := { arrays p 0 with mem := (arrays p 0).mem.putAll 0x20100 (leBytes 4 x0) }
  longStarts s p &&
  (match longSet s p (engineTouches .engineWrite 0x20200 8 ++ engineTouches .read 0x20100 8) with
    | .go y1 =>
      let src := y1.engineRuns 9 0 0 0x20100 8
      passes y1 p p.longOrigin src (y1.engineRuns 9 0 0 0x20200 8) (fun _ => true) && (words32 2 (runBytes s.mem src)).headD 0 == x0
    | _ => false)

theorem test_met_Transforms : nttReady nttOp 469762048 = true ∧ nttReady nttOp 469762049 = true ∧
    nttReady { nttOp with instr := .ntti 20 4 5 6 false } 1 = true := ⟨by decide +kernel, by decide +kernel, by decide +kernel⟩

theorem test_met_Transform_sums : (0 < 3 ∧ 1 ≤ 1 ∧ 1 < 24 ∧ 0 < 2 ^ 1 ∧ [5, 6].length = 2 ^ 1) ∧ (2 < 3 ∧ 1 ≤ 23 ∧ 23 < 24 ∧ 1 < 2 ^ 23) ∧
    (List.replicate (2 ^ 23) 0).length = 2 ^ 23 := ⟨by decide, by decide, List.length_replicate⟩

/-- A grammar of one row of one terminal, its symbol at 0x20100. -/
def grammar1 : Grammar :=
  { rules := 0, rows := 1, limit := 1, half := false, cols := 1, table := 0x24000, ruleOff := 0x20040, rowOff := 0x20050, symbols := 0x20100, vecs := 1,
    base := 0, inp := 0, out := 0x20200 }

def accrunOp : Op := { lmulOp with instr := .accrun 20 4 5 6 false, args := [0x20000, 0, 0x20200] }

def accordEnv1 : AccordEnv := { op := { accrunOp with pos := 1 }, g := grammar1, val := [3], xs := [5], rv := [], deps := [] }

/-- The descriptor, the offsets of the row and the symbol, with what else the tests change. -/
def accordState (p : Op) (lim : Nat) : State :=
  { mem := (((tables normalLeaf).putAll 0x20000 (leBytes 4 0 ++ leBytes 4 1 ++ leBytes 4 lim ++ leBytes 4 1 ++ leBytes 8 0x24000 ++ leBytes 8 0x20040 ++
      leBytes 8 0x20050 ++ leBytes 8 0x20100)).putAll 0x20050 (leBytes 4 0 ++ leBytes 4 1)).putAll 0x20100 (leBytes 4 0)
    sys := warm { machine with ops := [p] } }

theorem test_met_Accord_rows : (match accordEnv1.body (accordState accrunOp 1) 0 0 false 0 0 1 accordEnv1.start with | .ok y => y.acc == [15] | _ => false) = true ∧
    (accordState accrunOp 1).sys.op? 9 = some accrunOp ∧
    (accordState accrunOp 1).sys.writeFails accrunOp ((accordState accrunOp 1).sys.engineRuns 9 0 0 0x20200 16) = none :=
  ⟨by decide +kernel, by decide +kernel, by decide +kernel⟩

def accordStarts (s : State) (p : Op) : Bool :=
  decide (s.sys.op? p.id = some p) && s.sys.mayServe p (.accord 0) && s.sys.accordMayStart p theBlock && decide (s.sys.block? p.block = some theBlock)

theorem test_met_Accord_starts : accordStarts (accordState accrunOp 1) accrunOp = true ∧
    (accordState accrunOp 1).sys.satisfied (coreReader 0) accrunOp.wit = .yes ∧
    (accordState { accrunOp with wit := notYet } 1).sys.satisfied (coreReader 0) notYet = .wait ∧
    accordStarts (accordState { accrunOp with wit := notYet } 1) { accrunOp with wit := notYet } = true ∧
    accordStarts (accordState { accrunOp with args := [0x20020, 0, 0] } 1) { accrunOp with args := [0x20020, 0, 0] } = true ∧ 0x20020 % 64 ≠ 0 :=
  ⟨by decide +kernel, by decide +kernel, by decide +kernel, by decide +kernel, by decide +kernel, by decide⟩

/-- The first stage of setup: the descriptor is there, and it is bad or not. -/
def describes (lim : Nat) (bad : Bool) : Bool :=
  let s0 := accordState accrunOp lim
  let s : State := { s0 with sys := s0.sys.modOp 9 (fun q => { q with pos := 1 }) }
  match accordSet s { accrunOp with pos := 1 } (engineTouches .read 0x20000 64) with
  | .go y1 =>
    let rs := y1.engineRuns 9 0 0 0x20000 64
    passes y1 { accrunOp with pos := 1 } (.accord 0) rs [] (fun _ => true) && descriptorBad (runBytes s.mem rs) 0 == bad &&
      (bad || decide (grammarOf (runBytes s.mem rs) 0 0x20200 = grammar1))
  | _ => false

theorem test_met_Accord_descriptor : describes 0 true = true ∧ describes 1 false = true := ⟨by decide +kernel, by decide +kernel⟩

/-- The second and third stages: the offset arrays and the rest of the set are there, and the inputs are numbers. -/
def accordReady : Bool :=
  let g := grammar1
  let p1 := { accrunOp with pos := 1 }
  let s0 := accordState accrunOp 1
  let s : State := { s0 with sys := s0.sys.modOp 9 (fun q => { q with pos := 1 }) }
  let ts := engineTouches .read 0x20000 64
  let offs := [(g.ruleOff, 4), (g.rowOff, 8)]
  let ts2 := ts ++ offs.flatMap (fun r => engineTouches .read r.1 r.2)
  let all := ts2 ++ engineTouches .read g.table 16384 ++ engineTouches .read g.symbols 4 ++ engineTouches .engineWrite g.out 16
  match accordSet s p1 ts with
  | .go y1 =>
    let rs := y1.engineRuns 9 0 0 0x20000 64
    passes y1 p1 (.accord 0) rs [] (fun z1 =>
    let y2 := (z1.runsRead 0 rs).modOp 9 (fun q => { q with args := q.args.take 3 ++ [BitVec.ofNat 64 g.base, BitVec.ofNat 64 (g.rules * g.vecs)] })
    (farTrap offs).isNone && !y2.tooManyPages p1 ts2 &&
    (match accordSet { s with sys := y2 } p1 ts2 with
      | .go y3 =>
        let offRuns := offs.flatMap (fun r => y3.engineRuns 9 0 0 r.1 r.2)
        passes y3 p1 (.accord 0) offRuns [] (fun z3 => !g.windowBad (z3.windows theBlock none) && !z3.tooManyPages p1 all &&
        (match accordSet { s with sys := z3.runsRead 0 offRuns } p1 all with
          | .go y4 =>
            let inr := localRuns (z3.windows theBlock none) g.inp (g.esize * g.vecs * g.cols)
            let tab := y4.engineRuns 9 0 0 g.table 16384
            (match y4.pass p1 (.accord 0) (tab ++ inr ++ y4.engineRuns 9 0 0 g.symbols 4) (y4.engineRuns 9 0 0 g.out 16) with
              | .ok z4 => (z4.readFails p1 (tab ++ inr)).isNone && (inputs g (runBytes s.mem inr)).isSome
              | .error _ => false)
          | _ => false))
      | _ => false))
  | _ => false

theorem test_met_Accord_runs : accordReady = true ∧ rising [0] = true ∧ rising [0, 1] = true ∧ grammar1.out % 16 = 0 := by decide +kernel

/-! ### Bins, launches and blocks -/

def rec1 : BinRec := { words := [8, 0, 0, 0, 0, 0, 0, 0], no := 0, tick := 0, tdie := 0, addr := none }

/-- The state with this bin. -/
def binned (b : Bin) : State := st (fun y => { y with bins := [bins1 b] })

def ringed : Bin := { bin1 with cfg := #v[9, 0x20006, 0, 0] }

theorem test_met_Bin_ring_write : (binned { ringed with held := [rec1] }).sys.bin? 0 0 0 = some { ringed with held := [rec1] } ∧
    ((binned { ringed with held := [rec1] }).sys.context 0).frozen = false ∧ ringed.heldParked = none ∧
    (match cpSet (binned { ringed with held := [rec1] }) 0 0 0 0x20000 64 .write with
      | .go y k => k == some 0x20000 && (y.accessFails 0x20000 64 false).isNone && !y.frozenFrame 0x20000
      | _ => false) = true := by decide +kernel

def ringRec (no : Nat) : RingRec := { no, tick := 5, tdie := 0, addr := none, ticket := 0 }

def waitingRing : Bin := { ringed with ring := [ringRec 0, ringRec 1], tail := 2 }

def ringTouch (va : Nat) : Touch := { lane := 32, va, len := 64, acc := .read }

/-- The reads of these ring records are translated, and `p` holds of each one's key. -/
def refillReady (s : State) (vas : List Nat) (p : Nat → Bool) : Bool :=
  let a : Asker := .bin 0 0 0
  decide (setFate true (s.sys.fates a .engine none 0 0 (vas.map ringTouch)) = .proceed) &&
    (s.sys.unknown a none 0 0 (vas.map ringTouch)).isEmpty && s.sys.found.all (fun f => f.asker != a) &&
    vas.all (fun va => (s.sys.cachedLeaf none 0 0 (va / 65536 * 65536)).isSome &&
      (match s.sys.vaKey a none 0 0 va with | some k => s.sys.quiet k 64 && p k | none => false))

theorem test_met_Bin_refill : (binned waitingRing).sys.bin? 0 0 0 = some waitingRing ∧ waitingRing.hwq.length < 16 ∧
    waitingRing.refillParked = none ∧ min (32 - waitingRing.hwq.length) waitingRing.ring.length = 2 ∧
    refillReady (binned waitingRing) [0x20000, 0x20040] (fun k => ((binned waitingRing).sys.accessFails k 64 true).isNone) = true := by decide +kernel

def badRing : State := st (fun y => { y with bins := [bins1 { waitingRing with ring := [ringRec 0] }], poison := [0x20000] })

theorem test_met_Bin_refill_fails : badRing.sys.bin? 0 0 0 = some { waitingRing with ring := [ringRec 0] } ∧
    refillReady badRing [0x20000] (fun k => (badRing.sys.accessFails k 64 true).isSome) = true ∧
    (badRing.sys.context 0).log.length < 256 := by decide +kernel

def queuedBin : Bin := { bin1 with hwq := [rec1], since := some 0 }

theorem test_met_Bin_timer_and_class : (binned queuedBin).sys.bin? 0 0 0 = some queuedBin ∧ queuedBin.expired = false ∧
    rec1.tick + bits queuedBin.cfg[2] 63 32 ≤ (binned queuedBin).sys.time.now ∧
    0 + 65536 * (queuedBin.raised + 1) ≤ 65536 ∧ min 3 (bits (((queuedBin.hwq.map (·.words)).headD []).headD 0) 57 56 + queuedBin.raised) < 3 := by decide +kernel

/-- The state with the grid. -/
def withGrid (g : Grid) (f : Sys → Sys) : State := st (fun y => f { y with grids := [g] })

theorem test_met_Bin_table_installs : (withGrid { grid1 with installs := [0] } id).sys.grid? 1 = some { grid1 with installs := [0] } ∧
    (withGrid { grid1 with installs := [0] } id).sys.binsVacant 0 0 = true ∧ (withGrid grid1 id).sys.ctl.held = false := ⟨rfl, by decide +kernel⟩

def claim1 : Claim := { die := 0, flat := 0, count := 1, cycle := 0, since := 0, raised := 0 }

/-- An open grid of one block on die 0, of one warp. -/
def openGrid : Grid :=
  { grid1 with
    exhausted := false
    assigned := []
    lpb := (((grid1.lpb.set 2 0x0001000100000001).set 3 0x101).set 6 0x20000).set 9 0x10000
    roles := [{ entry := 0x10000, access := 0, budget := 8, warps := 1 }]
    raised := [(0, (0, 0))], ticketKey := 0x20000 }

def late (y : Sys) : Sys := { y with time := { y.time with cycle := 65536 } }

theorem test_met_Work_classes : (withGrid { openGrid with claims := [claim1] } late).sys.grid? 1 = some { openGrid with claims := [claim1] } ∧
    claim1.since + 65536 * (claim1.raised + 1) ≤ (withGrid openGrid late).sys.time.cycle ∧ min 3 (openGrid.prio + claim1.raised) < 3 ∧
    (withGrid openGrid late).sys.gridSource 0 openGrid = true ∧ Table.get? openGrid.raised 0 = some (0, 0) := ⟨rfl, by decide +kernel⟩

def dispatched (words : List Word) (tdie : Nat) : State := binned { bin1 with hwq := [{ rec1 with words := words, tdie := tdie }] }

/-- The bin's head can be placed, and it is its turn where its TDIE is what it was. -/
def binGoes (words : List Word) (tdie : Nat) : Bool :=
  let y := (dispatched words tdie).sys
  (match y.bins? 0 0, y.bin? 0 0 0 with
    | some _, some b => decide (b.hwq = [{ rec1 with words := words, tdie := tdie }]) &&
        (match y.taskPlace 0 b with | some (_, p) => decide (p.spills ≠ []) | none => false)
    | _, _ => false) && (decide (y.turn 0 = some (.bin 0 0)) || tdie != 0) && y.blocks.all (fun k => decide (k.id ≠ y.nextId))

theorem test_met_Bin_dispatch : binGoes [8, 0, 0, 0, 0, 0, 0, 0] 0 = true ∧ binGoes [10, 0, 0, 0, 0, 0, 0, 0] 0 = true ∧
    taskInstr [10, 0, 0, 0, 0, 0, 0, 0] = some (.lmul 0 0 0 0 false) ∧ taskInstr [10, 0, 0, 0, 0, 0, 0, 5] = none ∧
    binGoes [10, 0, 0, 0, 0, 0, 0, 5] 0 = true ∧ binGoes [8, 0, 0, 0, 0, 0, 0, 0] 1 = true ∧
    rec1.unchanged = true ∧ ({ rec1 with tdie := 1 } : BinRec).unchanged = false := by decide +kernel

/-- An enabled queue of two slots at 0x60000, with this tail in its line and one launch waiting. -/
def queueState (tail known : Nat) (words : List Word) : State :=
  let s := st (fun y => { y with ctl := { y.ctl with queues := [(1, { queue1 with cfg := 0x8100000000060000, tail := BitVec.ofNat 32 known })] } })
  { s with mem := (s.mem.putAll 0x60000 (leBytes 4 tail)).putAll 0x60100 (words.flatMap (fun v => leBytes 8 v.toNat)) }

theorem test_met_Queue_tail : ((queueState 1 0 []).sys.ctl.queue 1).cfg.getLsbD 63 = true ∧ (queueState 1 0 []).sys.quiet (mainKey 0 0x60000) 4 = true ∧
    (queueState 1 0 []).mem.value 0x60000 4 = 1 ∧ (queueState 3 0 []).mem.value 0x60000 4 = 3 ∧ 2 ^ bits 0x8100000000060000 59 56 = 2 := by decide +kernel

/-- An LPB of one block of one warp on die 0, its ticket counter on the data page. -/
def lpb1 : List Word := [0x10000, 0, 0x0001000100000001, 0x101, 0, 0, 0x20000, 0, 0, 0x10000] ++ List.replicate 22 0

def takes (words : List Word) (p : Except Unfit Grid → Bool) : Bool :=
  let s := queueState 1 1 words
  decide (s.sys.nextQueue = some 1) && !s.sys.ctl.held && s.sys.quiet 0x60100 256 &&
    [(0x60100, 256, false), (0x601F8, 8, true), (0x60008, 4, true)].all (fun a => s.sys.opens 0 a.1 a.2.1 a.2.2 && (s.sys.accessFails a.1 a.2.1 (!a.2.2)).isNone) &&
    p (validateLpb s s.sys.ctl.launches.toNat 0 0x60100 0 (s.mem.words 0x60100 32))

theorem test_met_Lpb_take : takes lpb1 (fun r => match r with | .ok g => g.ticketKey == 0x20000 && !(queueState 1 1 lpb1).sys.frozenFrame g.ticketKey &&
      ((queueState 1 1 lpb1).sys.accessFails g.ticketKey 8 false).isNone | .error _ => false) = true ∧
    takes (lpb1.set 9 0x100010000) (fun r => match r with | .error (.status 1) => true | _ => false) = true ∧
    takes (lpb1.set 2 0) (fun r => match r with | .error (.status 3) => true | _ => false) = true := by decide +kernel

/-- The grid accepted, with this input witness. -/
def accepted (w : Word) : Grid := { grid1 with state := .accepted, judged := false, lpb := grid1.lpb.set 8 w }

theorem test_met_Broadcast : (withGrid (accepted 0) id).sys.grid? 1 = some (accepted 0) ∧ ((withGrid (accepted 0) id).sys.context 0).frozen = false ∧
    ((withGrid (accepted 0) id).sys.context 0).held = false ∧ (withGrid (accepted 0) id).sys.ctl.held = false ∧
    (withGrid (accepted 0) id).sys.unseen.any (fun u => u.origin == .host && decide (u.tick ≤ (accepted 0).accept)) = false ∧
    (withGrid (accepted 0) id).sys.settled controlReader (mkWit 2 0 (accepted 0).accept) = .yes ∧
    (withGrid (accepted 0) id).sys.settled controlReader 0 = .yes ∧ (withGrid (accepted 0) id).sys.settled controlReader (mkWit 2 1 5) = .bad := ⟨rfl, by decide +kernel⟩

theorem test_met_Claims : (withGrid openGrid id).sys.grid? 1 = some openGrid ∧ (withGrid openGrid id).sys.turn 0 = some (.grid 1) ∧ (withGrid openGrid id).sys.quiet openGrid.ticketKey 8 = true ∧
    (withGrid openGrid id).sys.frozenFrame openGrid.ticketKey = false ∧
    (match reach (withGrid openGrid id) 0 (openGrid.lpb[6]).toNat 8 true with | .ok r => r.2 == openGrid.ticketKey | .error _ => false) = true ∧
    (withGrid openGrid id).sys.accessFails openGrid.ticketKey 8 true = none :=
  ⟨rfl, by decide +kernel⟩

theorem test_met_Claimed_clusters : (withGrid { openGrid with claims := [claim1] } id).sys.turn 0 = some (.claimed 1 0) ∧
    ((withGrid { openGrid with claims := [claim1] } id).sys.placeCluster { openGrid with claims := [claim1] } 0 0 1).isSome = true := by decide +kernel

def coopGrid (n : Word) : Grid := { openGrid with lpb := (openGrid.lpb.set 9 0x10100).set 2 (0x0001000100000000 ||| n) }

def fillsOf (g : Grid) : Nat :=
  ((maskDies g.diemask).foldl (fun x d => fillDie g d (g.blocks / g.clusterSize - x.2) x) ((withGrid g id).sys, 0)).2

theorem test_met_Cooperative : (coopGrid 1).coop = true ∧ (coopGrid 1).installs = [] ∧ (coopGrid 1).exhausted = false ∧
    (maskDies (coopGrid 1).diemask).all (fun d => (withGrid (coopGrid 1) id).sys.diePlaces d) = true ∧
    (coopGrid 1).blocks / (coopGrid 1).clusterSize ≤ fillsOf (coopGrid 1) := by decide +kernel

theorem test_met_Cooperative_waits :
    fillsOf { coopGrid 1 with roles := [{ entry := 0x10000, access := 0, budget := 2000, warps := 1 }] } < 1 := by decide +kernel

def unstarted : Block := { ofGrid theBlock with started := false }

def ended : State := withGrid { grid1 with lpb := grid1.lpb.set 2 0x0001000100000001 } (fun y => { y with blocks := [ofGrid theBlock], warps := [] })

theorem test_met_Block_starts_and_ends : (withGrid grid1 (fun y => { y with blocks := [unstarted] })).sys.blocks = [unstarted] ∧
    unstarted.isTask = false ∧ unstarted.flat = 0 ∧ ended.sys.block? 2 = some (ofGrid theBlock) ∧ ended.sys.blockOver (ofGrid theBlock) = true ∧
    (ended.sys.grid? 1).map (·.state) = some .running := ⟨rfl, by decide, by decide, rfl, by decide +kernel, by decide +kernel⟩

def taskBlock1 : Block := { theBlock with job := .task 0 0 0 [8, 0, 0, 0, 0, 0, 0, 0] }

def taskEnded : State := st (fun y => { y with blocks := [taskBlock1], warps := [], bins := [bins1 { bin1 with running := 1 }] })

theorem test_met_Task_block_ends : taskEnded.sys.block? 2 = some taskBlock1 ∧ taskEnded.sys.blockOver taskBlock1 = true ∧
    taskEnded.sys.bin? 0 0 0 = some { bin1 with running := 1 } := ⟨rfl, by decide +kernel, by decide +kernel⟩

def allEnded (w : Word) : Grid := { grid1 with ended := [0], lpb := (grid1.lpb.set 2 0x0001000100000001).set 7 w }

theorem test_met_Grid_completes : (withGrid (allEnded 0) id).sys.grid? 1 = some (allEnded 0) ∧ (allEnded 0).blocks ≤ (allEnded 0).ended.length ∧
    (allEnded 0).accept + 2 ≤ (withGrid (allEnded 0) id).sys.time.now ∧ (allEnded 0x20000).lpb[7] ≠ 0 ∧
    (withGrid (allEnded 0x20000) id).sys.grid? 1 = some (allEnded 0x20000) := ⟨rfl, by decide +kernel, by decide +kernel, by decide +kernel, rfl⟩

/-! ### Translation, causes, ports and time -/

def heldFault1 : HeldFault := { ctx := 0, die := 0, record := [1, 2, 3, 4, 5, 6, 7, 8] }

/-- Context 0 with a host ring of four records at 0x30000, its tail and the reader's head. -/
def ringAt (tail : BitVec 32) (r : RingState) (head : Nat) : State :=
  let s := st (fun y => { y with
    contexts := [(0, { context0 with desc := context0.desc.set 3 0x30000, ringTail := tail, ringState := r })], heldFaults := [heldFault1] })
  { s with mem := s.mem.putAll (mainKey 2 0x30008) (leBytes 4 head) }

def ringFits (s : State) (p : Nat → Bool) : Bool :=
  let c := s.sys.context 0
  c.desc[3] == 0x30000 && decide (s.sys.heldFaults.find? (fun z => z.ctx == 0) = some heldFault1) && may s [(mainKey 2 0x30008, 4, false), (mainKey 2 0x30000, 4, true), (mainKey 2 0x30000 + 64 * (1 + c.ringTail.toNat % 4), 64, true)] &&
    !s.sys.ctl.held && !c.frozen && p (c.ringTail - BitVec.ofNat 32 (s.mem.value (mainKey 2 0x30000 + 8) 4)).toNat

theorem test_met_Host_ring : ringFits (ringAt 3 .ok 0) (fun n => decide (n < 4)) = true ∧ ringFits (ringAt 4 .ok 0) (fun n => n == 4) = true ∧
    ringFits (ringAt 4 .ok 5) (fun n => decide (4 < n)) = true ∧ ((ringAt 4 .full 0).sys.context 0).ringState = .full ∧
    ((ringAt 4 .ok 0).sys.context 0).desc[3] ≠ 0 ∧
    (((ringAt 4 .full 0).sys.context 0).ringTail - 1).toNat < 4 ∧ 4 < (((ringAt 4 .full 0).sys.context 0).ringTail - 5).toNat := by decide +kernel

def miss1 (page : Nat) : Miss := { die := 0, ctx := 0, vpage := page, askers := [.sub 1 (some 1)] }

def missing (e : Word) (page : Nat) : State := stLeaf e (fun y => { y with misses := [miss1 page] })

theorem test_met_Walks : (missing normalLeaf 2).sys.misses.find? (fun z => z.die == 0 && z.ctx == 0 && z.vpage == 2) = some (miss1 2) ∧
    (missing normalLeaf 3).sys.misses.find? (fun z => z.die == 0 && z.ctx == 0 && z.vpage == 3) = some (miss1 3) ∧
    walkQuiet (missing normalLeaf 2) 0 0x20000 = true ∧ walk (missing normalLeaf 2) 0 0x20000 = .leaf 0 normalLeaf ∧
    walkQuiet (missing normalLeaf 3) 0 0x30000 = true ∧ walk (missing normalLeaf 3) 0 0x30000 = .absent 0 0 := by decide +kernel

/-- The warp's sub-warp waits so. -/
def waitingAs (w : Wait) : State := st (fun y => { y with warps := [{ theWarp with subs := [{ theSub with wait := w }] }] })

theorem test_met_Set_completes : (waitingAs (.translating [2])).sys.warp? 1 = some { theWarp with subs := [{ theSub with wait := .translating [2] }] } ∧
    (waitingAs (.translating [2])).sys.setReady (.sub 1 (some 1)) theBlock [2] = true ∧ (waitingAs .resumed).sys.block? 2 = some theBlock :=
  ⟨rfl, by decide +kernel, rfl⟩

/-- The block names a handler. -/
def handled : Block := { theBlock with handler := 0x18000 }

def boundaryWarp (h : Option Halt) : Warp := { theWarp with subs := [{ theSub with place := .boundary }], halt := h }

def atBound (h : Option Halt) (l : List Imprecise) : State :=
  st (fun y => { y with warps := [boundaryWarp h], blocks := [handled], imprecise := l })

def halt1 (fatal : Bool) : Halt := { who := 1, cause := .align, fatal, cycle := 0 }

def imp1 : Imprecise :=
  { no := 3, who := { ctx := 0, core := 0, tskid := 0, flat := 0, index := 0, slot := 0, part := 0 }, warp := 1, sub := 0, lanes := 1, info := trapOf .impreciseStore 0, block := 2, halts := true }

theorem test_met_Boundary : (atBound (some (halt1 true)) []).sys.warp? 1 = some (boundaryWarp (some (halt1 true))) ∧
    (atBound (some (halt1 false)) []).sys.block? 2 = some handled ∧ ({ theSub with place := .boundary } : Sub).atBoundary = true ∧
    (atBound (some (halt1 false)) []).sys.noHandler handled = false ∧
    (boundaryWarp none).sub? (some theSub.id) = some { theSub with place := .boundary } ∧ (boundaryWarp none).handler = none ∧ handled.started = true ∧ handled.handler ≠ 0 :=
  ⟨rfl, rfl, by decide, by decide +kernel, rfl, rfl, by decide, by decide⟩

theorem test_met_Imprecise : (atBound none [imp1]).sys.imprecise.find? (fun z => z.no == 3) = some imp1 ∧ imp1.warp = (boundaryWarp none).id ∧
    imp1.sub = theSub.id ∧ (boundaryWarp none).handler = none ∧ handler1.has theSub.id = true ∧
    ({ boundaryWarp none with handler := some handler1 } : Warp).cause &&& imp1.info.cause.bit = 0 ∧
    (st (fun y => { y with warps := [], imprecise := [imp1] })).sys.warp? 1 = none ∧ ((st id).sys.context 0).log.length < 256 := by
  refine ⟨by decide +kernel, by decide, by decide, by decide, by decide, by decide, rfl, by decide +kernel⟩

theorem test_met_Trap_enters : (st (fun y => { y with warps := [theWarp], blocks := [handled] })).sys.warp? 1 = some theWarp ∧
    theWarp.sub? (some theSub.id) = some theSub ∧ (st (fun y => { y with warps := [theWarp], blocks := [handled] })).sys.block? 2 = some handled ∧
    theWarp.handler = none ∧ theWarp.halt = none ∧ handled.handler ≠ 0 ∧ theBlock.handler = 0 ∧
    ({ theWarp with handler := some handler1 } : Warp).cause &&& Cause.bit .align = 0 :=
  ⟨rfl, rfl, rfl, rfl, rfl, by decide, by decide, by decide⟩

theorem test_met_Trap_halts_others :
    (st (fun y => { y with warps := [theWarp, { theWarp with id := 4 }], blocks := [handled] })).sys.warp? 4 = some { theWarp with id := 4 } ∧ 4 ≠ theWarp.id :=
  ⟨rfl, by decide⟩

def rival (w cls : Nat) (boosted paired portB : Bool) : Rival := { warp := w, sub := 0, cls, age := w, ready := w, boosted, paired, portB, phase := 0 }

theorem test_met_Ports : (∃ x rest, portChoices none [rival 1 0 false false true, rival 2 3 false false true] = x :: rest ∧ rest ≠ []) ∧
    (∃ x rest, portChoices (some (2, 0)) [rival 1 0 true false true, rival 2 3 false true true] = x :: rest ∧ x.boosted = true) ∧
    (∃ x rest, portChoices none [rival 2 3 false true true, rival 1 0 false false true] = x :: rest ∧ x.paired = true) := by
  refine ⟨⟨rival 2 3 false false true, [rival 1 0 false false true], by decide +kernel, by decide⟩, ⟨_, _, rfl, by decide +kernel⟩,
    ⟨_, _, rfl, by decide +kernel⟩⟩

/-- Cycle `n`, with issue throttled or not; the warp of the state can issue. -/
def paced (n : Nat) (slow : Bool) : Sys := (st (fun y => { y with time := { y.time with cycle := n }, ctl := { y.ctl with powerThrottle := slow } })).sys

theorem test_met_Throttle : ((paced 5 true).die (dieOf 0)).throttled = false ∧ (paced 5 true).ctl.powerThrottle = true ∧
    (paced 5 true).time.cycle % 2 = 1 ∧ (paced 4 false).ctl.powerThrottle = false ∧ (({ st id with sys := paced 4 false } : State).rivals 0 0).length = 1 ∧
    ((portChoices none (({ st id with sys := paced 4 false } : State).rivals 0 0)).take ((paced 4 false).issueLimit 0 1)).length = 1 := by decide +kernel

theorem test_met_Boost : (st late).sys.canIssue theWarp theBlock (some theSub.id) theSub = true ∧
    (st late).sys.waitOver theWarp theBlock (some theSub.id) theSub = true ∧ theSub.ready + 1024 ≤ (st late).sys.time.cycle ∧
    (st late).sys.warp? 1 = some theWarp ∧ theWarp.sub? (some theSub.id) = some theSub ∧ (st late).sys.block? 2 = some theBlock ∧
    ¬ theSub.ready + 1024 ≤ (st id).sys.time.cycle :=
  ⟨by decide +kernel, by decide +kernel, by decide +kernel, rfl, rfl, rfl, by decide +kernel⟩

/-- Context 0 has counted to its threshold, and the sub-warp of its warp waits. -/
def hung (b : Sub) : State := st (fun y => { y with
  contexts := [(0, { context0 with hangcfg := 0xC010001000000000, hang := 65536 })]
  blocks := [handled]
  warps := [{ theWarp with subs := [b] }] })

def joins : Sub := { theSub with wait := .join 0 }

/-- It has waited for a counter since tick 7, and that wait has counted far enough. -/
def outside : Sub := { theSub with wait := .counter 0 1, since := 7, ext := (7, 65536) }

theorem noneHandles (b : Sub) (w : Warp) (h : w.id = 1) : (hung b).sys.NoneHandlesHalt w := by
  rintro v (hv | ⟨_, hb, _⟩) _ hne
  · rw [List.mem_singleton.mp (show v ∈ [{ theWarp with subs := [b] }] from hv)] at hne; exact absurd h.symm hne
  · cases hb

theorem test_met_Hang : ((hung joins).sys.context 0).hangcfg.getLsbD 63 = true ∧ ((hung joins).sys.context 0).frozen = false ∧
    2 ^ bits ((hung joins).sys.context 0).hangcfg 53 48 ≤ ((hung joins).sys.context 0).hang ∧
    bits ((hung joins).sys.context 0).hangcfg 35 0 = 0 ∧ (hung joins).sys.warpsOf 0 = [{ theWarp with subs := [joins] }] ∧
    (hung joins).sys.warp? 1 = some { theWarp with subs := [joins] } ∧ (hung joins).sys.block? 2 = some handled ∧
    (hung joins).sys.hangSub { theWarp with subs := [joins] } (· == .internal) = some joins ∧ ((hung joins).sys.waitRecord handled joins).1 ≠ 0 ∧
    (hung joins).sys.NoneHandlesHalt { theWarp with subs := [joins] } :=
  ⟨by decide +kernel, by decide +kernel, by decide +kernel, by decide +kernel, rfl, rfl, rfl, by decide +kernel, by decide +kernel, noneHandles _ _ rfl⟩

theorem test_met_External : (hung outside).sys.warp? 1 = some { theWarp with subs := [outside] } ∧ (hung outside).sys.block? 2 = some handled ∧
    ({ theWarp with subs := [outside] } : Warp).sub? (some outside.id) = some outside ∧
    (hung outside).sys.waitKind { theWarp with subs := [outside] } handled outside = .external ∧ outside.ext.1 = outside.since ∧
    2 ^ bits ((hung outside).sys.context 0).hangcfg 41 36 ≤ outside.ext.2 ∧ ((hung outside).sys.context 0).hangcfg.getLsbD 62 = true ∧
    (hung outside).sys.NoneHandlesHalt { theWarp with subs := [outside] } :=
  ⟨rfl, rfl, rfl, by decide +kernel, by decide, by decide +kernel, by decide +kernel, noneHandles _ _ rfl⟩

/-- A snoop that the host has still to answer, and one that it has not answered in time. -/
theorem test_met_Ticks : (paced 0 false).time.now + 1 < (paced 0 false).time.now + 250 * bits (paced 0 false).ctl.ctocfg 31 16 ∧
    250 * bits (paced 0 false).ctl.ctocfg 31 16 ≤ (paced 0 false).time.now + 1 := by decide +kernel

/-! ### Streams, barriers, signals, reductions and MMQ in the machine -/

def streaming (j : QJob) (w : Wait) : Warp :=
  let v := codeWarp 1 2 false true
  { v with access := v.access.map (fun a => { a with jobs := a.jobs.set 1 [j], sub := { a.sub with wait := w } }) }

def streamState (j : QJob) : State := st (fun y => { y with warps := [streaming j .none] })

theorem test_met_Stream_push : (streamState (.mark 7)).sys.warp? 1 = some (streaming (.mark 7) .none) ∧ (streamState (.mark 7)).sys.block? 2 = some theBlock ∧
    ((streaming (.mark 7) .none).access.map (fun x => (x.jobsOf 1, x.ended, x.parked))) = some ([.mark 7], false, false) ∧
    ((streaming (.mark 7) .none).queue 1).length < 16 ∧ ((streamState (.mark 7)).sys.context 0).frozen = false ∧ (streamState (.mark 7)).sys.ctl.held = false ∧
    ((streamState (.mark 7)).sys.preempting theBlock).isSome = false :=
  ⟨rfl, rfl, by decide +kernel, by decide +kernel, by decide +kernel, by decide +kernel, by decide +kernel⟩

theorem test_met_Stream_elements : (match (streaming (.stream stream1) .none).access with
    | some x => (match streamLocate (streamState (.stream stream1)) (streaming (.stream stream1) .none) theBlock x stream1 with
      | .go y runs => runs.all y.runsQuiet && decide (y.warps.length = 1)
      | _ => false)
    | none => false) = true := by decide +kernel

/-- A stream of which the high entry of a group is still to go in. -/
def halfIn : Stream := { stream1 with high := some entry1 }

theorem test_met_Stream_high : halfIn.high = some entry1 ∧ ((streaming (.stream halfIn) .none).access.map (fun x => x.jobsOf 1)) = some [.stream halfIn] ∧
    ((streaming (.stream halfIn) .none).queue 1).length < 16 := ⟨rfl, rfl, by decide +kernel⟩

theorem test_met_Slice_ends : (match (codeWarp 1 2 false true).access with
    | some x => ({ x.sub with wait := .exiting } : Sub).wait == .exiting && !x.ended && x.jobs.toList.all (fun l => l.isEmpty)
    | none => false) = true := by decide +kernel

def barKey0 : BarKey := { lvl := .blk, owner := 2, die := 0, n := 1 }

/-- The barrier instance of a block of one warp, with that warp's arrival. -/
def barInst0 (m : LaneMask) : BarInst := { key := barKey0, inst := 0, arrivals := [{ block := 0, warp := 0, wit := 0, mask := m }] }

def barWaiter (again : Bool) : Warp :=
  { theWarp with
    subs := [{ theSub with wait := .barrier barKey0 0 none false again }]
    bars := [{ key := barKey0, arrived := 1, result := .open_ }] }

def barState (b : BarInst) : State := st (fun y => { y with barriers := [b], warps := [barWaiter false], blocks := [handled] })

theorem test_met_Barrier_completes : (barState (barInst0 allLanes)).sys.barriers.find? (fun z => z.key == barKey0 && z.inst == 0) = some (barInst0 allLanes) ∧
    ((barState (barInst0 allLanes)).sys.participants barKey0).all (fun p => (barInst0 allLanes).arrivals.any (fun a => a.block == p.1 && a.warp == p.2)) = true ∧
    (barState (barInst0 allLanes)).sys.warp? 1 = some (barWaiter false) ∧ (barWaiter false).barSlot barKey0 = some { key := barKey0, arrived := 1, result := .open_ } ∧
    ((barWaiter false).waitsAt barKey0 0).isSome = true ∧ ((barState (barInst0 allLanes)).sys.warps.map (·.id)).Nodup := by
  refine ⟨by decide +kernel, by decide +kernel, rfl, by decide +kernel, by decide +kernel, by decide +kernel⟩

/-- Two arrivals of one warp with unequal masks. -/
def unequal0 : BarInst := { barInst0 allLanes with arrivals := (barInst0 allLanes).arrivals ++ [{ block := 0, warp := 1, wit := 0, mask := 1 }] }

theorem unequal_none : (barState unequal0).sys.NoneHandlesHalt (barWaiter false) := by
  rintro v (hv | ⟨_, hb, _⟩) _ hne
  · exact absurd (congrArg Warp.id (List.mem_singleton.mp (show v ∈ [barWaiter false] from hv))) hne
  · cases hb

theorem test_met_Barrier_unequal : unequal0.arrivals.all (fun a => unequal0.arrivals.all (fun b => a.mask == b.mask)) = false ∧
    (barState unequal0).sys.warps = [barWaiter false] ∧ (barState unequal0).sys.NoneHandlesHalt (barWaiter false) ∧ (barState unequal0).sys.block? 2 = some handled ∧ handled.handler ≠ 0 :=
  ⟨by decide +kernel, rfl, unequal_none, rfl, by decide⟩

def sigOp (dest : Word) : Op := { op1 with instr := .sigx 3 4 5 false, args := [1, dest] }

def sigState (dest : Word) (ev : Word) : State := st (fun y => { y with ops := [sigOp dest], ctl := { y.ctl with evcfg := ev } })

theorem test_met_Signal_effects : (sigState 0 0).sys.op? 9 = some (sigOp 0) ∧ (sigState 0 0).sys.sigBehind (sigOp 0) = false ∧
    (sigState 0 0).sys.settled (coreReader 0) 0 = .yes ∧ (0#64).toNat = (sigState 0 0).sys.ctl.packageId ∧
    evEnabled (sigState (1 <<< 63) 0x8000000000030008).sys.ctl.evcfg = true ∧
    ((sigState (1 <<< 63) 0x8000000000030008).sys.ctl.eventTail - (sigState (1 <<< 63) 0x8000000000030008).sys.ctl.eventHead).toNat <
      evSize (sigState (1 <<< 63) 0x8000000000030008).sys.ctl.evcfg := by decide +kernel

theorem test_met_Host_counter : (∀ u ∈ (st id).sys.unseen, u.origin ≠ .host) ∧ ∀ r ∈ (st id).sys.reqs, r.origin ≠ .host := by decide +kernel

def xredOp (n : Nat) : Op := { op1 with id := n, instr := .xred 4 6 0 .add, pendV := [4, 5] }

def contrib (n who : Nat) (x : XOp) : XContrib := { op := n, who, xop := x, lanes := Vector.replicate 32 1 }

def xredState (x : XOp) : State := st (fun y => { y with
  ops := [xredOp 9, xredOp 10], xreds := [(0, 0, [contrib 9 1 .add, contrib 10 4 x])], ctl := { y.ctl with grpcfg := [(0, (1, 2))] } })

theorem test_met_Reduction_completes : (xredState .add).sys.xreds.find? (fun z => z.1 == 0 && z.2.1 == 0) =
      some (0, 0, [contrib 9 1 .add, contrib 10 4 .add]) ∧
    ((firstContribs [contrib 9 1 .add, contrib 10 4 .add]).take 2).map (·.op) = [9, 10] ∧ ([] : List (Option XOp × Lanes64)).length + 1 = maskCount 1 ∧
    (xredState .add).sys.maskReached 1 = true ∧ (xredState .add).sys.maskReached 3 = false ∧
    (xredState .add).sys.op? 9 = some (xredOp 9) ∧
    ((firstContribs [contrib 9 1 .add, contrib 10 4 .and]).take 2).map (·.xop) = [.add, .and] := by
  refine ⟨rfl, by decide +kernel, by decide +kernel, by decide +kernel, by decide +kernel, by decide +kernel, by decide +kernel⟩

theorem test_met_Reduction_peers : ([(some XOp.add, (Vector.replicate 32 2 : Lanes64))] : List (Option XOp × Lanes64)).length + 1 = maskCount 3 ∧
    (st (fun y => { y with ctl := { y.ctl with routes := [(1, 0)] } })).sys.maskReached 3 = true := by decide +kernel

def mmqWarp (i : Nat) : Warp := { theWarp with id := 10 + i, index := i, subs := [{ theSub with wait := .mmq 0 0 }] }

def mmqArrival (i : Nat) : MmqArrival :=
  { warp := 10 + i, sub := 1, pops := [], tile := i, a := List.replicate 8 zeroLanes, b := List.replicate 2 zeroLanes, c := 0, fmt := 0, bField := 0 }

def mmqInst1 : MmqInst := { block := 2, cohort := 0, inst := 0, arrivals := (List.range 4).map mmqArrival }

def mmqState : State := st (fun y => { y with
  grids := [grid1], blocks := [{ ofGrid theBlock with nwarps := 4 }], warps := (List.range 4).map mmqWarp, mmqs := [mmqInst1] })

theorem test_met_Mmq_completes : mmqState.sys.quad { ofGrid theBlock with nwarps := 4 } 0 = some [0, 1, 2, 3] ∧
    ([0, 1, 2, 3].all (fun i => !mmqState.sys.participantExited 1 (0, i))) = true ∧
    ([0, 1, 2, 3].filterMap (fun i => mmqInst1.arrivals.find? (fun x => (mmqState.sys.warp? x.warp).map (·.index) == some i))).length = 4 ∧
    (mmqInst1.arrivals.all (fun x => !mmqState.sys.tileOwned { ofGrid theBlock with nwarps := 4 } x.tile && pairOf x.fmt == 0)) = true := by
  decide +kernel

/-! ### Pre-emption, switches and freezes -/

/-- Context 0 with a save area of 2 MiB at 0x400000. -/
def saver : Context := { context0 with savecfg := 0x20000000400000 }

def preempt1 : Preempt := { unit := .block 2, cycle := 0 }

/-- A block of the context, with requests, the cycle, and a sub-warp in this place and wait. -/
def preempting (c : Context) (l : List Preempt) (cycle : Nat) (b : Sub) : State := st (fun y => { y with
  contexts := [(0, c)], preempts := l, time := { y.time with cycle }, warps := [{ theWarp with subs := [b] }] })

theorem test_met_Preempt_request : (preempting saver [] 0 theSub).sys.blocks.filter (fun z => unitNames (.block 2) z && !z.ending && z.engineWarp.isNone) = [theBlock] ∧
    theBlock.size = 1 ∧ unitContext (.block 2) [theBlock] = some 0 ∧ unitContext (.block 99) [] = none ∧
    ((preempting context0 [] 0 theSub).sys.context 0).saveSize = 0 ∧ ((preempting saver [preempt1] 0 theSub).sys.preempts.any (fun q => q.unit == .block 2)) = true ∧
    (preempting saver [] 0 theSub).sys.saveFits 0 ((preempting saver [] 0 theSub).sys.saveOwes 0 [theBlock]) = true ∧
    (preempting context0 [] 0 theSub).sys.saveFits 0 ((preempting context0 [] 0 theSub).sys.saveOwes 0 [theBlock]) = false :=
  ⟨by decide +kernel, rfl, by decide +kernel, by decide +kernel, by decide +kernel, by decide +kernel, by decide +kernel, by decide +kernel⟩

def mayStop (s : State) (b : Sub) : Bool :=
  decide (s.sys.preempting theBlock = some preempt1) && theBlock.started && !b.stopped && !(s.sys.die 0).halted && !s.sys.ctl.held

def boundarySub : Sub := { theSub with place := .boundary }

theorem test_met_Preempt_stop : (preempting saver [preempt1] (2 ^ 21) boundarySub).sys.warp? 1 = some { theWarp with subs := [boundarySub] } ∧
    mayStop (preempting saver [preempt1] (2 ^ 21) boundarySub) boundarySub = true ∧ boundarySub.wait = .none ∧ boundarySub.place = .boundary ∧
    mayStop (preempting saver [preempt1] (2 ^ 20) { theSub with wait := .join 0 }) { theSub with wait := .join 0 } = true ∧
    (preempting saver [preempt1] (2 ^ 20) boundarySub).permitsHere theWarp theBlock boundarySub = false :=
  ⟨rfl, by decide +kernel, rfl, rfl, by decide +kernel, by decide +kernel⟩

theorem test_met_Preempt_permits : ({ preempting saver [preempt1] (2 ^ 20) boundarySub with
      mem := (preempting saver [preempt1] (2 ^ 20) boundarySub).mem.putAll (mainKey 0 0x10008) (leBytes 8 0x7F0031F480000000) } : State).permitsHere theWarp theBlock
    boundarySub = true := by decide +kernel

def stoppedWarp : Warp := { theWarp with subs := [{ boundarySub with stopped := true }] }

def stoppedState : State := preempting saver [preempt1] (2 ^ 21) { boundarySub with stopped := true }

theorem test_met_Preempt_save : stoppedState.sys.warp? 1 = some stoppedWarp ∧ stoppedState.sys.maySave stoppedWarp theBlock = true ∧ stoppedWarp.budget ≤ 256 ∧
    (saveAccesses stoppedState stoppedWarp theBlock).all (fun a => stoppedState.sys.opens 0 a.1 a.2.1 a.2.2) = true ∧
    stoppedState.sys.accessFails (mainKey 0 (stoppedState.sys.nextFrame 0)) stoppedWarp.frameSize false = none :=
  ⟨rfl, by decide +kernel, by decide, by decide +kernel, by decide +kernel⟩

def savedWarp1 : SavedWarp := { warp := stoppedWarp, live := none, frame := 0x401000, serial := 0 }

def savedBlock1 : SavedBlock := { block := theBlock, warps := [savedWarp1], out := true, grans := [], tiles := [], frame := 0x410000, poison := [] }

/-- A frame with the control section that was written. -/
def frameMem : Memory := State.reset.mem.putAll (mainKey 0 0x401080) (controlSection 0)

def savedState : State :=
  { mem := frameMem
    sys := { machine with contexts := [(0, saver)], warps := [], blocks := [], saved := [savedBlock1] } }

theorem controlSection_length (n : Nat) : (controlSection n).length = 1920 := by simp [controlSection]

/-- What was written is read back. -/
theorem bytes_written {m : Memory} (k : Nat) (bs : List Byte) (h : m.wf = true) : (m.putAll k bs).bytes k bs.length = bs := by
  apply List.ext_getElem (by simp [Memory.bytes])
  intro i h1 h2
  simp only [Memory.bytes, List.getElem_map, List.getElem_range]
  rw [Memory.byte_putAll _ _ _ h, if_pos (by omega), Nat.add_sub_cancel_left]
  simp [h2]

theorem savedWarp1_intact : savedWarp1.intact savedState.mem = true := by
  have h := bytes_written (m := State.reset.mem) (mainKey 0 0x401080) (controlSection 0) reset_mem_wf
  rw [controlSection_length] at h
  have at_ : mainKey 0 savedWarp1.frame + 128 = mainKey 0 0x401080 := by decide
  have mem : savedState.mem = frameMem := by simp only [savedState]
  have serial : savedWarp1.serial = 0 := rfl
  rw [SavedWarp.intact, at_, mem, serial, frameMem, h]
  exact beq_self_eq_true _

theorem test_met_Preempt_restore : savedState.sys.savedCluster 2 = [savedBlock1] ∧ savedState.sys.roomBack savedBlock1 = true ∧
    savedWarp1.intact savedState.mem = true ∧ (savedState.sys.context 0).held = false ∧ (savedState.sys.context 0).frozen = false ∧
    savedState.sys.warp? 1 = none ∧ savedState.sys.block? 2 = none ∧
    (restoreReads [savedBlock1]).all (fun a => savedState.sys.opens 0 a.1 a.2.1 a.2.2) = true ∧
    savedWarp1.warp.subs.all (fun c => match c.wait with | .barrier _ _ _ _ _ => false | _ => true) = true :=
  ⟨rfl, by decide +kernel, savedWarp1_intact, by decide +kernel, by decide +kernel, rfl, rfl, by decide +kernel, by decide +kernel⟩

/-- A switch from context 0 to context 1 that has done this step. -/
def switched (p : SwitchPhase) (f : Sys → Sys) : State := st (fun y => f { y with
  contexts := [(0, saver)], switching := some { out := 0, inn := 1, phase := p, tick := 5 } })

def bare (y : Sys) : Sys := { y with warps := [], blocks := [] }

theorem test_met_Switch_begins : (preempting saver [] 0 theSub).sys.switching = none ∧ (preempting saver [] 0 theSub).sys.onHaltedDie 0 = false ∧
    (preempting saver [] 0 theSub).sys.ctl.held = false ∧
    (preempting saver [] 0 theSub).sys.saveFits 0 ((preempting saver [] 0 theSub).sys.saveNeed [theBlock] + ([] : List Nat).sum) = true ∧
    (preempting saver [] 0 theSub).sys.ownedDies 0 = [] := by decide +kernel

theorem test_met_Switch_goes_on : [ (SwitchPhase.stop, SwitchPhase.preempt), (.preempt, .drain), (.drain, .saveBins), (.saveBins, .saveScratch),
      (.saveScratch, .settle), (.settle, .install), (.install, .restore) ].all (fun x =>
        switchNext x.1 == some x.2 && !(switched x.1 id).sys.onHaltedDie 0 && !(switched x.1 id).sys.ctl.held &&
        ((switched x.1 id).sys.switching.map (·.phase)) == some x.1) = true ∧
    (∃ k ∈ (switched .preempt id).sys.blocks, k.ctx = 0) ∧ (switched .preempt bare).sys.blocks = [] ∧ (switched .preempt bare).sys.ops = [] ∧
    (switched .preempt bare).sys.reqs = [] ∧ (switched .saveScratch bare).sys.settled controlReader (mkWit 2 0 5) = .yes ∧
    (switched .saveScratch bare).sys.settled controlReader (mkWit 2 0 (2 ^ 20)) ≠ .yes ∧ ((switched .install bare).sys.savedContext 1).dies = [] ∧
    (switched .install bare).sys.saved = [] := by
  refine ⟨by decide +kernel, ⟨theBlock, by decide +kernel, rfl⟩, rfl, rfl, rfl, by decide +kernel, by decide +kernel, by decide +kernel, rfl⟩

theorem test_met_Switch_busy : (st (fun y => y.setDie 0 { y.die 0 with halted := true })).sys.onHaltedDie 0 = true ∧
    (switched .stop (fun y => y.setDie 0 { y.die 0 with halted := true })).sys.onHaltedDie 0 = true ∧
    (st (fun y => { y with ctl := { y.ctl with held := true } })).sys.ctl.held = true ∧
    (preempting context0 [] 0 theSub).sys.saveFits 0 ((preempting context0 [] 0 theSub).sys.saveOwes 0 [theBlock]) = false := by decide +kernel

/-- Die 0 has given 16 MiB of its scratchpad to context 0. -/
def owner (y : Sys) : Sys := y.setDie 0 { y.die 0 with dsrcfg := 1 }

def quietly : Sys → Sys := fun y => { bare y with bins := [bins1 bin1] }

theorem quietly_holds (p : SwitchPhase) : (switched p quietly).sys.NothingHeld :=
  ⟨rfl, rfl, rfl, rfl, by intro r hr; cases hr⟩

theorem test_met_Switch_tables : (switched .drain quietly).sys.bins.filter (fun b => b.ctx == 0) ≠ [] ∧
    (switched .drain quietly).sys.opens 0 (mainKey 0 ((switched .drain quietly).sys.nextFrame 0))
      ((([bins1 bin1] : List Bins).flatMap Bins.savedBytes).length) true = true ∧
    (switched .drain quietly).sys.accessFails (mainKey 0 ((switched .drain quietly).sys.nextFrame 0))
      ((([bins1 bin1] : List Bins).flatMap Bins.savedBytes).length) false = none := by decide +kernel

theorem owned_holds : (switched .saveBins (fun y => owner (bare y))).sys.NothingHeld := ⟨rfl, rfl, rfl, rfl, by intro r hr; cases hr⟩

theorem test_met_Switch_scratch : (switched .saveBins bare).sys.ownedDies 0 = [] ∧ (switched .saveBins (fun y => owner (bare y))).sys.ownedDies 0 = [0] ∧
    ((switched .saveBins (fun y => owner (bare y))).sys.savedContext 0).dies = [] ∧
    (switched .saveBins (fun y => owner (bare y))).sys.opens 0 (mainKey 0 ((switched .saveBins (fun y => owner (bare y))).sys.nextFrame 0))
      ((switched .saveBins (fun y => owner (bare y))).sys.dieScratch 0 0) true = true ∧
    (switched .saveBins (fun y => owner (bare y))).sys.accessFails (mainKey 0 ((switched .saveBins (fun y => owner (bare y))).sys.nextFrame 0))
      ((switched .saveBins (fun y => owner (bare y))).sys.dieScratch 0 0) false = none := by decide +kernel

/-- Tables of context 1 that are saved at 0x420000. -/
def keptTables (y : Sys) : Sys :=
  { bare y with savedContexts := [{ ctx := 1, bins := [{ bins1 bin1 with ctx := 1 }], binAt := 0x420000, dies := [] }] }

theorem test_met_Switch_restores : ((switched .install keptTables).sys.savedContext 1).bins ≠ [] ∧ ((switched .install keptTables).sys.savedContext 1).dies = [] ∧
    (switched .install keptTables).sys.saved = [] := by
  refine ⟨by decide +kernel, by decide +kernel, rfl⟩

theorem test_met_Switch_reads : ({ (switched .install keptTables).sys with contexts := [(0, saver), (1, context0)] } : Sys).opens 1 (mainKey 0 0x420000)
    ((([{ bins1 bin1 with ctx := 1 }] : List Bins).flatMap Bins.savedBytes).length) false = true := by decide +kernel

def freeze1 (h : Frozen) : Freeze := { held := h, requester := .host, ctx := 0, pa := 0, write := false, tick := 0, released := false }

theorem test_met_Freeze_release : [Frozen.context 0, .function 0, .ingress 3].all (fun h =>
    (st (fun y => { y with freezes := [freeze1 h] })).sys.freezes[0]? == some (freeze1 h)) = true ∧
    ((st (fun y => { y with freezes := [freeze1 (.function 0)] })).sys.grids.map (·.launch)).Nodup ∧ (freeze1 (.function 0)).released = false ∧
    ([{ freeze1 (.context 0) with released := true }, freeze1 (.context 0)].any (fun g => !g.released && g.held == .context 0)) = true := by decide +kernel

/-! ### The host, the extents and the registers -/

/-- The part has booted. -/
def booted (f : Sys → Sys) : State := st (fun y => f { y with ctl := { y.ctl with booted := true } })

def noRegions (y : Sys) : Sys := { y with fwRegions := Vector.replicate 64 closedRegion }

/-- A read that a home holds until the writes before it are visible. -/
def atHome (y : Sys) : Sys := { y with reqs := [{ req1 0x20000 .read with arrived := true }] }

theorem test_met_Host_access : (booted id).sys.ctl.booted = true ∧ (booted id).sys.ctl.held = false ∧ (booted id).sys.links.cxlDown = false ∧
    (booted id).sys.ctl.hostFrozen.contains 0 = false ∧ 0x20000 % 64 + [1, 2, 3].length ≤ 64 ∧ (booted id).sys.frozenFrame 0x20000 = false ∧
    (booted frozen1).sys.frozenFrame 0x20000 = true ∧ (booted atHome).sys.readWaits 0x20000 3 0 = true ∧ (booted id).sys.readWaits 0x20000 3 0 = false ∧
    (booted id).sys.permits .hostFn ((booted id).sys.hostMask 0) 0x20000 64 true = true ∧
    (booted noRegions).sys.permits .hostFn ((booted noRegions).sys.hostMask 0) 0x20000 64 true = false ∧
    ((booted id).sys.accessFails 0x20000 64 true).isSome = false ∧
    (booted (fun y => { y with poison := [0x20000] })).sys.accessFails 0x20000 64 true = some .poison ∧
    (booted (fun y => { y with dies := Vector.replicate 6 Die.reset })).sys.accessFails 0x20000 64 true = some .withdrawn ∧
    (booted (fun y => { y with ctl := { y.ctl with hostFrozen := [0] } })).sys.ctl.hostFrozen.contains 0 = true ∧
    (booted id).sys.quiet 0x20000 64 = true ∧ (booted (unseen1 0x20000)).sys.quiet 0x20000 64 = false ∧
    evEnabled (booted id).sys.ctl.evcfg = false ∧ (st id).sys.ctl.booted = false := by decide +kernel

theorem test_met_Links_left : (st (fun y => { y with links := { y.links with left := true } })).sys.links.left = true := rfl

theorem test_met_Paths : ((withReq (req1 0x20000 .read) id).sys.reqs.map (·.id)).Nodup ∧
    (∃ r ∈ (withReq (req1 (2 ^ 49) .read) (fun y => { y with ops := [op1] })).sys.reqs,
      (withReq (req1 (2 ^ 49) .read) (fun y => { y with ops := [op1] })).sys.onPath .cxl r.key = true ∧ r.op = 9) ∧
    (withReq (req1 (2 ^ 49) .read) (fun y => { y with ops := [op1] })).sys.op? 9 = some op1 ∧
    (st id).sys.links.retries.toList.getD 7 0 + 1 < 16 ∧ (st id).sys.links.left = false := by
  refine ⟨by decide +kernel, ⟨_, List.mem_singleton.mpr rfl, by decide +kernel, rfl⟩, by decide +kernel, by decide +kernel, by decide +kernel⟩

theorem test_met_Flits : (16 : Nat) ≤ (st (fun y => { y with links := { y.links with retries := y.links.retries.set 7 15 } })).sys.links.retries.toList.getD 7 0 + 1 :=
  by decide +kernel

theorem test_met_Clock : ((2 ^ 20 + 5 : Nat) + 2 ^ 52 - (st id).sys.clk) % 2 ^ 52 < 2 ^ 51 ∧ 2 ^ 51 ≤ ((5 : Nat) + 2 ^ 52 - (st id).sys.clk) % 2 ^ 52 := by decide +kernel

/-- Die 0 with all its regions in state `n`. -/
def regionsIn (n : Nat) (y : Sys) : Sys := y.setDie 0 { y.die 0 with regions := [], regionAll := { (y.die 0).regionAll with state := n } }

theorem test_met_Extents : (((st (regionsIn 1)).sys.die 0).region 5).state = 1 ∧ ((State.reset.sys.die 0).region 2047).state = 0 ∧
    (((st (regionsIn 2)).sys.die 0).region 0).state = 2 ∧ (((st (regionsIn 0)).sys.die 0).region 5).state = 0 ∧
    (st (fun y => regionsIn 2 (atHome y))).sys.reqs = [{ req1 0x20000 .read with arrived := true }] ∧
    (0x20000 < 2 ^ 48 ∧ 0x20000 / 2 ^ 37 = 0 ∧ 0x20000 % 2 ^ 37 / 2 ^ 26 = 0) ∧ (req1 0x20000 (.write [1, 2, 3, 4])).kind.writes = true := by
  decide +kernel

def dsrState (new : Option Word) (cfg : Word) : State := st (fun y => y.setDie 0 { y.die 0 with dsrNew := new, dsrcfg := cfg })

theorem test_met_Dsrcfg : dsrcfgOk 0 = true ∧ ((dsrState none 0x00010001).sys.die 0).dsrNew = none ∧
    ((dsrState (some 0) 0x00010001).sys.die 0).dsrNew = some 0 ∧ (0#64 &&& 0x0FFF000F) ≠ 0x00010001 &&& 0x0FFF000F ∧
    (bare (dsrState (some 0) 0x80010001).sys).ownersOn 0 0 0 = false ∧ dsrcfgOk (BitVec.allOnes 64) = false ∧
    ((dsrState (some 0) 0x80010001).sys.die 0).dsrcfg &&& 0x80000000 ≠ 0 := by decide +kernel

theorem test_met_Recovery : (st id).sys.ctl.recovery = false ∧ (st (fun y => { y with ctl := { y.ctl with recovery := true } })).sys.ctl.recovery = true := ⟨rfl, rfl⟩

theorem test_met_Register_ranges : (0xFFC0#64 &&& 0x7FF000000000003F = 0) ∧ (1#64 &&& 0x7FF000000000003F ≠ 0) ∧ (0x13#64 &&& 0xFFFFFFFF0000FF2C = 0) ∧ (0x6041#64 &&& 0xFFFFFFFFFFFF0FC0 ≠ 0) ∧
    (0x6001#64 &&& 0xFFFFFFFFFFFF0FC0 = 0 ∧ 0x6001#64 &&& 0x7000 ≠ 0x7000) ∧ (0xFFC0#64 &&& 63 = 0 ∧ (0xFFC0#64 &&& 0xFFFFFFFFFFC0).toNat < kind00End) ∧
    (50 ≤ bits 0x3200320032 47 32 ∧ bits 0x3200320032 31 16 ≤ 64000) ∧ (16 ≤ bits 0x10001000000000 53 48 ∧ bits 0xC010001000000000 53 48 ≤ 48) ∧
    qcfgOk 0x8100000000060000 = true ∧ qcfgOk (BitVec.allOnes 64) = false ∧ qcfgEn 0x8100000000060000 = true ∧
    qcfgEn ((st id).sys.ctl.queue 1).cfg = false := by decide +kernel

theorem test_met_Plain_registers : (0 < (65535#64).toNat ∧ (65535#64).toNat ≤ 65535) ∧ 65535 < (65536#64).toNat ∧ (7#64).toNat < 8 ∧ (63#64).toNat < 64 ∧
    PlainReg.accepts .pwrcap 999 = false ∧ PlainReg.accepts (.route 63) 8 = false ∧ (999#64).toNat < 1000 ∧ PlainReg.mailbox ≠ .remapHead ∧ 2 ^ 26 - 1 < 2 ^ 26 ∧
    (1000 ≤ (2400#64).toNat ∧ (2400#64).toNat ≤ 2400) ∧ 2400 < (2401#64).toNat ∧
    (st (fun y => { y with warps := [{ theWarp with subs := [{ theSub with wait := .debugger }] }] })).sys.block? 2 = some theBlock := by
  refine ⟨by decide, by decide, by decide, by decide, by decide, by decide, by decide, by decide, by decide, by decide, by decide, rfl⟩

/-! ### Management -/

theorem test_met_Migration_starts : (st id).sys.migration? 0 2 = none ∧ (st id).sys.ctl.held = false ∧ walkQuiet (st id) 0 0x20000 = true ∧
    walkRefused (st id) 0 2 = none ∧ smallLeaf (st id) 0 2 = some (0x46010, normalLeaf) ∧ 0x70000 % 65536 = 0 ∧ 0x70000 < kind00End ∧ 0x70000 ≠ pteFrame normalLeaf ∧
    (st id).sys.permits .engine ((st id).sys.openRegions 0) (mainKey 0 0x20000) 65536 false = true ∧
    (st id).sys.permits .engine ((st id).sys.openRegions 0) (mainKey 0 0x70000) 65536 true = true ∧
    (st noRegions).sys.permits .engine ((st noRegions).sys.openRegions 0) (mainKey 0 0x20000) 65536 false = false ∧
    walkRefused (st id) 0 3 = none ∧ (smallLeaf (st id) 0 3).isNone = true ∧ 0x70001 % 65536 ≠ 0 ∧
    walkQuiet (st (unseen1 0x46010)) 0 0x20000 = false ∧ pteFrame normalLeaf = moving.src ∧
    (st (fun y => { y with migrations := [{ moving with vpage := 9 }] })).sys.migration? 0 2 = none := by decide +kernel

/-- The engines' class is shut out of the region that is open to the cores. -/
def coresOnly (y : Sys) : Sys := { y with fwRegions := (Vector.replicate 64 closedRegion).set 0 { openRegion 0 with classes := 1 } }

theorem test_met_Migration_refused : walkRefused (st coresOnly) 0 2 = none ∧ smallLeaf (st coresOnly) 0 2 = some (0x46010, normalLeaf) ∧
    walkQuiet (st coresOnly) 0 0x20000 = true ∧
    (st coresOnly).sys.permits .engine ((st coresOnly).sys.openRegions 0) (mainKey 0 0x20000) 65536 false = false := by decide +kernel

def migrating (p : MigPhase) : State := st (fun y => { y with migrations := [{ moving with phase := p }] })

theorem test_met_Migration_goes_on : [MigPhase.freeze, .drain, .copy, .switch, .invalidate].all (fun p =>
      (migrating p).sys.migration? 0 2 == some { moving with phase := p } && !(migrating p).sys.ctl.held) = true ∧
    (migrating .freeze).sys.quiet (mainKey 0 0x20000) 65536 = true ∧ smallLeaf (migrating .copy) 0 2 = some (moving.leafKey, moving.pte) ∧
    (migrating .drain).sys.framesOnline moving = true ∧ (st (fun y => regionsIn 0 { y with migrations := [moving] })).sys.framesOnline moving = false ∧
    (migrating .copy).sys.accessFails moving.leafKey 8 false = none ∧ moving.stale = false ∧
    walkQuiet (migrating .copy) 0 0x20000 = true ∧ (migrating .invalidate).sys.sourceIdle { moving with phase := .invalidate } = true ∧
    (st (fun y => { atHome y with migrations := [{ moving with phase := .invalidate }] })).sys.sourceIdle { moving with phase := .invalidate } = false := by
  decide +kernel

theorem test_met_Migration_stale : ({ moving with phase := .copy, stale := true } : Migration).stale = true := rfl

theorem test_met_Migration_waits : (st (fun y => unseen1 0x20000 { y with migrations := [moving] })).sys.quiet (mainKey 0 0x20000) 65536 = false := by
  decide +kernel

theorem test_met_Epoch : (st (fun y => { y with ctl := { y.ctl with epoch := 0 } })).sys.ctl.epoch < (st id).sys.time.now / 2 ^ 20 ∧
    (st id).sys.time.now / 2 ^ 20 ≤ (st (fun y => { y with ctl := { y.ctl with epoch := 1 } })).sys.ctl.epoch ∧
    ((List.range 6).all (fun d => !((st id).sys.die d).remapcfg.getLsbD 63)) = true := by decide +kernel

theorem test_met_Refresh : Table.get? (st id).sys.refresh 5 = none ∧
    Table.get? (st (fun y => { y with refresh := [(5, 63, 7)] })).sys.refresh 5 = some (63, 7) ∧
    (st (fun y => { y with hot := [0], time := { y.time with cycle := 275007 } })).sys.hot.contains 0 = true ∧ 7 + 275000 ≤ 275007 ∧ 275007 < 7 + 550000 :=
  ⟨rfl, rfl, rfl, by decide, by decide⟩

def scrubbed (dirty : Bool) : State := st (fun y => { y with cached := [(0x20000, dirty)] })

theorem test_met_Scrub : (st id).sys.scrubDie (.memory 0x20000) = some 0 ∧ (st id).sys.scrubDie (.sreg 77 0) = none ∧ 0x20000 < 2 ^ 48 ∧
    Table.get? (scrubbed true).sys.cached (poisonUnit 0x20000) = some true ∧ Table.get? (scrubbed false).sys.cached (poisonUnit 0x20000) = some false ∧
    Table.get? (st id).sys.cached (poisonUnit 0x20000) = none ∧ ¬ (2 ^ 50 < 2 ^ 48) ∧
    (theWarp.setQueue 1 [.data zeroLanes, entry1]).queue 1 = [.data zeroLanes, entry1] ∧ (theWarp.queue 1).length ≤ 0 ∧
    (st id).sys.warp? 1 = some theWarp ∧ (st id).sys.block? 2 = some theBlock := by
  refine ⟨by decide +kernel, by decide +kernel, by decide +kernel, by decide +kernel, by decide +kernel, by decide +kernel, by decide, rfl,
    by decide +kernel, rfl, rfl⟩

theorem test_met_Boot : (booted id).sys.ctl.booted = true ∧ State.reset.sys.ctl.booted = false ∧ State.reset.sys.ctl.held = false ∧
    (List.replicate 32 (0 : Byte)).length = 32 ∧ evEnabled 0x8000000000030008 = true ∧ 0 < evSize 0x8000000000030008 ∧ evEnabled 0 = false := by decide +kernel

/-- One write is under way, and the event ring can take its report. -/
def reporting : State := withReq (req1 0x20000 (.write [1, 2, 3, 4])) (fun y => { y with ctl := { y.ctl with evcfg := 0x8000000000030008 } })

theorem test_met_Reset_report : reporting.sys.reqs = [req1 0x20000 (.write [1, 2, 3, 4])] ∧
    (reporting.sys.context (req1 0x20000 (.write [1, 2, 3, 4])).who.ctx).log.length < 256 ∧
    reporting.sys.op? 9 = none ∧ evEnabled reporting.sys.ctl.evcfg = true ∧
    (reporting.sys.ctl.eventTail - reporting.sys.ctl.eventHead).toNat < evSize reporting.sys.ctl.evcfg := by decide +kernel

theorem test_met_Monitors : (st id).sys.ctl.pwrcap < 2401 ∧ (0 : Nat) ≤ (st id).sys.ctl.pwrcap ∧ ((st id).sys.grids.map (·.launch)).Nodup ∧
    theBlock ∈ (withGrid grid1 id).sys.blocks ∧ (ofGrid theBlock).isTask = false ∧ dieOf theBlock.core = 0 ∧ (ofGrid theBlock).launch = grid1.launch := by decide +kernel

/-! ### The step -/

theorem test_met_Step_runs : (State.reset.withFetchWord 64 (Instr.word .nop).toNat).sys.selected = [(1, some 0)] := by decide +kernel

/-- A word before its fetch. -/
def fresh (w : Nat) : State := State.reset.withFetchWord 64 w

theorem test_met_Step_fetch : ((fresh (Instr.word .nop).toNat).sys.selected.all (fun c =>
    match (fresh (Instr.word .nop).toNat).sys.warp? c.1 with
    | some w => (match w.sub? c.2, (fresh (Instr.word .nop).toNat).sys.block? w.block with
      | some b, some k => (fresh (Instr.word .nop).toNat).sys.canIssue w k c.2 b && (match b.place with | .inside _ => true | _ => false)
      | _, _ => false)
    | none => false)) = true ∧ (match decode (Instr.word .nop) with | .ok i => i == .nop | .error _ => false) = true ∧ (match decode 0x0104050600000700 with | .ok _ => false | .error _ => true) = true := by
  decide +kernel

/-- The word at that place, which the cache lacks; `f` makes its home other. -/
def uncached (f : Sys → Sys) : Sys := f (fresh (Instr.word .nop).toNat).sys

theorem test_met_Step_code : (uncached id).hasCode 0 0x10008 = false ∧ (uncached id).accessFails 0x10008 8 false = none ∧
    (uncached id).quiet 0x10008 8 = true ∧ offPackage 0x10008 = false ∧ (uncached id).accessFails 0x10008 8 true = none ∧
    (uncached (fun y => y.cacheWord 0 0x10008 0 0 1)).hasCode 0 0x10008 = true ∧
    (uncached (fun y => { y with dies := Vector.replicate 6 Die.reset })).accessFails 0x10008 8 false = some .withdrawn ∧
    (uncached (fun y => { y with unseen := [{ origin := .host, tick := 0, key := 0x10008, size := 8, op := 0 }] })).quiet 0x10008 8 = false ∧
    (uncached (fun y => { y with poison := [0x10000] })).accessFails 0x10008 8 true = some .poison ∧
    (match fetchSelected { fresh (Instr.word .nop).toNat with sys := { (fresh (Instr.word .nop).toNat).sys with selected := [], cur := none } } (1, some 0) with
      | .run i _ => i == .nop | .change _ => false) = true := by decide +kernel

/-- A line outside the package: its request goes out, and the next try takes its answer up, or its failure. -/
def codeAsk (y : Sys) : Except Sys (Sys × List (Nat × Reason)) := y.asks (.sub 1 (some 1)) (.part 0 0) 0 [(2 ^ 48, 0x20000)]

/-- The request as `f` leaves it, once the package's part of the path is up. -/
def asked1 (f : Req → Req) : Sys :=
  let y := { State.reset.sys with ctl := { State.reset.sys.ctl with booted := true } }
  match codeAsk y with
  | .error z => { z with reqs := z.reqs.map f }
  | .ok (z, _) => z

theorem test_met_Step_asks : offPackage (2 ^ 48) = true ∧ (asked1 id).reqs.length = 1 ∧
    (match codeAsk (asked1 id) with | .ok (z, l) => z.reqs.isEmpty && l.isEmpty && (z.accessFails (2 ^ 48) 8 true).isNone | .error _ => false) = true ∧
    (match codeAsk (asked1 (fun r => { r with kind := .asked (.sub 1 (some 1)) (some .timeout) })) with
      | .ok (_, l) => l == [(2 ^ 48, .timeout)] | .error _ => false) = true := by decide +kernel

theorem test_met_Step_agenda : State.reset.sys.selected = [] ∧ State.reset.sys.agenda = [] ∧
    (st (fun y => { y with selected := [], agenda := [.visibilityTick] })).sys.agenda = .visibilityTick :: [] := ⟨rfl, rfl, rfl⟩

theorem test_met_Encode : Instr.wf (.iadd ab) = true ∧ encode (.iadd ab) = some (Instr.word (.iadd ab)) ∧ Instr.wf (.swr .fpctl (.s 4)) = true ∧
    encode (.swr .fpctl (.s 4)) = some 0x3812000400110000 := by decide +kernel

theorem test_met_Step_keeps_memory : State.reset.mem.wf = true ∧ ∃ t, step State.reset = .next t := ⟨rfl, _, rfl⟩

/-! ### More clauses of the statements -/

theorem test_met_Rounding_pick : f32Fmt ∈ [f16Fmt, f32Fmt, f64Fmt] ∧ (0x80000000#64).toNat < 2 ^ f32Fmt.width ∧
    (f32Fmt.unpack 0x80000000).isNan = false ∧ (f32Fmt.unpack 0).isNan = false ∧ fpLt (f32Fmt.unpack 0) (f32Fmt.unpack 0x80000000) = false ∧
    (f32Fmt.unpack 0x80000000).sign = true ∧ (f32Fmt.unpack 0).sign = false ∧ fpLt (f32Fmt.unpack 0x80000000) (f32Fmt.unpack 1) = true := by
  decide +kernel

/-- The header of the tests with this change of its sub-warp. -/
def headAt (f : Sub → Sub) : State := atWith head1 (fun w => { w with subs := w.subs.map f })

theorem test_met_ClauseStarts_page_end : ∃ e, Ready head1 (headAt (fun b => { b with pc := 0x1FFF8 })) e ∧
    (decide (65536 ≤ e.b.pc.toNat % 65536 + 8 * 4) && e.w.handler.isNone) = true := ready_of (by decide)

theorem test_met_ClauseStarts_flag_error : ∃ e, Ready head1 (atWith head1 (fun w => { w with flags := w.flags.set 1 { count := 0, err := some memErr } })) e ∧
    (clauseFits e && (e.w.flag 1).err.isSome && (List.range 12).all (fun k => decide ((e.w.flag k).count = 0)) && (e.w.flag 0).err.isNone) = true :=
  ready_of (by decide)

theorem test_met_ClauseStarts_abandoned : ∃ e, Ready head1 (headAt (fun b => { b with wait := .abandoned })) e ∧
    (clauseFits e && decide (e.b.wait = .abandoned)) = true := ready_of (by decide)

theorem test_met_ClauseStarts_saves : ∃ e, Ready head1 (atSys head1 (fun y => { y with
      preempts := [{ unit := .context 0, cycle := 0 }], warps := y.warps.map (fun w => { w with hint := some 0x10040 }) })) e ∧
    e.savesHere ⟨3, 1, 15, 4, true, false⟩ = true := ready_of (by decide)

/-- The header of an access slice, which names flags. -/
def sliceHead : State :=
  let s := at_ (.strmend 0xF)
  { s with sys := { s.sys with warps := s.sys.warps.map (fun w => { w with access := w.access.map (fun a => { a with sub := { a.sub with pc := 0x10000, place := .boundary } }) }) } }

theorem test_met_ClauseStarts_slice : ∃ e, Ready head1 sliceHead e ∧ e.o.isNone = true := ready_of (by decide)

/-- A word on page 3 of context 0, which `f` makes known or not. -/
def page3 (i : Instr) (f : Sys → Sys) : State := on i (fun w => w.setS 2 0x30000) (fun y => f { y with contexts := [(0, context0)] })

/-- A finished walk of page 3 for the sub-warp. -/
def walked3 (x : Walk) (y : Sys) : Sys :=
  { y with found := (y.cur.map (fun c => ({ asker := .sub c.1 c.2, die := 0, ctx := 0, vpage := 3, walk := x } : Found))).toList }

/-- The elements of the load or store stand on page 3 alone, and `p` holds of what is known of it and of what becomes of the first one's access. -/
def onPage3 (acc : Access3) (p : Option Walk → Option PageFate → Bool) (e : Env) : Bool :=
  let es := e.memElems lds1
  let w := e.s.sys.known e.asker (some e.k.core) (dieOf e.k.core) e.k.ctx 3
  !es.isEmpty && es.all (fun x => decide (0 ≤ x.ea) && decide (x.ea < 2 ^ 56) && decide (x.ea % 4 = 0) && decide (x.ea.toNat / 65536 = 3)) && e.b.set.isEmpty &&
    p w (es.head?.bind (fun x => w.map (e.s.sys.fate .core e.k.ctx { lane := x.lane, va := x.ea.toNat, len := 4, acc })))

theorem test_met_MainMemory_misses : ∃ e, Ready gath1 (page3 gath1 id) e ∧ onPage3 .read (fun w _ => w.isNone) e = true := ready_of (by decide)

theorem test_met_MainMemory_malformed : ∃ e, Ready gath1 (page3 gath1 (walked3 (.malformed 0 0))) e ∧
    onPage3 .read (fun _ r => match r with | some (.refuse .malformed _ _) => true | _ => false) e = true := ready_of (by decide)

theorem test_met_MainMemory_no_write : ∃ e, Ready scat1 (page3 scat1 (walked3 (.leaf 0 0x8000000000030001))) e ∧
    onPage3 .write (fun _ r => match r with | some (.refuse .write _ _) => true | _ => false) e = true := ready_of (by decide)

/-- The page is absent; what `f` makes of the context's places for faults; `p` holds of where the record goes and of the page's ticket. -/
def faults3 (f : Sys → Sys) (p : Sys → FaultDest → Option Ticket → Bool) : Bool :=
  let s := page3 gath1 (fun y => f (walked3 (.absent 1 0) y))
  when gath1 s (fun e => onPage3 .read (fun _ r => match r with | some (.fault 1 true 0) => true | _ => false) e &&
    p s.sys (s.sys.faultDest 0 0) (s.sys.armed? 0 3))

def ringed3 (y : Sys) : Sys := y.setContext 0 { context0 with desc := context0.desc.set 3 0x30000 }
def binned3 (b : Bin) (y : Sys) : Sys := { y.setContext 0 { context0 with desc := context0.desc.set 2 8 } with bins := [bins1 b] }

def armed3 (y : Sys) : Sys := y.setContext 0 { context0 with tickets := [{ no := 0, vpage := 3 }] }

/-- The lowest ticket is free, and its two parts can be written. -/
def ticketFree (y : Sys) : Bool :=
  let key := mainKey 0 ((y.context 0).desc[4]).toNat
  decide (y.freeTicket? 0 = some 0) && y.opens 0 key 128 true && (y.accessFails key 8 false).isNone && (y.accessFails (key + 64) 64 false).isNone

theorem test_met_MainMemory_faults : faults3 id (fun _ d t => decide (d = .none) && t.isNone) = true ∧
    faults3 armed3 (fun _ _ t => t.isSome) = true ∧ faults3 ringed3 (fun y d t => decide (d = .ring) && t.isNone && ticketFree y) = true ∧
    faults3 (binned3 bin1) (fun y d t => decide (d = .bin 0) && t.isNone && ticketFree y && bin1.room && y.posts.isEmpty) = true ∧
    faults3 (binned3 { bin1 with reserved := 2 ^ 30 }) (fun y d _ => decide (d = .bin 0) && ticketFree y && !({ bin1 with reserved := 2 ^ 30 } : Bin).room) = true := by decide +kernel

theorem faults3_hold : (page3 gath1 (fun y => ringed3 (walked3 (.absent 1 0) y))).sys.NothingHeld := ⟨rfl, rfl, rfl, rfl, by intro r hr; cases hr⟩

/-- The first trap of the elements `es` of `size` bytes, in the order of precedence, stands at place `n`. -/
def failsFirst (es : Env → List Elem) (size n : Nat) (e : Env) : Bool :=
  let fails := fun c => (es e).any (fun x => decide (elemFail (e.y.windows e.k (some e.w)) size x = some c))
  let order := [Cause.window, .scratchBounds, .spillBounds, .align]
  (order.take n).all (fun c => !fails c) && fails (order.getD n .window)

/-- The word with S2 at an address that no window holds, or one byte past a word of the own window. -/
def missesWindow (i : Instr) (es : Env → List Elem) (size : Nat) : Bool :=
  when i (atWith i (fun w => w.setS 2 0x400000)) (failsFirst es size 0) && when i (atWith i (fun w => w.setS 2 1)) (failsFirst es size 3)

theorem test_met_ScratchElements_forms :
    missesWindow (.sts lds1) (fun e => e.memElems lds1) 4 = true ∧
    missesWindow (.ldsu ⟨8, some 2, 0, .none, .w32⟩) (fun e => e.uniElem (some 2) 0) 4 = true ∧
    missesWindow (.stsu ⟨8, some 2, 0, .none, .w32⟩) (fun e => e.uniElem (some 2) 0) 4 = true ∧
    missesWindow (.ldk ⟨8, some 2, 0, 0, .none, .w32⟩) (fun e => e.blockElems ⟨8, some 2, 0, 0, .none, .w32⟩) 4 = true ∧
    missesWindow (.stk ⟨8, some 2, 0, 0, .none, .w32⟩) (fun e => e.blockElems ⟨8, some 2, 0, 0, .none, .w32⟩) 4 = true ∧
    missesWindow (.ats ⟨8, some 2, none, 0, 0, .none, .add, false⟩) (fun e => e.laneElems (some 2) none 0 0) 4 = true ∧
    missesWindow (.atsu ⟨8, some 2, 0, .none, .add, false⟩) (fun e => e.uniElem (some 2) 0) 4 = true := by decide +kernel

/-- The grammar of the tests with these rules, depth limit, number format and accumulator base, its command at the second stage. -/
def accordWith (rules limit : Nat) (half : Bool) (val : List Int) : AccordEnv :=
  { op := { accrunOp with pos := 1 }, g := { grammar1 with rules, limit, half }, val, xs := [5], rv := List.replicate rules [7], deps := List.replicate rules 1 }

/-- The descriptor's state with this symbol at the first place, and a change of the machine. -/
def symbolIs (w : Nat) (f : Sys → Sys) : State :=
  let s := accordState accrunOp 1
  { mem := s.mem.putAll 0x20100 (leBytes 4 w), sys := f s.sys }

/-- The body of one symbol stops with this status. -/
def stopsWith (a : AccordEnv) (rule : Bool) (s : State) (status : Nat) : Bool :=
  match a.body s 0 0 rule 0 0 1 a.start with
  | .ok _ => false
  | .error (e, _) => e.status == status

theorem test_met_Accord_symbols :
    stopsWith (accordWith 0 1 false [3]) false (symbolIs (2 ^ 31) id) 6 = true ∧ stopsWith (accordWith 1 0 false [3]) false (symbolIs 1 id) 7 = true ∧
    stopsWith (accordWith 0 1 true [2 ^ 22 + 1]) false (symbolIs 0 id) 3 = true ∧ stopsWith (accordWith 0 1 false [2 ^ 126]) false (symbolIs 0 id) 7 = true ∧
    stopsWith (accordWith 0 1 false [3]) false (symbolIs 0 (fun y => { y with poison := [0x20100] })) 8 = true ∧
    (match (accordWith 1 1 false [3]).symbol true 1 0 (2 ^ 31) { d := 0, acc := [0], earlier := [] } with | .error e => e.status == 5 | .ok _ => false) = true ∧
    (symbolIs 0 id).sys.op? 9 = some accrunOp := by decide +kernel

/-- The output page cannot be written: a row's write fails. -/
theorem test_met_Accord_row_write : (match (accordWith 0 1 false [3]).body (symbolIs 0 id) 0 0 false 0 0 1 (accordWith 0 1 false [3]).start with
      | .ok y => y.acc == [15] | .error _ => false) = true ∧
    ((symbolIs 0 (fun y => { y with dies := Vector.replicate 6 Die.reset })).sys.writeFails accrunOp
      ((symbolIs 0 id).sys.engineRuns 9 0 0 0x20200 16)).isSome = true := by decide +kernel

/-- One rule of one terminal: its body runs, or stops at the symbol 1. -/
theorem test_met_Accord_evaluates : (match ({ accordEnv1 with g := { grammar1 with rules := 1 } } : AccordEnv).body (symbolIs 0 id) 0 0 true 0 0 1 accordEnv1.start with
      | .ok y => y.acc == [15] | .error _ => false) = true ∧
    (match ({ accordEnv1 with g := { grammar1 with rules := 1 } } : AccordEnv).body (symbolIs 1 id) 0 0 true 0 0 1 accordEnv1.start with
      | .ok _ => false | .error (e, _) => e.status == 7) = true ∧
    accordEnv1.rv = [] ∧ accordEnv1.deps = [] ∧ 0 < grammar1.vecs ∧ (symbolIs 0 id).sys.block? 2 = some theBlock := by
  refine ⟨by decide +kernel, by decide +kernel, rfl, rfl, by decide, rfl⟩

theorem test_met_Accord_setup_checks : rising [1, 0] = false ∧
    ({ grammar1 with inp := 0x400000 } : Grammar).windowBad ((accordState accrunOp 1).sys.windows theBlock none) = true ∧
    ({ grammar1 with out := 8 } : Grammar).out % 16 ≠ 0 ∧ ¬ (262143 + 2 * 1 ≤ 1024 * theBlock.zCount) ∧
    inputs { grammar1 with half := true } [0x00, 0x7C] = none := by decide +kernel

theorem test_met_Reach : walk (st id) 0 0x20000 = .leaf 0 normalLeaf ∧ walkQuiet (st id) 0 0x20000 = true ∧ pteSparse normalLeaf = 0 ∧ pteW normalLeaf = true ∧
    (st id).sys.opens 0 0x20000 8 true = true ∧ (st noRegions).sys.opens 0 0x20000 8 true = false ∧
    walk (stLeaf 0x8000000000020001 id) 0 0x20000 = .leaf 0 0x8000000000020001 ∧ pteW 0x8000000000020001 = false ∧
    walk (stLeaf 0 id) 0 0x20000 = .absent 0 0 ∧
    (match walk (st (fun y => { y with poison := [0x46000] })) 0 0x20000 with | .failed _ => true | _ => false) = true := by decide +kernel

theorem lpb1_fields : LpbFields lpb1 where
  entries := by decide
  needs := by decide
  budget := by decide
  warps := by decide
  reserved := ⟨by decide, by decide, by decide, by decide, by decide, by decide, by
    intro i h h'; obtain rfl | rfl | rfl | rfl | rfl | rfl | rfl | rfl | rfl | rfl | rfl | rfl :
      i = 19 ∨ i = 20 ∨ i = 21 ∨ i = 22 ∨ i = 23 ∨ i = 24 ∨ i = 25 ∨ i = 26 ∨ i = 27 ∨ i = 28 ∨ i = 29 ∨ i = 30 := by omega
    all_goals rfl⟩

/-- The needs of a block of the LPB of the tests. -/
def need1 : Need := { scr := 0, spill := 0, zt := 0, budgets := [8] }

theorem need1_fits : FitsEmpty need1 16 ∧ ¬ FitsEmpty need1 17 :=
  ⟨⟨by decide, by decide, by intro p h; obtain rfl | rfl | rfl | rfl | rfl | rfl : p = 0 ∨ p = 1 ∨ p = 2 ∨ p = 3 ∨ p = 4 ∨ p = 5 := by omega
                             all_goals decide⟩,
   fun h => absurd (h.parts 0 (by decide)).2 (by decide)⟩

theorem no_ring_page (p : Nat) : ¬ RingPage [] p := by rintro ⟨j, -, h, -⟩; simp at h

/-- Every check of validation is passed: no table is named, and the ticket counter can be reached. -/
theorem test_met_Lpb_valid : lpb1.length = 32 ∧ bits (lpb1.getD 9 0) 43 32 = 0 ∧ LpbFields lpb1 ∧ LpbNames (st id) 0 (lpb1.getD 4 0) 32 16 [] ∧
    LpbNames (st id) 0 (lpb1.getD 5 0) 8 256 [] ∧ LpbNames (st id) 0 (lpb1.getD 16 0) 32 256 [] ∧ (∀ p, ¬ RingPage [] p) ∧
    (FitsEmpty need1 16 ∧ ¬ FitsEmpty need1 17) ∧ ((st id).sys.die 0).halted = false ∧ (st id).sys.frozenBy (.proc 0) = false ∧
    (match reach (st id) 0 (lpb1.getD 6 0).toNat 8 true with
      | .ok (e, key) => pteKind e == 0 && ((st id).sys.accessFails key 8 false).isNone | .error _ => false) = true := by
  refine ⟨rfl, by decide, lpb1_fields, ?_, ?_, ?_, no_ring_page, need1_fits, by decide +kernel, by decide +kernel, by decide +kernel⟩ <;> simp [LpbNames, lpb1]

theorem status8 {α : Type} {r : Except Unfit α} (h : (match r with | .error (.status 8) => true | _ => false) = true) : r = .error (.status 8) := by
  split at h
  · rfl
  · cases h

/-- A bin table whose first entry names a ring at page 9, which is not mapped. -/
def ringTable : List Word := [9, 0x90006, 0, 0]

theorem test_met_Lpb_invalid : ¬ LpbFields (lpb1.set 0 1) ∧ CannotRead (st id) 0 0x90000 16 ∧ RingPage ringTable 9 ∧
    (match reach (st id) 0 (9 * 65536) 64 true with | .error (.status 8) => true | _ => false) = true ∧
    ((lpb1.set 4 8).getD 4 0).toNat % 32 ≠ 0 ∧ ¬ FitsEmpty { need1 with budgets := [2000] } 1 ∧
    (match reach (st noRegions) 0 0x20000 8 true with | .error (.firewall _) => true | _ => false) = true := by
  have h9 : reach (st id) 0 (0x90000 + 8 * 0) 8 false = .error (.status 8) := status8 (by decide +kernel)
  refine ⟨fun h => absurd (h.entries 0 (by decide)).2 (by decide), ⟨0, [], by decide, rfl, ?_, .inl h9⟩, ⟨0, by decide, by decide, by decide⟩,
    by decide +kernel, by decide, fun h => absurd (h.parts 0 (by decide)).1 (by decide), by decide +kernel⟩
  intro j x hj; simp at hj

/-- A cooperative LPB with more blocks than could ever fit. -/
theorem test_met_Lpb_too_many : [0].length * 10 * (4 * 16 / 1) * 1 < 641 := by decide

/-- The machine of the tests with block 2 alone, whose identity is below every later one. -/
theorem test_met_Fresh : (st id).sys.Fresh := ⟨by decide +kernel, by decide +kernel⟩

theorem test_met_Places : ∃ z, (st id).sys.placeCluster openGrid 0 0 1 = some z ∧ PlacesClusters openGrid 0 1 (st id).sys z ∧ openGrid.clusterSize = 1 := by
  have h : ((st id).sys.placeCluster openGrid 0 0 1).isSome = true := by decide +kernel
  obtain ⟨z, hz⟩ := Option.isSome_iff_exists.mp h
  have one : openGrid.clusterSize = 1 := by decide
  exact ⟨z, hz, ⟨z, by rw [one]; exact hz, rfl⟩, one⟩

theorem test_met_Fills : ∃ z, FillsDies (coopGrid 1) [0] 1 (st id).sys z := by
  have h : ((st id).sys.placeCluster (coopGrid 1) 0 (0 * (coopGrid 1).clusterSize) (coopGrid 1).clusterSize).isSome = true := by decide +kernel
  obtain ⟨z, hz⟩ := Option.isSome_iff_exists.mp h
  refine ⟨z, [0], [(st id).sys, z], rfl, rfl, rfl, rfl, ?_⟩
  intro i d x hd hx
  match i, hd, hx with
  | 0, hd, hx =>
    simp at hd hx; subst hd hx
    exact ⟨by simp, by simpa using hz.symm, by simp, by simp⟩
  | n + 1, hd, _ => simp at hd

/-- A cooperative grid whose block fits on no core. -/
def badCoop : Grid := { coopGrid 1 with roles := [{ entry := 0x10000, access := 0, budget := 2000, warps := 1 }] }

theorem test_met_Fills_none : ∀ x, ¬ FillsDies badCoop [0] 1 (st id).sys x := by
  rintro x ⟨ds, ys, hd, -, h0, h1, hs⟩
  have h : ((st id).sys.placeCluster badCoop 0 (0 * badCoop.clusterSize) badCoop.clusterSize).isNone = true := by decide +kernel
  match ds, hd, hs with
  | [d], _, hs =>
    obtain ⟨hm, hp, -, -⟩ := hs 0 d _ rfl h0
    obtain rfl : d = 0 := by simpa using hm
    exact absurd (congrArg Option.isNone (h1.symm.trans hp) |>.trans h) (by simp)

/-! ### Ends, rings, causes and ports once more -/

theorem test_met_Not_yet_over : (withGrid { allEnded 0 with accept := 2 ^ 20 } id).sys.time.now < { allEnded 0 with accept := 2 ^ 20 }.accept + 2 ∧
    ({ allEnded 0 with ended := [] } : Grid).ended.length < ({ allEnded 0 with ended := [] } : Grid).blocks ∧
    (st id).sys.blockOver theBlock = false ∧ ({ taskBlock1 with engineWarp := some (0, 0, 0) } : Block).engineWarp.isSome = true ∧
    taskBlock1.engineWarp.isSome = false := by decide +kernel

theorem test_met_Head_poll : (ringAt 4 .full 0).sys.opens 0 (mainKey 2 0x30008) 4 false = true ∧ (ringAt 4 .full 0).sys.links.cxlDown = false ∧
    (4 - (4 : BitVec 32)).toNat < 4 ∧ 4 < ((9 : BitVec 32) - 4).toNat := by decide +kernel

/-- The miss of a code page hid the wait for a witness. -/
theorem test_met_Wait_under_a_miss : ({ theSub with wait := .translating [2], under := .witness 5 } : Sub).under ≠ .none := by decide

def imp2 : Imprecise := { imp1 with halts := false }

/-- Two warps of the block stand so. -/
def besideOther (l : List Imprecise) : State := st (fun y => { y with
  warps := [boundaryWarp none, { theWarp with id := 4 }], blocks := [handled], imprecise := l })

theorem boundary_none : (besideOther [imp1]).sys.NoneHandlesHalt (boundaryWarp none) := by
  rintro v (hv | ⟨_, hb, _⟩) _ _
  · have all : ∀ v ∈ (besideOther [imp1]).sys.warps, v.haltTwice (besideOther [imp1]).sys.time.cycle = false := by decide
    exact all v hv
  · cases hb

theorem test_met_Imprecise_halts : (besideOther [imp1]).sys.imprecise.find? (fun z => z.no == imp1.no) = some imp1 ∧ imp1.halts = true ∧ imp2.halts = false ∧
    (besideOther [imp1]).sys.warp? 4 = some { theWarp with id := 4 } ∧ (besideOther [imp2]).sys.imprecise.find? (fun z => z.no == imp2.no) = some imp2 ∧
    theWarp.handler = none ∧ theWarp.halt = none ∧ theWarp.sliceRaised ≠ some (besideOther [imp1]).sys.time.cycle := by
  refine ⟨by decide +kernel, rfl, rfl, rfl, by decide +kernel, rfl, rfl, by decide⟩

theorem test_met_Port_stays : (portChoices (some (2, 0)) [rival 1 3 false false true, rival 2 3 false false true]).map (·.warp) = [2, 1] ∧
    (portChoices (some (9, 0)) [rival 2 3 false false true, rival 1 3 false false true, rival 3 3 false false true]).map (·.warp) = [1, 2] ∧
    (portChoices none [rival 1 3 false false true, rival 2 3 false false false]).map (·.warp) = [1] := by decide +kernel

/-- A graph at 0x60000 is asked for. -/
def hungAt (l : List Warp) : State := st (fun y => { y with
  contexts := [(0, { context0 with hangcfg := 0xC010001000000060, hang := 65536 })], blocks := [handled], warps := l })

theorem test_met_Graph : bits ((hungAt [{ theWarp with subs := [joins] }]).sys.context 0).hangcfg 35 0 * 4096 ≠ 0 ∧
    (hungAt [{ theWarp with subs := [joins] }]).sys.opens 0 (mainKey 0 0x60000) 4096 true = true ∧
    (hungAt [{ theWarp with subs := [joins] }]).sys.accessFails (mainKey 0 0x60000) 4096 false = none ∧
    2 ^ bits ((hungAt [{ theWarp with subs := [joins] }]).sys.context 0).hangcfg 53 48 ≤ ((hungAt [{ theWarp with subs := [joins] }]).sys.context 0).hang := by
  decide +kernel

/-- Two warps of one block wait; neither is halted or in handler mode. -/
def hungTwo : State := st (fun y => { y with
  contexts := [(0, { context0 with hangcfg := 0xC010001000000000, hang := 65536 })], blocks := [handled]
  warps := [{ theWarp with subs := [joins] }, { theWarp with id := 4, index := 1, subs := [joins] }] })

theorem test_met_Hang_of_two : (hungTwo.sys.warps.map (·.id)).Nodup ∧ hungTwo.sys.warpsOf 0 = hungTwo.sys.warps ∧
    (∀ x ∈ hungTwo.sys.warpsOf 0, x.handler = none ∧ x.halt = none ∧ hungTwo.sys.NoneHandlesHalt x) := by
  refine ⟨by decide +kernel, rfl, fun x hx => ?_⟩
  have each : ∀ v ∈ hungTwo.sys.warps, v.handler = none ∧ v.halt = none ∧ v.haltTwice hungTwo.sys.time.cycle = false := by decide
  refine ⟨(each x hx).1, (each x hx).2.1, ?_⟩
  rintro v (hv | ⟨_, hb, _⟩) _ _
  · exact (each v hv).2.2
  · cases hb


/-! ### Tiles, calls, exits, streams, signals and the rest once more -/

/-- Accumulator 0, of tile 0, is bad: the member of that tile traps alone. -/
def badMember : Block := { ofGrid theBlock with nwarps := 4, badAcc := [0], handler := 0x18000 }

theorem test_met_Mmq_bad_member : ({ mmqState.sys with blocks := [badMember] } : Sys).quad badMember 0 = some [0, 1, 2, 3] ∧
    badMember.badAcc.any (fun z => z / 1024 == (mmqArrival 0).tile) = true ∧ badMember.badAcc.any (fun z => z / 1024 == (mmqArrival 1).tile) = false ∧
    badMember.handler ≠ 0 := by decide +kernel

/-- Warp 9 belongs to no cohort of warps 0 to 3; with an infinity of its own B quarter, where its pair is of float16, FORMAT goes first. -/
def outsider (f : Warp → Warp) : State := atSys mmq1 (fun y => { gridded y with warps := y.warps.map (fun w => f { w with index := 9 }) })

theorem test_met_Mmq_no_member : (∃ e, Ready mmq1 (outsider id) e ∧
      ((e.y.quad e.k 0).any (fun ms => !ms.contains e.w.index) && e.memBad.isNone) = true) ∧
    ∃ e, Ready mmq1 (outsider (fun w => { w with vregs := w.vregs.set 16 (Vector.replicate 32 0x7C00), fmt := 2 })) e ∧
      ((e.y.quad e.k 0).any (fun ms => !ms.contains e.w.index) && e.memBad.isNone && (e.w.fmt.toNat % 8 == 2) &&
        (e.groupLanes (.v 16) (groupB e.w.fmt / 4) 0).any (fun z => badHalf z != 0)) = true := ⟨ready_of (by decide +kernel), ready_of (by decide +kernel)⟩

/-- No header stands at the target. -/
theorem test_met_Call_illegal : ∃ e, Ready (.call 3 1) (atSys (.call 3 1) (fun y => { y with ops := [{ op1 with flag := some 0, pendS := [3] }] })) e ∧
    (e.guard?.isSome && (match e.target ((e.b.pc.toNat : Int) + 8) false with | .error (.trap q) => q.cause == .illegal | _ => false)) = true :=
  ready_of (by decide +kernel)

/-- The warp runs a task of bin 0. -/
theorem test_met_Exit_of_a_task : ∃ e, Ready .exit (atSys .exit (fun y => { y with blocks := y.blocks.map (fun k => { k with job := taskBlock1.job }), bins := [bins1 { bin1 with running := 1 }] })) e ∧
    (e.k.isTask && (e.y.bin? 0 0 0).any (fun b => b.running == 1)) = true := ready_of (by decide +kernel)

/-- A queue of 16 entries, of which a waiting word of the warp has taken as many as it needs before it goes on. -/
def fullQueue (w : Wait) : Warp := { (theWarp.setQueue 1 (List.replicate 16 entry1)) with subs := [{ theSub with wait := w }] }

theorem test_met_Stream_room : ((fullQueue (.queue 1 32)).queue 1).length = 16 ∧
    ((fullQueue (.queue 1 32)).queue 1).length < 16 + min 32 ((fullQueue (.queue 1 32)).queue 1).length ∧
    (∀ b ∈ (fullQueue .none).subs, b.wait = .none) := by decide +kernel

theorem test_met_Stream_asks : (match (streaming (.stream stream1) .none).access with
    | some x => (match streamLocate (streamState (.stream stream1)) (streaming (.stream stream1) .none) theBlock x stream1 with
      | .go y runs => (match y.asks (.stream 1 1) (.part 0 0) 0 (runLines runs) with | .ok (z, l) => l.isEmpty && decide (z.warps.length = y.warps.length) | .error _ => false)
      | _ => false)
    | none => false) = true := by decide +kernel

/-- Package 3 is known by a route, and may have left the domain, as this package may. -/
def toward3 (gone : List Nat) (left : Bool) : State := atSys (.sigx 0 3 4 true) (fun y => { y with
  ctl := { y.ctl with routes := [(3, 0)] }, links := { y.links with gone := gone, left := left }, warps := y.warps.map (fun w => w.setS 4 3) })

theorem test_met_Signal_targets : (∃ e, Ready (.sigx 0 3 4 true) (toward3 [] false) e ∧ (e.w.s 4 == 3) = true) ∧
    ((Table.get? (toward3 [] false).sys.ctl.routes 3).isSome ∧ (toward3 [3] false).sys.links.gone = [3] ∧ (toward3 [] true).sys.links.left = true ∧
      (toward3 [3] true).sys.ctl.packageId ≠ 3 ∧ (toward3 [] false).sys.pendingS 1 4 = false) :=
  ⟨ready_of (by decide +kernel), by decide +kernel⟩

/-- The block's one warp was saved and nothing of it is left but itself. -/
def leaving : SavedBlock := { savedBlock1 with block := theBlock, out := false }

def leftBehind : State := st (fun y => { y with contexts := [(0, saver)], warps := [], saved := [leaving] })

theorem test_met_Cluster_leaves : leftBehind.sys.warp? 1 = none ∧ leftBehind.sys.saved.find? (fun z => z.warps.any (fun q => q.warp.id == 1)) = some leaving ∧
    leaving.out = false ∧ leftBehind.sys.warps = [] ∧ leftBehind.sys.ops = [] ∧
    (leftBehind.sys.blocks.all (fun z => leftBehind.sys.saved.all (fun v => v.block.id != z.id || (v.block.first == z.first && !v.out)))) = true ∧
    (clusterFrames (leftBehind.sys.leavers leaving.block.first) (leftBehind.sys.nextFrame 0)).all (fun a => leftBehind.sys.opens 0 a.1 a.2.1 a.2.2) = true := by
  refine ⟨rfl, rfl, rfl, rfl, rfl, by decide +kernel, by decide +kernel⟩

theorem test_met_Frames_quiet : (saveAccesses stoppedState stoppedWarp theBlock).all (fun a => a.2.2 || stoppedState.sys.quiet a.1 a.2.1) = true ∧
    (restoreReads [savedBlock1]).all (fun a => a.2.2 || savedState.sys.quiet a.1 a.2.1) = true := by decide +kernel

/-- The package held in reset, or in recovery. -/
def shutDown (held recovery : Bool) (y : Sys) : Sys := { y with ctl := { y.ctl with held := held, recovery := recovery } }

theorem test_met_Shut_down : (st (shutDown true false)).sys.ctl.held = true ∧ (st (shutDown false true)).sys.ctl.recovery = true ∧
    (st (shutDown false true)).sys.ctl.held = false ∧ (st (shutDown true false)).sys.ctl.recovery = false := by decide

theorem test_met_Host_reads_poison : (booted (fun y => { y with poison := [0x20000] })).sys.poisoned 0x20000 64 = true ∧ (booted id).sys.poisoned 0x20000 64 = false ∧
    ((booted (fun y => { y with poison := [0x20000] })).sys.accessFails 0x20000 64 false).isNone = true ∧
    (booted (unseen1 0x20000)).sys.quiet 0x20000 64 = false := by decide +kernel

theorem test_met_Asked_on_a_path : (withReq askedReq id).sys.onPath .cxl askedReq.key = true ∧
    (match askedReq.kind with | .asked _ none => true | _ => false) = true ∧ (st id).sys.onPath .cxl 0x20000 = false := by decide +kernel

theorem test_met_Clock_master : (st (fun y => { y with links := { y.links with master := 2 } })).sys.links.master ≠
      (st (fun y => { y with links := { y.links with master := 2 } })).sys.ctl.packageId ∧ (st id).sys.links.master = (st id).sys.ctl.packageId := by decide

theorem test_met_Extents_over : ((st (regionsIn 0)).sys.die 0).region 5 = ((st (regionsIn 0)).sys.die 0).region 6 ∧ (((st (regionsIn 0)).sys.die 0).region 5).state ≠ 1 ∧
    (((st (regionsIn 0)).sys.die 0).region 5).state ≠ 2 ∧ (((st (regionsIn 2)).sys.die 0).region 5).state ≠ 1 := by decide +kernel

theorem test_met_Queue_line : (st id).sys.opens 0 (mainKey 0 0x60000) 12 false = true ∧ (st id).sys.quiet (mainKey 0 0x60000) 12 = true ∧
    (st id).sys.accessFails (mainKey 0 0x60000) 12 true = none ∧ (st (unseen1 (mainKey 0 0x60000))).sys.quiet (mainKey 0 0x60000) 12 = false ∧
    ((st (fun y => { y with poison := [0x60000] })).sys.accessFails (mainKey 0 0x60000) 12 true).isSome = true ∧
    (st noRegions).sys.opens 0 (mainKey 0 0x60000) 12 false = false ∧ qcfgCtx 0x8100000000060000 = 0 ∧ qcfgBase 0x8100000000060000 = 0x60000 ∧
    qcfgEn queue1.cfg = true ∧ qcfgBase queue1.cfg = 0x60000 := by decide +kernel

theorem test_met_Departed : (1#64).toNat ≤ 1 ∧ (st (fun y => { y with links := { y.links with gone := [5] } })).sys.links.gone = [5] ∧ (63#64).toNat < 64 := by decide

/-- A write that the source's home has accepted. -/
def writesSource : Req := { req1 0x20000 (.write [1, 2, 3, 4]) with arrived := true }

theorem test_met_Migration_drains : writesSource.arrived = true ∧ writesSource.kind.writes = true ∧ writesSource.bounced = false ∧
    overlaps writesSource.key writesSource.size (mainKey 0 moving.src) 65536 = true ∧
    walkQuiet (st (fun y => unseen1 0x46010 { y with migrations := [{ moving with phase := .copy }] })) 0 0x20000 = false ∧
    (st (fun y => { y with migrations := [{ moving with phase := .copy }] })).sys.opens 0 moving.leafKey 8 true = true ∧
    (st noRegions).sys.opens 0 moving.leafKey 8 true = false := by decide +kernel

end Sys2Proof.Tests
end

section
/-! Registers of the control die (R53, R412, R433, R452, R453, R462, R470): what each write of a plain register does, and the debug unit. -/

namespace Sys2Proof.Machine

/-! ### Steps of the machine and register writes -/

/-- A machine step does the change that its own comes to. -/
theorem does_of_eq {i : Instr} {s : State} {u v : Upd} (h : exec i s = machineStep s u) (huv : u = v) : Does i s v := by
  subst huv; exact h

/-- A step of system software, firmware or the host, where the package answers. -/
theorem does_inputStep {i : Instr} {s : State} {u : Upd} (h : exec i s = inputStep s u) (hr : s.sys.ctl.recovery = false)
    (hh : s.sys.ctl.held = false) : Does i s u := by
  rcases inputStep_cases s u with ⟨hc, -⟩ | ⟨-, hc⟩
  · simp [hr, hh] at hc
  · exact h.trans hc

/-- In recovery or held in reset no register of the control die answers. -/
theorem ctlWrite_shut {s : State} (ok : Bool) (f : State → Upd) (h : s.sys.ctl.recovery = true ∨ s.sys.ctl.held = true) :
    ctlWrite ok f s = .of s.sys := by
  rcases h with h | h <;> simp [ctlWrite, idle, h]

/-- An accepted write has its effect, with status OK. -/
theorem ctlWrite_accepted {s : State} (f : State → Upd) (hr : s.sys.ctl.recovery = false) (hh : s.sys.ctl.held = false) :
    ctlWrite true f s = f { s with sys := s.sys.answered .ok } := by
  simp [ctlWrite, hr, hh]

/-- A write that is not accepted leaves the status INVALID alone. -/
theorem ctlWrite_refused {s : State} (f : State → Upd) (hr : s.sys.ctl.recovery = false) (hh : s.sys.ctl.held = false) :
    ctlWrite false f s = .of (s.sys.answered .invalid) := by
  simp [ctlWrite, hr, hh]

/-! ### Plain registers (R462) -/

/-- A function other than the physical one changes nothing. -/
theorem does_registerWrite_virtual (s : State) (r : PlainReg) (v : Word) : Does (.registerWrite false r v) s (.of s.sys) := rfl

/-- The mailbox answers unless the package is held in reset. -/
theorem does_registerWrite_mailbox {s : State} (v : Word) (h : s.sys.ctl.held = false) :
    Does (.registerWrite true .mailbox v) s (.of (s.sys.plainWrite .mailbox v)) :=
  does_of_eq (exec_registerWrite _ _ _ _) (by simp [h])

theorem does_registerWrite_mailbox_held {s : State} (v : Word) (h : s.sys.ctl.held = true) :
    Does (.registerWrite true .mailbox v) s (.of s.sys) :=
  does_of_eq (exec_registerWrite _ _ _ _) (by simp [h, idle])

/-- The write of a plain register but the mailbox is one of the control die's register writes. -/
theorem exec_registerWrite_plain {r : PlainReg} (s : State) (v : Word) (h : r ≠ .mailbox) :
    exec (.registerWrite true r v) s =
      machineStep s (ctlWrite (PlainReg.accepts r v) (fun t => .of (t.sys.plainWrite r v)) s) := by
  rw [exec_registerWrite]
  simp [execRegisterWrite, h]

theorem does_registerWrite_shut {s : State} {r : PlainReg} (v : Word) (hm : r ≠ .mailbox)
    (h : s.sys.ctl.recovery = true ∨ s.sys.ctl.held = true) : Does (.registerWrite true r v) s (.of s.sys) :=
  does_of_eq (exec_registerWrite_plain s v hm) (ctlWrite_shut _ _ h)

section
variable {s : State} (hr : s.sys.ctl.recovery = false) (hh : s.sys.ctl.held = false)
include hr hh

/-- A value in range is taken, with status OK. -/
theorem does_registerWrite {r : PlainReg} (v : Word) (hm : r ≠ .mailbox) (ha : PlainReg.accepts r v = true) :
    Does (.registerWrite true r v) s (.of ((s.sys.answered .ok).plainWrite r v)) :=
  does_of_eq (exec_registerWrite_plain s v hm) (by rw [ha, ctlWrite_accepted _ hr hh])

/-- A value out of range is refused. -/
theorem does_registerWrite_invalid {r : PlainReg} (v : Word) (hm : r ≠ .mailbox) (ha : PlainReg.accepts r v = false) :
    Does (.registerWrite true r v) s (.of (s.sys.answered .invalid)) :=
  does_of_eq (exec_registerWrite_plain s v hm) (by rw [ha, ctlWrite_refused _ hr hh])

theorem does_faultLogClear (ctx : Nat) : Does (.faultLogClear ctx) s
    (.of ((s.sys.answered .ok).setContext ctx { s.sys.context ctx with log := [], dropped := 0 })) :=
  does_of_eq (exec_faultLogClear _ _) (by rw [ctlWrite_accepted _ hr hh]; rfl)

/-- Clearing the whole Sillage table changes no warp. -/
theorem does_sillageClear_whole : ∃ u, Does (.sillageClear none) s u ∧ u.stores = [] ∧
    u.sys.ctl = { s.sys.ctl with sillage := [], status := .ok } ∧ u.sys.warps = s.sys.warps :=
  ⟨_, does_of_eq (exec_sillageClear _ _) (ctlWrite_accepted _ hr hh), rfl, rfl, rfl⟩

/-- Clearing a core's entries of the Sillage table changes no warp. -/
theorem does_sillageClear_core (n : Nat) : ∃ u, Does (.sillageClear (some n)) s u ∧ u.stores = [] ∧
    u.sys.ctl = { s.sys.ctl with sillage := s.sys.ctl.sillage.filter (fun e => e.1 / 64 != n), status := .ok } ∧
    u.sys.warps = s.sys.warps :=
  ⟨_, does_of_eq (exec_sillageClear _ _) (ctlWrite_accepted _ hr hh), rfl, rfl, rfl⟩

end

theorem does_faultLogClear_shut {s : State} (ctx : Nat) (h : s.sys.ctl.recovery = true ∨ s.sys.ctl.held = true) :
    Does (.faultLogClear ctx) s (.of s.sys) :=
  does_of_eq (exec_faultLogClear _ _) (ctlWrite_shut _ _ h)

/-! ### The values of some registers -/

theorem bits_low_two (v : Word) : bits v 1 0 = (v &&& 3).toNat := by
  rw [BitVec.toNat_and]
  exact (Nat.and_two_pow_sub_one_eq_mod v.toNat 2).symm

/-- A firewall region takes its fields as R53 lays them out. -/
theorem Sys.plainWrite_region (y : Sys) (n lo hi : Nat) (v : Word) : y.plainWrite (.region n (lo, hi)) v =
    { y with fwRegions := y.fwRegions.setIfInBounds n { base := lo, limit := hi, kind := (v &&& 3).toNat, read := v.getLsbD 2,
                                                        write := v.getLsbD 3, classes := v.extractLsb' 4 4 } } := by
  simp only [Sys.plainWrite, regionFrom, bits_low_two]

theorem zeroBits_63_1 {v : Word} (h : v.toNat ≤ 1) : zeroBits v 63 1 = true := by
  simp only [zeroBits, bits, Nat.shiftRight_eq_div_pow, beq_iff_eq]
  omega

theorem getLsbD_zero_of_le_one {v : Word} (h : v.toNat ≤ 1) : v.getLsbD 0 = true ↔ v.toNat = 1 := by
  simp only [BitVec.getLsbD, Nat.testBit_zero, decide_eq_true_eq]
  omega

/-- The packages that have left the domain after a write of one of them (R468). -/
theorem mem_departed {v : Word} (h : v.toNat ≤ 1) (l : List Nat) (n id : Nat) :
    id ∈ l.filter (· != n) ++ (if v.getLsbD 0 then [n] else []) ↔ if id = n then v.toNat = 1 else id ∈ l := by
  have hv := getLsbD_zero_of_le_one h
  by_cases hid : id = n
  · subst hid
    cases hb : v.getLsbD 0 <;> simp_all
  · cases hb : v.getLsbD 0 <;> simp [hid]

/-! ### The debug unit (R412, R453) -/

/-- A sub-warp that halted for the debugger goes on. -/
def Sub.unbroken (b : Sub) : Sub := if b.wait = .debugger then { b with wait := .none } else b

@[simp] theorem Sub.unbroken_id (b : Sub) : b.unbroken.id = b.id := by
  unfold Sub.unbroken
  split <;> rfl

/-- The sub-warps of a warp that halted for the debugger go on. -/
def Warp.unbroken (w : Warp) : Warp := { w with subs := w.subs.map Sub.unbroken }

theorem Warp.unbroken_sub? {w : Warp} {k : Nat} {b : Sub} (h : w.sub? (some k) = some b) :
    w.unbroken.sub? (some k) = some b.unbroken := by
  simp only [Warp.sub?, Warp.unbroken, List.find?_map] at h ⊢
  have : ((fun b : Sub => b.id == k) ∘ Sub.unbroken) = (fun b : Sub => b.id == k) := by funext b; simp
  rw [this, h]; rfl

/-- The state after a claim of the debug unit ends. -/
def Sys.unclaimed (y : Sys) (ctx : Nat) : Sys :=
  { y.setContext ctx { y.context ctx with claimed := false } with
    warps := y.warps.map (fun w => if ((y.block? w.block).map (fun k => k.ctx == ctx)).getD false then w.unbroken else w) }

theorem does_debugUnitClaim (s : State) (ctx : Nat) :
    Does (.debugUnitClaim ctx true) s (.of (s.sys.setContext ctx { s.sys.context ctx with claimed := true })) := rfl

theorem does_debugUnitClaim_end (s : State) (ctx : Nat) : Does (.debugUnitClaim ctx false) s (.of (s.sys.unclaimed ctx)) := rfl

theorem Sys.unclaimed_context (y : Sys) (ctx : Nat) : ((y.unclaimed ctx).context ctx).claimed = false := by
  have : (y.unclaimed ctx).context ctx = (y.setContext ctx { y.context ctx with claimed := false }).context ctx := rfl
  rw [this, Sys.context_setContext]; simp

/-- A warp of the context goes on where the debugger had halted it. -/
theorem Sys.unclaimed_warp? {y : Sys} {id ctx : Nat} {w : Warp} {k : Block} (hw : y.warp? id = some w)
    (hk : y.block? w.block = some k) (hc : k.ctx = ctx) : (y.unclaimed ctx).warp? id = some w.unbroken := by
  let f : Warp → Warp := fun w => if ((y.block? w.block).map (fun k => k.ctx == ctx)).getD false then w.unbroken else w
  have hf : ((fun v : Warp => v.id == id) ∘ f) = (fun v => v.id == id) := by
    funext v
    simp only [f, Function.comp]
    split <;> rfl
  have hw' : y.warps.find? (fun v => v.id == id) = some w := hw
  change (y.warps.map f).find? (fun v => v.id == id) = _
  rw [List.find?_map, hf, hw']
  simp [f, hk, hc]

end Sys2Proof.Machine

open Sys2Proof Sys2Proof.Machine

/-- Settles O50: each write is one case of `ctlWrite`, by whether the package answers and whether the register accepts the value; the
debug unit's steps act on the context, its warps or the die alone. -/
theorem plainRegisterWrites : Obligations.PlainRegisterWrites := by
  unfold Obligations.PlainRegisterWrites
  intro s die ctx n r v mask core w k b lo hi
  refine ⟨does_registerWrite_virtual s r v, fun hh => does_registerWrite_mailbox v hh,
    fun h => ⟨fun hm => does_registerWrite_shut v hm h, does_faultLogClear_shut ctx h⟩,
    fun hh => does_registerWrite_mailbox_held v hh, ?_, ?_, rfl, rfl⟩
  · intro hr hh
    have accepts : ∀ r : PlainReg, r ≠ .mailbox → PlainReg.accepts r v = true →
        Does (.registerWrite true r v) s (.of ((s.sys.answered .ok).plainWrite r v)) :=
      fun r => does_registerWrite hr hh v
    have refuses : ∀ r : PlainReg, r ≠ .mailbox → PlainReg.accepts r v = false →
        Does (.registerWrite true r v) s (.of (s.sys.answered .invalid)) :=
      fun r => does_registerWrite_invalid hr hh v
    refine ⟨refuses r, accepts .remapHead (by simp) rfl, accepts .eventHead (by simp) rfl, accepts (.capva ctx) (by simp) rfl,
      ?grp, ?grpBad, ?route, ?pwr, ?pwrBad, ?package, accepts (.hostMask n) (by simp) rfl, ?port, ?region, ?clock, ?departed,
      ?other, ?otherBad, does_faultLogClear hr hh ctx, ?sillage⟩
    case grp => exact fun h1 h2 h3 => accepts (.grpcfg n mask) (by simp) (by simp [PlainReg.accepts]; omega)
    case grpBad => exact fun h => refuses (.grpcfg n mask) (by simp) (by simp [PlainReg.accepts]; omega)
    case route => exact fun h1 h2 => accepts (.route n) (by simp) (by simp [PlainReg.accepts, h1, h2])
    case pwr => exact fun h1 h2 => accepts .pwrcap (by simp) (by simp [PlainReg.accepts, h1, h2])
    case pwrBad => exact fun h => refuses .pwrcap (by simp) (by simp [PlainReg.accepts]; omega)
    case package => exact fun h => accepts .packageId (by simp) (by simp [PlainReg.accepts, h])
    case port => exact fun h => accepts (.portMask n) (by simp) (by simp [PlainReg.accepts, h])
    case region =>
      intro h
      have := accepts (.region n (lo, hi)) (by simp) (by simp [PlainReg.accepts, h])
      rwa [Sys.plainWrite_region] at this
    case clock => exact fun h => accepts .clockMaster (by simp) (by simp [PlainReg.accepts, h])
    case departed =>
      intro h1 h2
      refine ⟨_, accepts (.departed n) (by simp) (by simp [PlainReg.accepts, h1, zeroBits_63_1 h2]), rfl, rfl, rfl, ?_⟩
      exact mem_departed h2 s.sys.links.gone n
    case other => exact fun h1 h2 => accepts (.other n) (by simp) (by simpa [PlainReg.accepts, h2] using h1)
    case otherBad =>
      intro h
      refine refuses (.other n) (by simp) ?_
      rcases h with h | h
      · simpa [PlainReg.accepts] using fun hn : n < 67108864 => absurd hn (by omega)
      · simp [PlainReg.accepts, h]
    case sillage =>
      obtain ⟨u, hu, hus, huc, huw⟩ := does_sillageClear_whole hr hh
      obtain ⟨t, ht, hts, htc, htw⟩ := does_sillageClear_core hr hh core
      exact ⟨u, t, hu, hus, huc, ht, hts, htc, huw, htw⟩
  · refine ⟨_, _, does_debugUnitClaim s ctx, does_debugUnitClaim_end s ctx, rfl, rfl, rfl, s.sys.unclaimed_context ctx, ?_⟩
    intro hw hk hc hb
    exact ⟨w.unbroken, Sys.unclaimed_warp? hw hk hc, Warp.unbroken_sub? hb, rfl⟩

end

section
/-! Home caches (R69, R149): a read of the control die, of an engine or of a walk fills the home caches, and changes nothing that
another access is judged by. -/

namespace Sys2Proof.Machine

/-! ### Dies -/

theorem Sys.die_setDie (y : Sys) (n d : Nat) (x : Die) :
    (y.setDie n x).die d = if d = n ∧ n < 6 then x else y.die d := by
  simp only [Sys.die, Sys.setDie, Vector.toList_setIfInBounds, List.getD_eq_getElem?_getD, List.getElem?_set, Vector.length_toList]
  by_cases h : n = d
  · subst h
    by_cases h6 : n < 6
    · simp [h6]
    · simp [h6]
  · simp [h, Ne.symm h]

theorem Die.region_set (d : Die) (t : Nat) (g : Region) (r : Nat) :
    ({ d with regions := Table.set d.regions t g } : Die).region r = if r = t then g else d.region r := by
  simp only [Die.region, Table.getD, Table.get?_set]
  split <;> rfl

/-- A row conflict counts in its region, and changes no region's state. -/
theorem Die.conflict_region_state (d : Die) (t ctx vpage r : Nat) : ((d.conflict t ctx vpage).region r).state = (d.region r).state := by
  have : (d.conflict t ctx vpage).region r =
      ({ d with regions := Table.set d.regions t { d.region t with conf := Nat.min ((d.region t).conf + 1) 0xFFFF } } : Die).region r := rfl
  rw [this, Die.region_set]
  split
  · next h => subst h; rfl
  · rfl

/-! ### What fills change -/

/-- `z` is `y` after some fills of home caches: the sectors cached, and of the dies what their stacks count; every region is as it was. -/
structure Sys.Filled (y z : Sys) : Prop where
  rest : z = { y with dies := z.dies, cached := z.cached }
  states : ∀ d r, ((z.die d).region r).state = ((y.die d).region r).state

namespace Sys.Filled

theorem refl (y : Sys) : y.Filled y := ⟨rfl, fun _ _ => rfl⟩

theorem trans {x y z : Sys} (h : x.Filled y) (g : y.Filled z) : x.Filled z where
  rest := by rw [g.rest, h.rest]
  states d r := (g.states d r).trans (h.states d r)

/-- Fills in turn. -/
theorem foldl {α : Type} (f : Sys → α → Sys) (h : ∀ (y : Sys) a, y.Filled (f y a)) (l : List α) (y : Sys) : y.Filled (l.foldl f y) := by
  induction l generalizing y with
  | nil => exact .refl y
  | cons a l ih => exact (h y a).trans (ih _)

/-- A die's counts change. -/
theorem setDie {y : Sys} {n : Nat} {x : Die} (h : ∀ r, (x.region r).state = ((y.die n).region r).state) : y.Filled (y.setDie n x) where
  rest := rfl
  states d r := by
    rw [Sys.die_setDie]
    split
    · next hd => rw [hd.1, h]
    · rfl

theorem setCached (y : Sys) (c : Table Bool) : y.Filled { y with cached := c } := ⟨rfl, fun _ _ => rfl⟩

theorem stackRead (y : Sys) (q : Wanted) : y.Filled (y.stackRead q) := by
  unfold Sys.stackRead
  dsimp only
  split
  · split
    · exact .refl y
    · exact .setDie fun r => Die.conflict_region_state _ _ _ _ r
  · exact .setDie fun r => rfl

/-- An access fills the sectors that it needs. -/
theorem fillFor (y : Sys) (key n : Nat) (write : Bool) (ctx vpage : Nat) : y.Filled (y.fillFor key n write ctx vpage) :=
  .foldl _ (fun z _ => (Filled.stackRead z _).trans (.setCached _ _)) _ y

theorem fillReads (l : List (Nat × Nat)) (ctx : Nat) (y : Sys) : y.Filled (l.foldl (fun z x => z.fillFor x.1 x.2 false ctx 0) y) :=
  .foldl _ (fun z _ => fillFor z _ _ _ _ _) l y

/-- A walk fills the caches with the entries that it reads. -/
theorem walkFills (s : State) (ctx va : Nat) (y : Sys) : y.Filled (walkFills s ctx va y) :=
  .foldl _ (fun z _ => fillFor z _ _ _ _ _) _ y

section
variable {y z : Sys} (h : y.Filled z)
include h

/-- A part of the machine that no fill changes. -/
theorem keeps {α : Type} (f : Sys → α) (hf : ∀ y D C, f { y with dies := D, cached := C } = f y) : f z = f y := by
  rw [h.rest, hf]

theorem warps : z.warps = y.warps := h.keeps Sys.warps fun _ _ _ => rfl
theorem ops : z.ops = y.ops := h.keeps Sys.ops fun _ _ _ => rfl
theorem time : z.time = y.time := h.keeps Sys.time fun _ _ _ => rfl
theorem ctl : z.ctl = y.ctl := h.keeps Sys.ctl fun _ _ _ => rfl
theorem tlb : z.tlb = y.tlb := h.keeps Sys.tlb fun _ _ _ => rfl
theorem found : z.found = y.found := h.keeps Sys.found fun _ _ _ => rfl
theorem misses : z.misses = y.misses := h.keeps Sys.misses fun _ _ _ => rfl
theorem migrations : z.migrations = y.migrations := h.keeps Sys.migrations fun _ _ _ => rfl
theorem context (c : Nat) : z.context c = y.context c := h.keeps (·.context c) fun _ _ _ => rfl
theorem ctxTag (c : Nat) : z.ctxTag c = y.ctxTag c := h.keeps (·.ctxTag c) fun _ _ _ => rfl
theorem op? (n : Nat) : z.op? n = y.op? n := h.keeps (·.op? n) fun _ _ _ => rfl
theorem quiet (k n : Nat) : z.quiet k n = y.quiet k n := h.keeps (·.quiet k n) fun _ _ _ => rfl
theorem poisoned (k n : Nat) : z.poisoned k n = y.poisoned k n := h.keeps (·.poisoned k n) fun _ _ _ => rfl
theorem opens (ctx k n : Nat) (w : Bool) : z.opens ctx k n w = y.opens ctx k n w := h.keeps (·.opens ctx k n w) fun _ _ _ => rfl
theorem homeKey (k pa : Nat) : z.homeKey k pa = y.homeKey k pa := h.keeps (·.homeKey k pa) fun _ _ _ => rfl
theorem malformed (l : Nat) (e : Word) : malformedEntry z l e = malformedEntry y l e :=
  h.keeps (malformedEntry · l e) fun _ _ _ => rfl

theorem online (pa : Nat) : z.online pa = y.online pa := by simp only [Sys.online, h.states]

/-- Accesses fail as before. -/
theorem accessFails (k n : Nat) (reads : Bool) : z.accessFails k n reads = y.accessFails k n reads := by
  have hl : z.links = y.links := h.keeps Sys.links fun _ _ _ => rfl
  have hp : ∀ pa, z.peerDown pa = y.peerDown pa := fun pa => h.keeps (·.peerDown pa) fun _ _ _ => rfl
  simp only [Sys.accessFails, h.online, h.poisoned, hl, hp]

end

end Sys.Filled

/-! ### Walks (R19 to R25, R31) -/

theorem walkFrom_filled {s : State} {z : Sys} (h : s.sys.Filled z) (ctx va table fuel : Nat) :
    walkFrom { s with sys := z } ctx va table fuel = walkFrom s ctx va table fuel := by
  induction fuel generalizing table with
  | zero => rfl
  | succ l ih => simp only [walkFrom, h.online, h.opens, h.poisoned, h.malformed, ih]

/-- A walk ends as before. -/
theorem walk_filled {s : State} {z : Sys} (h : s.sys.Filled z) (ctx va : Nat) : walk { s with sys := z } ctx va = walk s ctx va := by
  simp only [walk, h.context, walkFrom_filled h]

theorem leafKeyFrom_filled (s : State) (z : Sys) (va table fuel : Nat) :
    leafKeyFrom { s with sys := z } va table fuel = leafKeyFrom s va table fuel := by
  induction fuel generalizing table with
  | zero => rfl
  | succ l ih => simp only [leafKeyFrom, ih]

theorem leafKey_filled {s : State} {z : Sys} (h : s.sys.Filled z) (ctx va : Nat) :
    leafKey { s with sys := z } ctx va = leafKey s ctx va := by
  simp only [leafKey, h.context, leafKeyFrom_filled]

/-! ### Accesses of the control die (R54, R89, R155, R158) -/

/-- The control die's accesses that nothing stands against: every one is open, every read quiet, and none fails; their reads fill the caches. -/
theorem Sys.ctlFate_go_iff (y z : Sys) (ctx : Nat) (l : List (Nat × Nat × Bool)) : y.ctlFate ctx l = .go z ↔
    (∀ x ∈ l, y.opens ctx x.1 x.2.1 x.2.2 = true) ∧ (∀ x ∈ l, x.2.2 = false → y.quiet x.1 x.2.1 = true) ∧
      (∀ x ∈ l, y.accessFails x.1 x.2.1 (!x.2.2) = none) ∧
      z = ((l.filter (fun x => !x.2.2)).map (fun x => (x.1, x.2.1))).foldl (fun z x => z.fillFor x.1 x.2 false ctx 0) y := by
  unfold Sys.ctlFate
  cases hf : l.find? (fun x => !y.opens ctx x.1 x.2.1 x.2.2) with
  | some x =>
    have hx := List.find?_some hf
    have hm := List.mem_of_find?_eq_some hf
    refine ⟨fun h => by simp at h, fun h => ?_⟩
    simp [h.1 x hm] at hx
  | none =>
    have ho : ∀ x ∈ l, y.opens ctx x.1 x.2.1 x.2.2 = true := by simpa using hf
    dsimp only
    split
    · next hq =>
      refine ⟨fun h => by simp at h, fun h => ?_⟩
      obtain ⟨x, hx, hn⟩ := List.any_eq_true.1 hq
      obtain ⟨a, ha, rfl⟩ := List.mem_map.1 hx
      have ⟨hl, hr⟩ := List.mem_filter.1 ha
      simp [h.2.1 a hl (by simpa using hr)] at hn
    · next hq =>
      have hq' : ∀ x ∈ l, x.2.2 = false → y.quiet x.1 x.2.1 = true := by
        simpa using hq
      cases hs : l.findSome? (fun x => y.accessFails x.1 x.2.1 (!x.2.2)) with
      | some r =>
        refine ⟨fun h => by simp at h, fun h => ?_⟩
        obtain ⟨a, ha, hr⟩ := List.exists_of_findSome?_eq_some hs
        simp [h.2.2.1 a ha] at hr
      | none =>
        have hs' := List.findSome?_eq_none_iff.1 hs
        exact ⟨fun h => ⟨ho, hq', hs', by simpa using h.symm⟩, fun h => by rw [h.2.2.2]⟩

/-! ### Writes of the control die (R88, R126) -/

/-- `z` is `y` after some writes of the control die: besides what fills change, the poison that they clean, the migrations whose leaf they
write, and the writes that are not visible yet. -/
structure Sys.Written (y z : Sys) : Prop where
  rest : z = { y with dies := z.dies, cached := z.cached, poison := z.poison, migrations := z.migrations, unseen := z.unseen }
  states : ∀ d r, ((z.die d).region r).state = ((y.die d).region r).state

theorem Sys.Filled.written {y z : Sys} (h : y.Filled z) : y.Written z where
  rest := by rw [h.rest]
  states := h.states

namespace Sys.Written

theorem refl (y : Sys) : y.Written y := ⟨rfl, fun _ _ => rfl⟩

theorem trans {x y z : Sys} (h : x.Written y) (g : y.Written z) : x.Written z where
  rest := by rw [g.rest, h.rest]
  states d r := (g.states d r).trans (h.states d r)

theorem of_dies {y z : Sys} (hd : z.dies = y.dies)
    (h : z = { y with dies := z.dies, cached := z.cached, poison := z.poison, migrations := z.migrations, unseen := z.unseen }) :
    y.Written z :=
  ⟨h, fun _ _ => by simp only [Sys.die, hd]⟩

theorem performed (y : Sys) (o : Origin) (tick key n op : Nat) : y.Written (y.performed o tick key n op) := by
  unfold Sys.performed Sys.staled Sys.dirty Sys.cleaned
  dsimp only
  split <;> exact .of_dies rfl rfl

theorem commandPut (op key : Nat) (bs : List Byte) (s : State) : s.sys.Written (commandPut op key bs s).sys := by
  unfold Machine.commandPut
  split
  · exact .refl _
  · exact (Filled.fillFor _ _ _ _ _ _).written.trans (.performed _ _ _ _ _ _)

theorem zeroFrame (op frame : Nat) (s : State) : s.sys.Written (zeroFrame op frame s).sys := by
  unfold Machine.zeroFrame
  split
  · exact .refl _
  · exact .performed _ _ _ _ _ _

section
variable {y z : Sys} (h : y.Written z)
include h

/-- A part of the machine that no write of the control die changes. -/
theorem keeps {α : Type} (f : Sys → α)
    (hf : ∀ y D C P M U, f { y with dies := D, cached := C, poison := P, migrations := M, unseen := U } = f y) : f z = f y := by
  rw [h.rest, hf]

theorem ops : z.ops = y.ops := h.keeps Sys.ops fun _ _ _ _ _ _ => rfl
theorem time : z.time = y.time := h.keeps Sys.time fun _ _ _ _ _ _ => rfl
theorem heldFaults : z.heldFaults = y.heldFaults := h.keeps Sys.heldFaults fun _ _ _ _ _ _ => rfl
theorem context (c : Nat) : z.context c = y.context c := h.keeps (·.context c) fun _ _ _ _ _ _ => rfl
theorem ctxTag (c : Nat) : z.ctxTag c = y.ctxTag c := h.keeps (·.ctxTag c) fun _ _ _ _ _ _ => rfl
theorem online (pa : Nat) : z.online pa = y.online pa := by simp only [Sys.online, h.states]

/-- Other writes reach their homes as before. -/
theorem accessFails (k n : Nat) : z.accessFails k n false = y.accessFails k n false := by
  have hl : z.links = y.links := h.keeps Sys.links fun _ _ _ _ _ _ => rfl
  have hp : ∀ pa, z.peerDown pa = y.peerDown pa := fun pa => h.keeps (·.peerDown pa) fun _ _ _ _ _ _ => rfl
  simp only [Sys.accessFails, h.online, hl, hp, Bool.false_and]

end

end Sys.Written

/-- Whether a write reaches its home does not depend on its length. -/
theorem Sys.accessFails_length (y : Sys) (k n m : Nat) : y.accessFails k n false = y.accessFails k m false := by
  simp only [Sys.accessFails, Bool.false_and]

/-- A write of the control die to a home that serves it is stored. -/
theorem commandPut_stores {s : State} {key n : Nat} (op : Nat) (bs : List Byte) (h : s.sys.accessFails key n false = none) :
    (commandPut op key bs s).stores = [.bytes key bs] := by
  rw [Sys.accessFails_length _ _ _ bs.length] at h
  simp [commandPut, h]

theorem zeroFrame_stores {s : State} {frame n : Nat} (op : Nat) (h : s.sys.accessFails (mainKey 0 frame) n false = none) :
    (zeroFrame op frame s).stores = [.clear (mainKey 0 frame) 65536] := by
  rw [Sys.accessFails_length _ _ _ 65536] at h
  simp [zeroFrame, h]

end Sys2Proof.Machine
end

section
/-! The host fault ring (R43), walks and finished translation sets (R30, R36, R37), and invalidations (R32, R33). -/

namespace Sys2Proof.Machine

/-! ### The host fault ring (R43) -/

@[simp] theorem Sys.setContext_context (y : Sys) (n : Nat) (c : Context) : (y.setContext n c).context n = c := by
  simp [Sys.context_setContext]

theorem Context.hasRead_eq (c : Context) (r : BitVec 32) :
    c.hasRead r = { c with ringStale := (c.hasRead r).ringStale } := by
  unfold Context.hasRead
  split <;> rfl

@[simp] theorem Context.hasRead_ringTail (c : Context) (r : BitVec 32) : (c.hasRead r).ringTail = c.ringTail := by
  rw [Context.hasRead_eq]

@[simp] theorem Context.hasRead_ringState (c : Context) (r : BitVec 32) : (c.hasRead r).ringState = c.ringState := by
  rw [Context.hasRead_eq]

@[simp] theorem Context.hasRead_ringSize (c : Context) (r : BitVec 32) : (c.hasRead r).ringSize = c.ringSize := by
  rw [Context.hasRead_eq]; rfl

@[simp] theorem Context.hasRead_hostRing (c : Context) (r : BitVec 32) : (c.hasRead r).hostRing = c.hostRing := by
  rw [Context.hasRead_eq]; rfl

theorem raiseEvent_heldFaults (s : State) (ty ctx : Nat) (a0 a1 : Word) :
    (raiseEvent s ty ctx a0 a1).sys.heldFaults = s.sys.heldFaults :=
  (congrArg Sys.heldFaults (raiseEvent_rest s ty ctx a0 a1) :)

/-- A reading that leaves more records than the ring holds stops the ring, and no record is lost. -/
theorem ringError_spec (s : State) (ctx : Nat) : ((ringError s ctx).sys.context ctx).ringState = .error ∧
    (ringError s ctx).sys.heldFaults = s.sys.heldFaults := by
  simp [ringError, raiseEvent_heldFaults]

/-- The record `f` is held no longer, and TAIL has advanced. -/
def Sys.takeFault (y : Sys) (ctx : Nat) (f : HeldFault) (c : Context) : Sys :=
  let y := y.setContext ctx { c with ringTail := c.ringTail + 1 }
  { y with heldFaults := y.heldFaults.erase f }

theorem Sys.takeFault_ringTail (y : Sys) (ctx : Nat) (f : HeldFault) (c : Context) :
    ((y.takeFault ctx f c).context ctx).ringTail = c.ringTail + 1 :=
  congrArg Context.ringTail (Sys.setContext_context _ _ _)

theorem Sys.takeFault_heldFaults (y : Sys) (ctx : Nat) (f : HeldFault) (c : Context) :
    (y.takeFault ctx f c).heldFaults = y.heldFaults.erase f := rfl

theorem Sys.takeFault_accessFails (y : Sys) (ctx : Nat) (f : HeldFault) (c : Context) (k n : Nat) (reads : Bool) :
    (y.takeFault ctx f c).accessFails k n reads = y.accessFails k n reads := rfl

/-- The change by which a record goes to its slot and TAIL advances. -/
def putFault (ctx : Nat) (f : HeldFault) (c : Context) (at_ slot : Nat) (s : State) : Upd :=
  Upd.andThen s (hostPut slot (wordBytes f.record) { s with sys := s.sys.takeFault ctx f c }) (fun t =>
    Upd.andThen t (hostPut at_ (leBytes 4 (c.ringTail + 1).toNat) t) (fun t1 => raiseEvent t1 4 ctx (c.ringTail.zeroExtend 64) 0))

/-- A record that is written is held no longer, and TAIL has advanced. -/
theorem putFault_sys (ctx : Nat) (f : HeldFault) (c : Context) (at_ slot : Nat) (s : State) :
    ((putFault ctx f c at_ slot s).sys.context ctx).ringTail = c.ringTail + 1 ∧
      (putFault ctx f c at_ slot s).sys.heldFaults = s.sys.heldFaults.erase f := by
  simp only [putFault, Upd.andThen_sys, raiseEvent_context, raiseEvent_heldFaults, commit_sys, hostPut,
    (Sys.Written.commandPut _ _ _ _).context, (Sys.Written.commandPut _ _ _ _).heldFaults, Sys.takeFault_ringTail,
    Sys.takeFault_heldFaults, and_self]

/-- The record is stored in its slot, and then TAIL. -/
theorem putFault_stores {s : State} {at_ slot n m : Nat} (ctx : Nat) (f : HeldFault) (c : Context)
    (hs : s.sys.accessFails slot n false = none) (ha : s.sys.accessFails at_ m false = none) :
    (putFault ctx f c at_ slot s).stores.take 2 =
      [.bytes slot (wordBytes f.record), .bytes at_ (leBytes 4 (c.ringTail + 1).toNat)] := by
  have hs' : ({ s with sys := s.sys.takeFault ctx f c } : State).sys.accessFails slot n false = none := hs
  have ha' : (commandPut 0 slot (wordBytes f.record) { s with sys := s.sys.takeFault ctx f c }).sys.accessFails at_ m false = none := by
    rw [(Sys.Written.commandPut _ _ _ _).accessFails, Sys.takeFault_accessFails, ha]
  simp only [putFault, hostPut, Upd.andThen_stores]
  rw [commandPut_stores 0 _ hs', commandPut_stores 0 _ (by exact ha')]
  rfl

section
variable {s : State} {ctx : Nat} {f : HeldFault} {y : Sys}

theorem Context.hostRing_ne_zero {c : Context} (h : c.desc[3] ≠ 0) : ¬ c.hostRing = 0 :=
  fun hc => h (BitVec.eq_of_toNat_eq hc)

/-- The slot of the ring to which the next record goes. -/
def Context.ringSlot (c : Context) : Nat := mainKey 2 c.hostRing + 64 * (1 + c.ringTail.toNat % Nat.max c.ringSize 1)

/-- What stands in HEAD of the context's ring. -/
def State.ringHead (s : State) (ctx : Nat) : BitVec 32 := BitVec.ofNat 32 (s.mem.value (mainKey 2 (s.sys.context ctx).hostRing + 8) 4)

/-- How many records the ring holds under a reading of HEAD. -/
def Context.ringUsed (c : Context) (r : BitVec 32) : Nat := (c.ringTail - c.headRead r).toNat

theorem Context.hasRead_used (c : Context) (r : BitVec 32) : ((c.hasRead r).ringTail - c.headRead r).toNat = c.ringUsed r := by
  rw [Context.hasRead_ringTail]; rfl

/-- The accesses of HOST_RING_WRITE: it reads HEAD, and writes TAIL and a slot. -/
def Context.ringAccesses (c : Context) : List (Nat × Nat × Bool) :=
  [(mainKey 2 c.hostRing + 8, 4, false), (mainKey 2 c.hostRing, 4, true), (c.ringSlot, 64, true)]

section
variable (hring : (s.sys.context ctx).desc[3] ≠ 0) (hok : (s.sys.context ctx).ringState = .ok)
  (hf : s.sys.heldFaults.find? (fun z => z.ctx == ctx) = some f) (hz : (s.sys.context ctx).frozen = false)
  (hh : s.sys.ctl.held = false) (hgo : s.sys.ctlFate ctx (s.sys.context ctx).ringAccesses = .go y)
include hring hok hf hz hh hgo

/-- What HOST_RING_WRITE comes to where its accesses can be made: it stops at a HEAD that leaves too many records, it finds the ring full,
or it writes the oldest record. -/
theorem exec_hostRingWrite_go :
    let c0 := s.sys.context ctx
    let c := c0.hasRead (s.ringHead ctx)
    let used := (c.ringTail - c0.headRead (s.ringHead ctx)).toNat
    exec (.hostRingWrite ctx) s = machineStep s (
      if c.ringSize < used then ringError s ctx
      else if used = c.ringSize then .of (s.sys.setContext ctx { c with ringState := .full })
      else recallFirst s (putFault ctx f c (mainKey 2 c0.hostRing) c0.ringSlot s)) := by
  have hc : ((s.sys.context ctx).hostRing = 0 || (s.sys.context ctx).ringState != .ok || (s.sys.context ctx).frozen ||
      s.sys.ctl.held) = false := by simp [Context.hostRing_ne_zero hring, hok, hz, hh]
  intro c0 c used
  rw [exec_hostRingWrite, execHostRingWrite, hf]
  refine congrArg (machineStep s) ((if_neg (by rw [hc]; decide)).trans ?_)
  rw [Context.ringAccesses, Context.ringSlot] at hgo
  conv =>
    lhs
    zeta
    rw [hgo]
  rfl

/-- A HEAD that leaves more records than the ring holds stops it. -/
theorem does_hostRingWrite_error (h : (s.sys.context ctx).ringSize < (s.sys.context ctx).ringUsed (s.ringHead ctx)) :
    Does (.hostRingWrite ctx) s (ringError s ctx) :=
  (exec_hostRingWrite_go hring hok hf hz hh hgo).trans (congrArg _ (if_pos (by
    rw [Context.hasRead_ringSize, Context.hasRead_used]; exact h)))

/-- A ring without room becomes full. -/
theorem does_hostRingWrite_full (h : (s.sys.context ctx).ringUsed (s.ringHead ctx) = (s.sys.context ctx).ringSize) :
    Does (.hostRingWrite ctx) s
      (.of (s.sys.setContext ctx { (s.sys.context ctx).hasRead (s.ringHead ctx) with ringState := .full })) :=
  (exec_hostRingWrite_go hring hok hf hz hh hgo).trans (congrArg _ ((if_neg (by
    rw [Context.hasRead_ringSize, Context.hasRead_used, h]; exact Nat.lt_irrefl _)).trans (if_pos (by
    rw [Context.hasRead_ringSize, Context.hasRead_used]; exact h))))

/-- The oldest record goes to a ring with room. -/
theorem does_hostRingWrite_room (h : (s.sys.context ctx).ringUsed (s.ringHead ctx) < (s.sys.context ctx).ringSize) :
    Does (.hostRingWrite ctx) s (recallFirst s (putFault ctx f ((s.sys.context ctx).hasRead (s.ringHead ctx))
      (mainKey 2 (s.sys.context ctx).hostRing) (s.sys.context ctx).ringSlot s)) :=
  (exec_hostRingWrite_go hring hok hf hz hh hgo).trans (congrArg _ ((if_neg (by
    rw [Context.hasRead_ringSize, Context.hasRead_used]; exact Nat.lt_asymm h)).trans (if_neg (by
    rw [Context.hasRead_ringSize, Context.hasRead_used]; exact Nat.ne_of_lt h))))

end

section
variable (head : BitVec 32) (hring : (s.sys.context ctx).desc[3] ≠ 0)
  (ho : s.sys.opens ctx (mainKey 2 (s.sys.context ctx).hostRing + 8) 4 false = true) (hl : s.sys.links.cxlDown = false)
include hring ho hl

/-- HOST_RING_HEAD_POLL where HEAD can be read: it is stored, and a full ring is judged anew. -/
theorem exec_hostRingHeadPoll_go :
    let c0 := s.sys.context ctx
    let c := c0.hasRead head
    let used := (c.ringTail - c0.headRead head).toNat
    let u : Upd := { sys := s.sys.setContext ctx c, stores := [.bytes (mainKey 2 c.hostRing + 8) (leBytes 4 head.toNat)] }
    exec (.hostRingHeadPoll ctx head) s = machineStep s (
      if c.ringState != .full then u
      else Upd.andThen s u (fun t =>
        if c.ringSize < used then ringError t ctx
        else if used < c.ringSize then .of (t.sys.setContext ctx { c with ringState := .ok })
        else .of t.sys)) := by
  intro c0 c used u
  rw [exec_hostRingHeadPoll, execHostRingHeadPoll]
  refine congrArg (machineStep s) ?_
  refine (if_neg (Context.hostRing_ne_zero hring)).trans ?_
  refine (if_neg (by rw [ho]; decide)).trans ?_
  exact if_neg (by rw [hl]; decide)

/-- A ring that is not full takes the new HEAD, and is as it was. -/
theorem hostRingHeadPoll_ok (h : (s.sys.context ctx).ringState = .ok) : ∃ u, Does (.hostRingHeadPoll ctx head) s u ∧
    u.stores = [.bytes (mainKey 2 (s.sys.context ctx).hostRing + 8) (leBytes 4 head.toNat)] ∧
    (u.sys.context ctx).ringState = .ok :=
  ⟨_, (exec_hostRingHeadPoll_go head hring ho hl).trans (congrArg _ (if_pos (by rw [Context.hasRead_ringState, h]; rfl))),
    by rw [Context.hasRead_hostRing], by rw [Sys.setContext_context, Context.hasRead_ringState, h]⟩

section
variable (h : (s.sys.context ctx).ringState = .full)
include h

/-- A full ring takes records again once HEAD has moved. -/
theorem hostRingHeadPoll_room (hu : (s.sys.context ctx).ringUsed head < (s.sys.context ctx).ringSize) :
    ∃ u, Does (.hostRingHeadPoll ctx head) s u ∧ (u.sys.context ctx).ringState = .ok := by
  refine ⟨_, (exec_hostRingHeadPoll_go head hring ho hl).trans (congrArg _ (if_neg (by
    rw [Context.hasRead_ringState, h]; decide))), ?_⟩
  rw [Upd.andThen_sys, Context.hasRead_used, Context.hasRead_ringSize, if_neg (Nat.lt_asymm hu), if_pos hu, Upd.of_sys,
    Sys.setContext_context]

/-- A HEAD that leaves more records than the ring holds stops a full ring. -/
theorem hostRingHeadPoll_error (hu : (s.sys.context ctx).ringSize < (s.sys.context ctx).ringUsed head) :
    ∃ u, Does (.hostRingHeadPoll ctx head) s u ∧ (u.sys.context ctx).ringState = .error := by
  refine ⟨_, (exec_hostRingHeadPoll_go head hring ho hl).trans (congrArg _ (if_neg (by
    rw [Context.hasRead_ringState, h]; decide))), ?_⟩
  rw [Upd.andThen_sys, Context.hasRead_used, Context.hasRead_ringSize, if_pos hu]
  exact (ringError_spec _ ctx).1

end
end
end

/-! ### Walks (R30, R31) -/

/-- The entry that a TLB takes in is there afterwards. -/
theorem Sys.mem_fillTlb (y : Sys) (t : TlbEntry) : t ∈ (y.fillTlb t).tlb := by
  have hr : ∀ u ∈ (t.rivals y.tlb).2, u ∈ y.tlb := by
    intro u hu
    unfold TlbEntry.rivals at hu
    split at hu <;> exact (List.mem_filter.1 hu).1
  unfold Sys.fillTlb
  dsimp only
  split
  · next hc => exact hr t (List.contains_iff_mem.1 hc)
  · split
    · simp
    · split <;> simp

/-- Filling a TLB changes nothing else. -/
theorem Sys.fillTlb_rest (y : Sys) (t : TlbEntry) : y.fillTlb t = { y with tlb := (y.fillTlb t).tlb } := by
  unfold Sys.fillTlb
  dsimp only
  split
  · rfl
  · split
    · rfl
    · split <;> rfl

theorem Sys.fillTlb_misses (y : Sys) (t : TlbEntry) : (y.fillTlb t).misses = y.misses := by rw [Sys.fillTlb_rest]
theorem Sys.fillTlb_found (y : Sys) (t : TlbEntry) : (y.fillTlb t).found = y.found := by rw [Sys.fillTlb_rest]

section
variable {s : State} {die ctx vpage : Nat} {m : Miss}
  (hm : s.sys.misses.find? (fun m => m.die == die && m.ctx == ctx && m.vpage == vpage) = some m)
  (hq : walkQuiet s ctx (vpage * 65536) = true)
include hm hq

/-- A walk that finds a leaf. -/
theorem does_tableWalk_leaf {l : Nat} {e : Word} (hr : walk s ctx (vpage * 65536) = .leaf l e) :
    let y := walkFills s ctx (vpage * 65536) (s.sys.walked m (walk s ctx (vpage * 65536)))
    Does (.tableWalk die ctx vpage) s (.of (y.fillTlb
      { place := .die die, ctx := y.ctxTag ctx, base := vpage * 65536 / 2 ^ levelBits l, level := l, pte := e })) := by
  refine does_of_eq (exec_tableWalk die ctx vpage s) ?_
  simp [hm, hq, hr]

/-- A walk that finds none. -/
theorem does_tableWalk_none (hr : ∀ l e, walk s ctx (vpage * 65536) ≠ .leaf l e) : Does (.tableWalk die ctx vpage) s
    (.of (walkFills s ctx (vpage * 65536) (s.sys.walked m (walk s ctx (vpage * 65536))))) := by
  refine does_of_eq (exec_tableWalk die ctx vpage s) ?_
  simp only [hm, hq]
  cases hw : walk s ctx (vpage * 65536) with
  | leaf l e => exact absurd hw (hr l e)
  | absent | malformed | firewall | failed => simp

end

/-! ### Finished sets (R36) and resumed sub-warps -/

/-- A set whose pages are known lets its word issue again, or be in the wait that its miss had hidden. -/
theorem does_translationSetComplete {s : State} {w sub : Nat} {x : Warp} {b : Sub} {k : Block} {pages : List Nat}
    (hw : s.sys.warp? w = some x) (hb : x.sub? (some sub) = some b) (hk : s.sys.block? x.block = some k)
    (ht : b.wait = .translating pages) (hr : s.sys.setReady (.sub w (some sub)) k pages = true) :
    Does (.translationSetComplete w sub) s (.of (s.sys.setWarp (x.setSub (some sub)
      { b with wait := if b.under = .none then .translating [] else b.under, under := .none }))) := by
  refine does_of_eq (exec_translationSetComplete w sub s) ?_
  simp only [hw, hb, hk, ht, hr, if_true]

/-- A resumed sub-warp issues its word anew. -/
theorem does_parkedWarpResume {s : State} {w sub : Nat} {x : Warp} {b : Sub} (hw : s.sys.warp? w = some x)
    (hb : x.sub? (some sub) = some b) (ht : b.wait = .resumed) :
    Does (.parkedWarpResume w sub) s (.of (s.sys.setWarp (x.setSub (some sub) { b with wait := .none }))) := by
  refine does_of_eq (exec_parkedWarpResume w sub s) ?_
  simp only [hw, hb, ht, if_true]

/-! ### The pages of a cached leaf (R19, R29) -/

/-- The number of pages below an entry of a level. -/
theorem levelBits_pages (l : Nat) : 2 ^ levelBits l = 2 ^ (10 * l) * 65536 := by
  rw [levelBits, Nat.pow_add, Nat.mul_comm]

theorem TlbEntry.pages_eq (t : TlbEntry) : t.pages = (t.base * 2 ^ (10 * t.level), 2 ^ (10 * t.level)) := by
  simp only [TlbEntry.pages, levelBits_pages, ← Nat.mul_assoc, Nat.mul_div_cancel _ (show 0 < 65536 by decide)]

/-- A cached leaf covers the pages of its context that `TlbEntry.pages` names. -/
theorem TlbEntry.covers_iff (t : TlbEntry) (tag j : Nat) :
    t.covers tag (j * 65536) = true ↔ t.ctx = tag ∧ t.pages.1 ≤ j ∧ j < t.pages.1 + t.pages.2 := by
  have hpos : 0 < 2 ^ (10 * t.level) := Nat.two_pow_pos _
  simp only [TlbEntry.covers, TlbEntry.pages_eq, levelBits_pages, Nat.mul_div_mul_right _ _ (show 0 < 65536 by decide),
    Bool.and_eq_true, beq_iff_eq]
  refine and_congr_right fun _ => ⟨fun h => ?_, fun ⟨h1, h2⟩ => ?_⟩
  · rw [h]
    exact ⟨Nat.div_mul_le_self _ _, Nat.lt_div_mul_add hpos⟩
  · rw [← Nat.succ_mul] at h2
    exact Nat.le_antisymm ((Nat.le_div_iff_mul_le hpos).2 h1) (Nat.le_of_lt_succ ((Nat.div_lt_iff_lt_mul hpos).2 h2))

/-- A page that it covers. -/
theorem TlbEntry.covers_first (t : TlbEntry) : t.covers t.ctx (t.pages.1 * 65536) = true := by
  rw [TlbEntry.covers_iff, TlbEntry.pages_eq]
  exact ⟨rfl, Nat.le_refl _, Nat.lt_add_of_pos_right (Nat.two_pow_pos _)⟩

/-- The invalidation of some pages hits every page of an entry that covers one of them. -/
theorem Inval.hits_dropped {y : Sys} {ctx first n upto i j : Nat} {t : TlbEntry} (ht : t ∈ y.tlb) (hj : first ≤ j ∧ j < first + n)
    (htj : t.covers (y.ctxTag ctx) (j * 65536) = true) (hti : t.covers (y.ctxTag ctx) (i * 65536) = true) :
    Inval.hits { ctx := some ctx, first, count := some n, also := y.droppedPages ctx first n, upto } ctx i = true := by
  obtain ⟨hc, hj1, hj2⟩ := (TlbEntry.covers_iff ..).1 htj
  obtain ⟨-, hi1, hi2⟩ := (TlbEntry.covers_iff ..).1 hti
  have hmem : t.pages ∈ y.droppedPages ctx first n := by
    refine List.mem_eraseDups.2 (List.mem_filter.2 ⟨List.mem_map.2 ⟨t, List.mem_filter.2 ⟨ht, by simp [hc]⟩, rfl⟩, ?_⟩)
    simp only [Bool.and_eq_true, decide_eq_true_eq]
    omega
  have hany : (y.droppedPages ctx first n).any (fun r => decide (r.1 ≤ i) && decide (i < r.1 + r.2)) = true :=
    List.any_eq_true.2 ⟨_, hmem, by simp [hi1, hi2]⟩
  simp [Inval.hits, hany]

/-! ### What an invalidation leaves (R32, R33) -/

/-- The entries of a page are dropped, and no other. -/
theorem Sys.mem_dropPage_tlb {y : Sys} {ctx vpage : Nat} {t : TlbEntry} :
    t ∈ (y.dropPage ctx vpage).tlb ↔ t ∈ y.tlb ∧ t.covers (y.ctxTag ctx) (vpage * 65536) = false := by
  have h : (y.dropPage ctx vpage).tlb = y.tlb.filter (fun t => !t.covers (y.ctxTag ctx) (vpage * 65536)) := rfl
  simp [h]

theorem Sys.mem_dropPage_found {y : Sys} {ctx vpage : Nat} {f : Found} :
    f ∈ (y.dropPage ctx vpage).found ↔ f ∈ y.found ∧ f.covers ctx vpage = false := by
  have h : (y.dropPage ctx vpage).found = y.found.filter (fun f => !f.covers ctx vpage) := rfl
  simp [h]

theorem Sys.dropPage_ctxTag (y : Sys) (ctx vpage c : Nat) : (y.dropPage ctx vpage).ctxTag c = y.ctxTag c := rfl

theorem Sys.dropPages_succ (y : Sys) (ctx first n : Nat) :
    y.dropPages ctx first (n + 1) = (y.dropPages ctx first n).dropPage ctx (first + n) := by
  simp [Sys.dropPages, List.range_succ]

theorem Sys.dropPages_ctxTag (y : Sys) (ctx first n c : Nat) : (y.dropPages ctx first n).ctxTag c = y.ctxTag c := by
  induction n with
  | zero => rfl
  | succ n ih => rw [Sys.dropPages_succ, Sys.dropPage_ctxTag, ih]

theorem Sys.dropPages_nextId (y : Sys) (ctx first n : Nat) : (y.dropPages ctx first n).nextId = y.nextId := by
  induction n with
  | zero => rfl
  | succ n ih => rw [Sys.dropPages_succ, ← ih]; rfl

theorem Sys.dropPages_time (y : Sys) (ctx first n : Nat) : (y.dropPages ctx first n).time = y.time := by
  induction n with
  | zero => rfl
  | succ n ih => rw [Sys.dropPages_succ, ← ih]; rfl

theorem Sys.mem_dropPages_tlb {y : Sys} {ctx first n : Nat} {t : TlbEntry} : t ∈ (y.dropPages ctx first n).tlb ↔
    t ∈ y.tlb ∧ ∀ j, first ≤ j → j < first + n → t.covers (y.ctxTag ctx) (j * 65536) = false := by
  induction n with
  | zero => exact ⟨fun h => ⟨h, fun j h1 h2 => by omega⟩, fun h => h.1⟩
  | succ n ih =>
    rw [Sys.dropPages_succ, Sys.mem_dropPage_tlb, ih, Sys.dropPages_ctxTag, and_assoc]
    refine and_congr_right fun _ => ⟨fun h j h1 h2 => ?_, fun h => ⟨fun j h1 h2 => h j h1 (by omega), h _ (by omega) (by omega)⟩⟩
    rcases Nat.lt_or_ge j (first + n) with hj | hj
    · exact h.1 j h1 hj
    · rw [show j = first + n by omega]; exact h.2

theorem Sys.dropPages_found {y : Sys} {ctx first n : Nat} {f : Found} (hf : f ∈ (y.dropPages ctx first n).found) :
    ∀ j, first ≤ j → j < first + n → f.covers ctx j = false := by
  induction n with
  | zero => intro j h1 h2; omega
  | succ n ih =>
    rw [Sys.dropPages_succ, Sys.mem_dropPage_found] at hf
    intro j h1 h2
    rcases Nat.lt_or_ge j (first + n) with hj | hj
    · exact ih hf.1 j h1 hj
    · rw [show j = first + n by omega]; exact hf.2

/-- The entries of a context are dropped, and no other. -/
theorem Sys.mem_dropContexts_tlb {y : Sys} {ctx : Nat} {t : TlbEntry} :
    t ∈ (y.dropContexts (some ctx)).tlb ↔ t ∈ y.tlb ∧ t.ctx ≠ y.ctxTag ctx := by
  have h : (y.dropContexts (some ctx)).tlb = y.tlb.filter (fun t => !(some (y.ctxTag ctx) == some t.ctx)) := rfl
  simp [h, eq_comm (a := y.ctxTag ctx)]

theorem Sys.dropContexts_found {y : Sys} {ctx : Nat} {f : Found} (hf : f ∈ (y.dropContexts (some ctx)).found) : f.ctx ≠ ctx := by
  have h : (y.dropContexts (some ctx)).found = y.found.filter (fun f => !(some ctx == some f.ctx)) := rfl
  simp only [h, List.mem_filter] at hf
  simpa [eq_comm (a := ctx)] using hf.2

/-- Where every context's translations are dropped none is left. -/
theorem Sys.dropContexts_none (y : Sys) : (y.dropContexts none).tlb = [] ∧ (y.dropContexts none).found = [] := by
  have h1 : (y.dropContexts none).tlb = y.tlb.filter (fun _ => false) := rfl
  have h2 : (y.dropContexts none).found = y.found.filter (fun _ => false) := rfl
  simp [h1, h2]

/-! ### The end of an invalidation (R32) -/

theorem Sys.settleInvals_rest (y : Sys) :
    y.settleInvals = { y with invals := y.settleInvals.invals, ctl := { y.ctl with invalWit := y.settleInvals.ctl.invalWit } } := by
  unfold Sys.settleInvals
  split <;> rfl

/-- An invalidation is under way until it is done, and then has completed with a device-scope witness. -/
theorem Sys.settleInvals_spec {y : Sys} {v : Inval} (hv : v ∈ y.invals) :
    (y.invalDone v = false → v ∈ y.settleInvals.invals) ∧
    (y.invalDone v = true → v ∉ y.settleInvals.invals ∧ y.settleInvals.ctl.invalWit = mkWit 2 0 y.time.now) := by
  unfold Sys.settleInvals
  constructor
  · intro hd
    split
    · simp [hv, hd]
    · exact hv
  · intro hd
    rw [if_pos (List.any_eq_true.2 ⟨v, hv, hd⟩)]
    exact ⟨by simp [hd], rfl⟩

/-- What INVALIDATE_PAGE and its kin leave of the translations: what they dropped before. -/
theorem Sys.invalidating_translations (y : Sys) (ctx : Option Nat) (first : Nat) (count : Option Nat) (also : List (Nat × Nat)) :
    (y.invalidating ctx first count also).tlb = y.tlb ∧ (y.invalidating ctx first count also).found = y.found := by
  unfold Sys.invalidating
  rw [Sys.settleInvals_rest]
  exact ⟨rfl, rfl⟩

/-- How an invalidation that has just dropped its entries stands. -/
theorem Sys.invalidating_spec (y : Sys) (ctx : Option Nat) (first : Nat) (count : Option Nat) (also : List (Nat × Nat)) :
    let u := y.invalidating ctx first count also
    let v : Inval := { ctx, first, count, also, upto := y.nextId }
    (u.invalDone v = false → v ∈ u.invals) ∧ (u.invalDone v = true → v ∉ u.invals ∧ u.ctl.invalWit = mkWit 2 0 y.time.now) := by
  intro u v
  have hdone : u.invalDone v = ({ y with invals := y.invals ++ [v] } : Sys).invalDone v := by
    change (Sys.settleInvals _).invalDone v = _
    rw [Sys.settleInvals_rest]; rfl
  rw [hdone]
  exact Sys.settleInvals_spec (y := { y with invals := y.invals ++ [v] }) (by simp)

end Sys2Proof.Machine
end

section
open Sys2Proof Sys2Proof.Machine

/-- Settles O32: the ring's steps by what their reading of HEAD leaves of the ring; a walk by whether it ends at a leaf; and an
invalidation by what it drops of the TLBs and the finished walks, page by page. -/
theorem translationAndHostRing : Obligations.TranslationAndHostRing := by
  unfold Obligations.TranslationAndHostRing
  refine ⟨fun s ctx head f => ⟨?ringWrite, ?ringPoll⟩, ?translation⟩
  case ringWrite =>
    rintro hring hok hf ⟨y, hgo⟩ hz hh
    replace hgo : s.sys.ctlFate ctx (s.sys.context ctx).ringAccesses = .go y := hgo
    obtain ⟨-, -, hserve, -⟩ := (Sys.ctlFate_go_iff ..).1 hgo
    have hslot := hserve ((s.sys.context ctx).ringSlot, 64, true) (by simp [Context.ringAccesses])
    have htail := hserve (mainKey 2 (s.sys.context ctx).hostRing, 4, true) (by simp [Context.ringAccesses])
    refine ⟨fun hroom => ?_, fun hfull => ?_, fun herr => ?_⟩
    · exact ⟨_, does_hostRingWrite_room hring hok hf hz hh hgo hroom,
        (putFault_stores ctx f _ hslot htail).trans (by rw [Context.hasRead_ringTail]; rfl),
        (putFault_sys ..).1.trans (by rw [Context.hasRead_ringTail]), (putFault_sys ..).2⟩
    · exact ⟨_, does_hostRingWrite_full hring hok hf hz hh hgo hfull, rfl, congrArg Context.ringState (Sys.setContext_context ..)⟩
    · exact ⟨_, does_hostRingWrite_error hring hok hf hz hh hgo herr, ringError_spec s ctx⟩
  case ringPoll =>
    exact fun hring ho hl => ⟨hostRingHeadPoll_ok head hring ho hl, hostRingHeadPoll_room head hring ho hl,
      hostRingHeadPoll_error head hring ho hl⟩
  case translation =>
    intro s die ctx vpage va n level w sub pte m x b k pages
    refine ⟨fun hm hq => ⟨fun hr => ?leaf, fun hr => ?noLeaf⟩, fun ⟨hw, hb, hk⟩ ht hset => ?set, fun ⟨hw, hb, hk⟩ ht => ?resumed,
      fun ⟨hr, hh⟩ => ?page, fun ⟨hr, hh⟩ => ?range, fun ⟨hr, hh⟩ => ?context, fun ⟨hr, hh⟩ => ?all⟩
    case leaf =>
      have hfill := Sys.Filled.walkFills s ctx (vpage * 65536) (s.sys.walked m (walk s ctx (vpage * 65536)))
      refine ⟨_, ⟨does_tableWalk_leaf hm hq hr, rfl, ?_, ?_⟩, ?_⟩
      · rw [Upd.of_sys, Sys.fillTlb_misses, hfill.misses]; rfl
      · rw [Upd.of_sys, Sys.fillTlb_found, hfill.found]; rfl
      · rw [hfill.ctxTag]
        exact Sys.mem_fillTlb _ _
    case noLeaf =>
      have hfill := Sys.Filled.walkFills s ctx (vpage * 65536) (s.sys.walked m (walk s ctx (vpage * 65536)))
      exact ⟨_, ⟨does_tableWalk_none hm hq hr, rfl, hfill.misses, hfill.found⟩, hfill.tlb⟩
    case set => exact does_translationSetComplete hw hb hk ht hset
    case resumed => exact does_parkedWarpResume hw hb ht
    case page =>
      have hleft := Sys.invalidating_translations (s.sys.dropPage ctx (va / 65536)) (some ctx) (va / 65536) (some 1)
        (s.sys.droppedPages ctx (va / 65536) 1)
      refine ⟨_, does_inputStep (exec_invalidatePage ctx va s) hr hh, ?_, ⟨rfl, ?_, Sys.invalidating_spec ..⟩, ?_⟩
      · rintro t ht j i rfl htj hti
        exact Inval.hits_dropped ht ⟨Nat.le_refl _, Nat.lt_succ_self _⟩ htj hti
      · rintro c j ⟨rfl, rfl⟩
        rw [Upd.of_sys, hleft.1, hleft.2]
        exact ⟨fun t ht => (Sys.mem_dropPage_tlb.1 ht).2, fun f hf => (Sys.mem_dropPage_found.1 hf).2⟩
      · intro t ht hc
        rw [Upd.of_sys, hleft.1]
        exact Sys.mem_dropPage_tlb.2 ⟨ht, hc _ rfl⟩
    case range =>
      have hleft := Sys.invalidating_translations (s.sys.dropPages ctx (va / 65536) n) (some ctx) (va / 65536) (some n)
        (s.sys.droppedPages ctx (va / 65536) n)
      have hspec := Sys.invalidating_spec (s.sys.dropPages ctx (va / 65536) n) (some ctx) (va / 65536) (some n)
        (s.sys.droppedPages ctx (va / 65536) n)
      rw [Sys.dropPages_nextId, Sys.dropPages_time] at hspec
      refine ⟨_, does_inputStep (exec_invalidateRange ctx va n s) hr hh, ?_, ⟨rfl, ?_, hspec⟩, ?_⟩
      · exact fun t ht j i hj htj hti => Inval.hits_dropped ht hj htj hti
      · rintro c j ⟨rfl, h1, h2⟩
        rw [Upd.of_sys, hleft.1, hleft.2]
        exact ⟨fun t ht => (Sys.mem_dropPages_tlb.1 ht).2 j h1 h2, fun f hf => Sys.dropPages_found hf j h1 h2⟩
      · intro t ht hc
        rw [Upd.of_sys, hleft.1]
        exact Sys.mem_dropPages_tlb.2 ⟨ht, fun j h1 h2 => hc j ⟨h1, h2⟩⟩
    case context =>
      have hleft := Sys.invalidating_translations (s.sys.dropContexts (some ctx)) (some ctx) 0 none []
      refine ⟨_, does_inputStep (exec_invalidateContext ctx s) hr hh, ⟨rfl, ?_, Sys.invalidating_spec ..⟩, ?_⟩
      · rintro c j rfl
        rw [Upd.of_sys, hleft.1, hleft.2]
        refine ⟨fun t ht => ?_, fun f hf => ?_⟩
        · simp [TlbEntry.covers, (Sys.mem_dropContexts_tlb.1 ht).2]
        · simp [Found.covers, Sys.dropContexts_found hf]
      · intro t ht hc
        rw [Upd.of_sys, hleft.1]
        refine Sys.mem_dropContexts_tlb.2 ⟨ht, fun htag => ?_⟩
        have := hc t.pages.1 trivial
        rw [← htag, TlbEntry.covers_first] at this
        cases this
    case all =>
      have hleft := Sys.invalidating_translations (s.sys.dropContexts none) none 0 none []
      have hnone := s.sys.dropContexts_none
      refine ⟨_, does_inputStep (exec_invalidateAll s) hr hh, rfl, fun c j _ => ?_, Sys.invalidating_spec ..⟩
      rw [Upd.of_sys, hleft.1, hleft.2, hnone.1, hnone.2]
      exact ⟨List.forall_mem_nil _, List.forall_mem_nil _⟩

end

section
/-! Page commands (R46 to R48, R329): what a commit and a decommit do in each of their stages. -/

namespace Sys2Proof.Machine

/-! ### Commands -/

/-- A command after a change of one command. -/
theorem Sys.op?_modOp (y : Sys) (id n : Nat) {f : Op → Op} (hf : ∀ p, (f p).id = p.id) :
    (y.modOp id f).op? n = (y.op? n).map (fun p => if p.id == id then f p else p) := by
  have h : ((fun p : Op => p.id == n) ∘ fun p => if p.id == id then f p else p) = (fun p => p.id == n) := by
    funext p
    by_cases hp : p.id = id <;> simp [hp, hf]
  simp only [Sys.op?, Sys.modOp, List.find?_map, h]

theorem Sys.op?_modOp_same {y : Sys} {p : Op} {f : Op → Op} (hf : ∀ p, (f p).id = p.id) (h : y.op? p.id = some p) :
    (y.modOp p.id f).op? p.id = some (f p) := by
  simp [Sys.op?_modOp _ _ _ hf, h]

/-- A heap or page command that ends with registers `D` and `D + 1`. -/
theorem endHeap_op? {u : Upd} {p : Op} {sub r : Nat} (status : Nat) (d v : Word) (err : Option TrapInfo)
    (hop : u.sys.op? p.id = some p) (hf : heapForm p.instr = some (sub, r)) (h1 : sub ≠ 1) (h2 : sub ≠ 2) :
    (endHeap u p status d v err).sys.op? p.id = some { p.ends status err with
      results := [(codeS r, d), (codeS (r + 1), v), (codeHstat, BitVec.ofNat 64 (sub * 2 ^ 24 + status))] } := by
  have hend : (endCommand u p.id status err).sys.op? p.id = some (p.ends status err) :=
    Sys.op?_modOp_same (y := u.sys.dropHeld p.id) (f := fun p => p.ends status err) (fun _ => rfl) hop
  simp only [endHeap, hf, Option.getD_some, h1, h2, decide_false, Bool.or_self, Bool.false_eq_true, if_false]
  exact Sys.op?_modOp_same (p := p.ends status err) (fun _ => rfl) hend

@[simp] theorem endHeap_stores (u : Upd) (p : Op) (status : Nat) (d v : Word) (err : Option TrapInfo) :
    (endHeap u p status d v err).stores = u.stores := rfl

/-- A step by which a page command ends without an error. -/
theorem ends_of_endHeap {i : Instr} {s : State} {p : Op} {u : Upd} {sub r status : Nat} {d v : Word}
    (h : exec i s = machineStep s (recallFirst s (endHeap u p status d v none))) (hs : u.stores = [])
    (hop : u.sys.op? p.id = some p) (hf : heapForm p.instr = some (sub, r)) (h1 : sub ≠ 1) (h2 : sub ≠ 2) :
    Ends i s p status none [(codeS r, d), (codeS (r + 1), v), (codeHstat, BitVec.ofNat 64 (sub * 2 ^ 24 + status))]
      (fun u => u.stores = []) := by
  rw [recallFirst_noStores s _ (by exact hs)] at h
  exact ⟨_, _, h, hs, endHeap_op? status d v none hop hf h1 h2, rfl, rfl, rfl, rfl, rfl, rfl⟩

/-! ### What the accesses of a page command leave -/

/-- From `y` to `z` the accesses of a page command have changed neither a command nor the time, nor the tag of a context's translations,
nor which writes reach their homes. -/
structure Sys.PageStep (y z : Sys) : Prop where
  ops : z.ops = y.ops
  time : z.time = y.time
  ctxTag : ∀ c, z.ctxTag c = y.ctxTag c
  serves : ∀ k n, z.accessFails k n false = y.accessFails k n false

namespace Sys.PageStep

theorem refl (y : Sys) : y.PageStep y := ⟨rfl, rfl, fun _ => rfl, fun _ _ => rfl⟩

theorem trans {x y z : Sys} (h : x.PageStep y) (g : y.PageStep z) : x.PageStep z where
  ops := g.ops.trans h.ops
  time := g.time.trans h.time
  ctxTag c := (g.ctxTag c).trans (h.ctxTag c)
  serves k n := (g.serves k n).trans (h.serves k n)

theorem of_written {y z : Sys} (h : y.Written z) : y.PageStep z := ⟨h.ops, h.time, h.ctxTag, h.accessFails⟩

theorem of_filled {y z : Sys} (h : y.Filled z) : y.PageStep z := .of_written h.written

theorem mark (y : Sys) (c : Nat) : y.PageStep (y.mark c) where
  ops := rfl
  time := rfl
  ctxTag d := by
    have h : (y.mark c).context d = if d = c then { y.context c with event := true } else y.context d := Sys.context_setContext ..
    by_cases hd : d = c
    · subst hd
      rw [if_pos rfl] at h
      simp only [Sys.ctxTag, h]
    · rw [if_neg hd] at h
      simp only [Sys.ctxTag, h]
  serves _ _ := rfl

theorem setBin (y : Sys) (ctx die bin : Nat) (f : Bin → Bin) : y.PageStep (y.setBin ctx die bin f) := by
  unfold Sys.setBin
  split
  · split
    · exact ⟨rfl, rfl, fun _ => rfl, fun _ _ => rfl⟩
    · exact .refl y
  · exact .refl y

theorem post (y : Sys) (ctx die bin : Nat) (r : List Word) (a : Option Word) (op : Option Nat) :
    y.PageStep (y.post ctx die bin r a op) := by
  unfold Sys.post
  split
  · split
    · exact (setBin y _ _ _ _).trans (.mark _ _)
    · exact ⟨rfl, rfl, fun _ => rfl, fun _ _ => rfl⟩
  · exact .refl y

/-- The refill request of R46 goes to a bin or the host ring, and stores nothing. -/
theorem refillRequest (p : Op) (s : State) : s.sys.PageStep (refillRequest p s).sys := by
  unfold Machine.refillRequest
  dsimp only
  split
  · exact (show s.sys.PageStep (s.sys.useFree 1) from ⟨rfl, rfl, fun _ => rfl, fun _ _ => rfl⟩).trans (.post _ _ _ _ _ _ _)
  · exact ⟨rfl, rfl, fun _ => rfl, fun _ _ => rfl⟩
  · exact .refl _

theorem op? {y z : Sys} (h : y.PageStep z) (n : Nat) : z.op? n = y.op? n := by simp only [Sys.op?, h.ops]

end Sys.PageStep

theorem refillRequest_stores (p : Op) (s : State) : (refillRequest p s).stores = [] := by
  unfold refillRequest
  dsimp only
  split <;> rfl

/-! ### The rewriting of a leaf (R32, R47) -/

/-- In `y` the command `p` has rewritten the leaf of the page of `va`, and waits: it is at its last stage, and no TLB entry and no finished
walk of the page is left. -/
structure LeafRewritten (s : State) (p : Op) (va : Nat) (y : Sys) : Prop where
  running : ∃ q, y.op? p.id = some q ∧ q.stage = .running
  tlb : ∀ t ∈ y.tlb, t.covers (s.sys.ctxTag p.ctx) (va / 65536 * 65536) = false
  found : ∀ f ∈ y.found, f.covers p.ctx (va / 65536) = false

/-- The command may still change its own arguments. -/
theorem LeafRewritten.modOp {s : State} {p : Op} {va : Nat} {y : Sys} (h : LeafRewritten s p va y) {f : Op → Op}
    (hid : ∀ q, (f q).id = q.id) (hstage : ∀ q, (f q).stage = q.stage) : LeafRewritten s p va (y.modOp p.id f) := by
  obtain ⟨⟨q, hq, hr⟩, ht, hf⟩ := h
  refine ⟨⟨if q.id == p.id then f q else q, by rw [Sys.op?_modOp _ _ _ hid, hq]; rfl, ?_⟩, ht, hf⟩
  split <;> simp [hstage, hr]

section
variable {s t : State} {p : Op} {key n : Nat} (hst : s.sys.PageStep t.sys) (va : Nat) (e : Word)
include hst

theorem rewriteLeaf_stores (hk : s.sys.accessFails key n false = none) :
    (rewriteLeaf p key va e t).stores = [.bytes key (leBytes 8 e.toNat)] := by
  rw [rewriteLeaf, Upd.andThen_stores, commandPut_stores p.id _ ((hst.serves key n).trans hk)]
  rfl

/-- The leaf's page is dropped, and its command runs on. -/
theorem rewriteLeaf_spec (hop : s.sys.op? p.id = some p) : LeafRewritten s p va (rewriteLeaf p key va e t).sys := by
  have hw := Sys.Written.commandPut p.id key (leBytes 8 e.toNat) t
  have hstep := hst.trans (.of_written hw)
  have htag : (commandPut p.id key (leBytes 8 e.toNat) t).sys.ctxTag p.ctx = s.sys.ctxTag p.ctx := hstep.ctxTag _
  refine ⟨⟨{ p with stage := .running }, ?_, rfl⟩, fun t ht => ?_, fun f hf => (Sys.mem_dropPage_found.1 hf).2⟩
  · exact Sys.op?_modOp_same (y := (commandPut p.id key (leBytes 8 e.toNat) t).sys.dropPage p.ctx (va / 65536)) (fun _ => rfl)
      ((hstep.op? p.id).trans hop)
  · rw [← htag]
    exact (Sys.mem_dropPage_tlb.1 ht).2

end

/-! ### The start of a page command -/

/-- The leaf that a page command acts on: a leaf of level 0 that the firewall lets its context write. -/
theorem pageLeaf_leaf_iff {p : Op} {va key : Nat} {s : State} {e : Word} : pageLeaf p va s = .leaf key e ↔
    va < 2 ^ 56 ∧ walk s p.ctx va = .leaf 0 e ∧ leafKey s p.ctx va = some key ∧
      (pteSparse e = 0 → s.sys.opens p.ctx (s.sys.homeKey (pteKind e) (leafPA 0 e va)) 1 true = true) := by
  unfold pageLeaf
  dsimp only
  by_cases hva : va ≥ 2 ^ 56
  · rw [if_pos hva]
    exact ⟨nofun, fun h => absurd h.1 (Nat.not_lt.2 hva)⟩
  · rw [if_neg hva]
    cases hw : walk s p.ctx va with
    | absent | malformed | firewall | failed => simp
    | leaf l d =>
      dsimp only
      cases l with
      | succ l => simp
      | zero =>
        rw [if_neg (by decide)]
        by_cases ho : pteSparse d = 0 → s.sys.opens p.ctx (s.sys.homeKey (pteKind d) (leafPA 0 d va)) 1 true = true
        · have hdeny : (pteSparse d = 0 && !s.sys.opens p.ctx (s.sys.homeKey (pteKind d) (leafPA 0 d va)) 1 true) = false := by
            by_cases hs : pteSparse d = 0 <;> simp [hs, ho]
          rw [hdeny]
          cases hk : leafKey s p.ctx va with
          | none => simp
          | some k =>
            refine ⟨fun h => ?_, fun ⟨_, hd, hk, _⟩ => ?_⟩
            · cases h; exact ⟨Nat.not_le.1 hva, rfl, rfl, ho⟩
            · cases hd; cases hk; rfl
        · obtain ⟨hs, hn⟩ := Classical.not_imp.1 ho
          rw [if_pos (by simp [hs, hn])]
          refine ⟨nofun, fun ⟨_, hd, _, h⟩ => ?_⟩
          cases hd
          exact absurd h ho

theorem pageLeaf_filled {p : Op} {va key : Nat} {s : State} {e : Word} {z : Sys} (h : s.sys.Filled z)
    (hl : pageLeaf p va s = .leaf key e) : pageLeaf p va { s with sys := z } = .leaf key e := by
  rw [pageLeaf_leaf_iff] at hl ⊢
  rwa [walk_filled h, leafKey_filled h, h.opens, h.homeKey]

theorem pool_filled {s : State} {z : Sys} (h : s.sys.Filled z) (ctx : Nat) : State.pool { s with sys := z } ctx = s.pool ctx := by
  simp only [State.pool, h.context]

theorem pageThen_go {s : State} {y : Sys} {p : Op} {l : List (Nat × Nat × Bool)} (h : s.sys.ctlFate p.ctx l = .go y) (f : State → Upd) :
    pageThen p s l f = f { s with sys := y } := by
  simp only [pageThen, pageAccess, h]

/-- Accesses that nothing stands against go through after fills, too. -/
theorem pageThen_filled {s : State} {z : Sys} {p : Op} {l : List (Nat × Nat × Bool)} (h : s.sys.Filled z)
    (hgo : ∃ y, s.sys.ctlFate p.ctx l = .go y) (f : State → Upd) :
    ∃ z', s.sys.Filled z' ∧ pageThen p { s with sys := z } l f = f { s with sys := z' } := by
  obtain ⟨y, hgo⟩ := hgo
  obtain ⟨ho, hq, hs, -⟩ := (Sys.ctlFate_go_iff ..).1 hgo
  have hz := (Sys.ctlFate_go_iff z _ p.ctx l).2 ⟨fun x hx => (h.opens ..).trans (ho x hx), fun x hx hr => (h.quiet ..).trans (hq x hx hr),
    fun x hx => (h.accessFails ..).trans (hs x hx), rfl⟩
  exact ⟨_, h.trans (.fillReads _ p.ctx z), pageThen_go (s := { s with sys := z }) hz f⟩

/-- The page command `p` of the page of `va` may start (R47, R329): its turn has come, its walk and its witness are settled. -/
structure PageStarts (s : State) (p : Op) (va : Nat) : Prop where
  here : s.sys.op? p.id = some p
  noTask : s.sys.wordTwo p = none
  addr : (p.args.getD 0 0).toNat = va
  waiting : p.waiting = true
  may : s.sys.pageMay p = true
  quiet : walkQuiet s p.ctx va = true
  wit : s.sys.satisfied controlReader p.wit = .yes

/-- A command without a task's word 2 builds an empty set. -/
theorem engineSet_empty {s : State} {p : Op} (h : s.sys.wordTwo p = none) (r : Requester) (o : Origin) (die : Nat) :
    engineSet s p r o die [] = .go s.sys := by
  have hk : s.sys.keepWordTwo p die = s.sys := by simp [Sys.keepWordTwo, h]
  simp only [engineSet, h, hk]
  rfl

theorem Op.draining_of_waiting {p : Op} (h : p.waiting = true) : p.draining = false := by
  cases hs : p.stage <;> simp_all [Op.waiting, Op.draining]

namespace PageStarts

variable {s : State} {p : Op} {va : Nat} (h : PageStarts s p va)
include h

/-- A command that may start goes on to its first stage, with its walk's entries in the home caches. -/
theorem pageStart_eq (f : State → Upd) : pageStart p va s f = f { s with sys := walkFills s p.ctx va s.sys } := by
  have hw : s.sys.commandWit controlReader p = .yes := h.wit
  have h1 : (!p.waiting || !s.sys.pageMay p) = false := by rw [h.waiting, h.may]; rfl
  have h2 : (!walkQuiet s p.ctx va) = false := by rw [h.quiet]; rfl
  rw [pageStart, h1, h2, hw, engineSet_empty h.noTask]
  rfl

theorem exec_pageCommit {d a : SReg} {w : OptS} {fs : Bool} (hi : p.instr = .pcommit d a w fs) :
    exec (.pageCommit p.id) s =
      machineStep s (recallFirst s (commitPage p va { s with sys := walkFills s p.ctx va s.sys })) := by
  have hd : ¬ p.draining = true := by rw [Op.draining_of_waiting h.waiting]; decide
  simp only [Machine.exec_pageCommit, execPageCommit, h.here, hi, if_neg hd, h.addr, h.pageStart_eq]

theorem exec_pageDecommit {d a : SReg} {w : OptS} {zero fs : Bool} (hi : p.instr = .pdecommit d a w zero fs) :
    exec (.pageDecommit p.id) s =
      machineStep s (recallFirst s (decommitPage p zero va { s with sys := walkFills s p.ctx va s.sys })) := by
  have hd : ¬ p.draining = true := by rw [Op.draining_of_waiting h.waiting]; decide
  simp only [Machine.exec_pageDecommit, execPageDecommit, h.here, hi, if_neg hd, h.addr, h.pageStart_eq]

end PageStarts

/-! ### Commits (R47) -/

/-- The last frame of a pool, as its frame array names it. -/
def Pool.lastFrame (q : Pool) (m : Memory) : Nat := m.value (q.entry (q.count - 1)) 8 / 65536 % 2 ^ 32 * 65536

/-- The pool's count goes down, with the refill request that a low pool makes (R46). -/
def takeLast (p : Op) (q : Pool) (s : State) : Upd :=
  let u := commandPut p.id q.key (leBytes 4 (q.count - 1)) s
  if q.count - 1 < q.low then Upd.andThen s u (refillRequest p) else u

/-- The pool's last frame is taken and zeroed. -/
def takeFrame (p : Op) (q : Pool) (s : State) : Upd := Upd.andThen s (takeLast p q s) (zeroFrame p.id (q.lastFrame s.mem))

/-- What a commit from the pool `q` changes, once nothing stands against its accesses: the pool, the frame's bytes, and the leaf. -/
def commitFrame (p : Op) (q : Pool) (key va : Nat) (e : Word) (s : State) : Upd :=
  Upd.andThen s (takeFrame p q s) (rewriteLeaf p key va (leafWith e (q.lastFrame s.mem) 0))

section
variable {s t : State} {p : Op} {q : Pool} (hst : s.sys.PageStep t.sys)
include hst

theorem takeLast_spec (hq : s.sys.accessFails q.key 4 false = none) :
    s.sys.PageStep (takeLast p q t).sys ∧ (takeLast p q t).stores = [.bytes q.key (leBytes 4 (q.count - 1))] := by
  have h1 : s.sys.PageStep (commandPut p.id q.key (leBytes 4 (q.count - 1)) t).sys := hst.trans (.of_written (.commandPut ..))
  have hs := commandPut_stores p.id (leBytes 4 (q.count - 1)) ((hst.serves ..).trans hq)
  unfold takeLast
  dsimp only
  split
  · rw [Upd.andThen_sys, Upd.andThen_stores, refillRequest_stores, hs]
    exact ⟨h1.trans (.refillRequest p (commit t _)), rfl⟩
  · exact ⟨h1, hs⟩

theorem takeFrame_spec (hq : s.sys.accessFails q.key 4 false = none)
    (hf : s.sys.accessFails (mainKey 0 (q.lastFrame t.mem)) 65536 false = none) :
    s.sys.PageStep (takeFrame p q t).sys ∧ (takeFrame p q t).stores =
      [.bytes q.key (leBytes 4 (q.count - 1)), .clear (mainKey 0 (q.lastFrame t.mem)) 65536] := by
  obtain ⟨h1, hs⟩ := takeLast_spec (p := p) hst hq
  refine ⟨h1.trans (.of_written (.zeroFrame p.id (q.lastFrame t.mem) (commit t (takeLast p q t)))), ?_⟩
  rw [takeFrame, Upd.andThen_stores, hs, zeroFrame_stores (s := commit t (takeLast p q t)) p.id ((h1.serves ..).trans hf)]
  rfl

/-- A commit stores the pool's count, zeroes the frame and rewrites the leaf, in this order. -/
theorem commitFrame_spec {key : Nat} (va : Nat) (e : Word) (hop : s.sys.op? p.id = some p)
    (hq : s.sys.accessFails q.key 4 false = none) (hf : s.sys.accessFails (mainKey 0 (q.lastFrame t.mem)) 65536 false = none)
    (hk : s.sys.accessFails key 8 false = none) :
    LeafRewritten s p va (commitFrame p q key va e t).sys ∧ (commitFrame p q key va e t).stores =
      [.bytes q.key (leBytes 4 (q.count - 1)), .clear (mainKey 0 (q.lastFrame t.mem)) 65536,
       .bytes key (leBytes 8 (leafWith e (q.lastFrame t.mem) 0).toNat)] := by
  obtain ⟨h1, hs⟩ := takeFrame_spec (p := p) hst hq hf
  refine ⟨rewriteLeaf_spec (t := commit t (takeFrame p q t)) h1 va _ hop, ?_⟩
  rw [commitFrame, Upd.andThen_stores, hs, rewriteLeaf_stores (t := commit t (takeFrame p q t)) h1 va _ hk]
  rfl

end

section
variable {s : State} {z : Sys} (hz : s.sys.Filled z) {p : Op} {va key : Nat} {e : Word}
  (hl : pageLeaf p va { s with sys := z } = .leaf key e)
include hl

theorem commitPage_already (he : pteSparse e = 0) :
    commitPage p va { s with sys := z } = endStatus (idle { s with sys := z }) p heapAlready none := by
  simp only [commitPage, hl, if_pos he]

include hz

theorem commitPage_noPool (he : pteSparse e ≠ 0) (hp : s.pool p.ctx = none) :
    commitPage p va { s with sys := z } = endStatus (idle { s with sys := z }) p poolEmpty none := by
  simp only [commitPage, hl, if_neg he, pool_filled hz, hp]

theorem commitPage_empty {q : Pool} (he : pteSparse e ≠ 0) (hp : s.pool p.ctx = some q)
    (hmay : ∃ y, s.sys.ctlFate p.ctx [(q.key, 24, false)] = .go y) (hq : q.count = 0) :
    ∃ z', s.sys.Filled z' ∧ commitPage p va { s with sys := z } = endStatus (idle { s with sys := z' }) p poolEmpty none := by
  simp only [commitPage, hl, if_neg he, pool_filled hz, hp]
  obtain ⟨z', hz', h⟩ := pageThen_filled hz hmay _
  exact ⟨z', hz', h.trans (if_pos hq)⟩

/-- A commit from a pool that holds a frame. -/
theorem commitPage_frame {q : Pool} (he : pteSparse e ≠ 0) (hp : s.pool p.ctx = some q)
    (hmay : ∃ y, s.sys.ctlFate p.ctx [(q.key, 24, false)] = .go y) (hq : q.count ≠ 0)
    (hmay2 : ∃ y, s.sys.ctlFate p.ctx [(q.entry (q.count - 1), 8, false)] = .go y)
    (hmay3 : ∃ y, s.sys.ctlFate p.ctx [(q.key, 4, true), (mainKey 0 (q.lastFrame s.mem), 65536, true), (key, 8, true)] = .go y) :
    ∃ z', s.sys.Filled z' ∧ commitPage p va { s with sys := z } = commitFrame p q key va e { s with sys := z' } := by
  simp only [commitPage, hl, if_neg he, pool_filled hz, hp]
  obtain ⟨z1, hz1, h1⟩ := pageThen_filled hz hmay _
  rw [h1, if_neg hq]
  obtain ⟨z2, hz2, h2⟩ := pageThen_filled hz1 hmay2 _
  rw [h2]
  obtain ⟨z3, hz3, h3⟩ := pageThen_filled hz2 hmay3 _
  exact ⟨z3, hz3, h3⟩

end

/-! ### Decommits (R48) -/

/-- What a decommit of a normal page changes first: the leaf, and its own arguments, which keep the old one for the push of its frame. -/
def decommitFrame (p : Op) (zero : Bool) (key va : Nat) (e : Word) (s : State) : Upd :=
  let u := rewriteLeaf p key va (leafWith e (pteFrame e) (if zero then 2 else 1)) s
  { u with sys := u.sys.modOp p.id (fun x => { x with args := x.args.take 1 ++ [BitVec.ofNat 64 key, e] }) }

section
variable {s : State} {z : Sys} (hz : s.sys.Filled z) {p : Op} {zero : Bool} {va key : Nat} {e : Word}
  (hl : pageLeaf p va { s with sys := z } = .leaf key e)
include hl

theorem decommitPage_already (he : pteSparse e = if zero then 2 else 1) :
    decommitPage p zero va { s with sys := z } = endStatus (idle { s with sys := z }) p heapAlready none := by
  simp only [decommitPage, hl, if_pos he]

include hz

/-- A decommit of a page in the other reserve mode. -/
theorem decommitPage_reserved (he : pteSparse e ≠ if zero then 2 else 1) (h0 : pteSparse e ≠ 0)
    (hmay : ∃ y, s.sys.ctlFate p.ctx [(key, 8, true)] = .go y) :
    ∃ z', s.sys.Filled z' ∧ decommitPage p zero va { s with sys := z } =
      rewriteLeaf p key va (leafWith e (pteFrame e) (if zero then 2 else 1)) { s with sys := z' } := by
  have h0' : (pteSparse e != 0) = true := by simpa using h0
  simp only [decommitPage, hl, if_neg he, if_pos h0']
  exact pageThen_filled hz hmay _

section
variable (h0 : pteSparse e = 0)
include h0

/-- A decommit of a normal page goes to the pool. -/
theorem decommitPage_normal : decommitPage p zero va { s with sys := z } =
    match s.pool p.ctx with
    | none => endStatus (idle { s with sys := z }) p poolFull none
    | some q => pageThen p { s with sys := z } [(q.key, 24, false)] (fun s =>
        if q.cap ≤ q.count then endStatus (idle s) p poolFull none
        else pageThen p s [(q.key, 4, true), (q.entry q.count, 8, true), (key, 8, true)] (decommitFrame p zero key va e)) := by
  have he : pteSparse e ≠ if zero then 2 else 1 := by rw [h0]; cases zero <;> decide
  have h0' : ¬ (pteSparse e != 0) = true := by simp [h0]
  simp only [decommitPage, hl, if_neg he, if_neg h0', pool_filled hz]
  rfl

theorem decommitPage_noPool (hp : s.pool p.ctx = none) :
    decommitPage p zero va { s with sys := z } = endStatus (idle { s with sys := z }) p poolFull none := by
  rw [decommitPage_normal hz hl h0, hp]

theorem decommitPage_full {q : Pool} (hp : s.pool p.ctx = some q)
    (hmay : ∃ y, s.sys.ctlFate p.ctx [(q.key, 24, false)] = .go y) (hq : q.cap ≤ q.count) :
    ∃ z', s.sys.Filled z' ∧ decommitPage p zero va { s with sys := z } = endStatus (idle { s with sys := z' }) p poolFull none := by
  obtain ⟨z', hz', h⟩ := pageThen_filled hz hmay _
  rw [decommitPage_normal hz hl h0, hp]
  exact ⟨z', hz', h.trans (if_pos hq)⟩

theorem decommitPage_frame {q : Pool} (hp : s.pool p.ctx = some q)
    (hmay : ∃ y, s.sys.ctlFate p.ctx [(q.key, 24, false)] = .go y) (hq : q.count < q.cap)
    (hmay2 : ∃ y, s.sys.ctlFate p.ctx [(q.key, 4, true), (q.entry q.count, 8, true), (key, 8, true)] = .go y) :
    ∃ z', s.sys.Filled z' ∧ decommitPage p zero va { s with sys := z } = decommitFrame p zero key va e { s with sys := z' } := by
  obtain ⟨z1, hz1, h1⟩ := pageThen_filled hz hmay _
  obtain ⟨z2, hz2, h2⟩ := pageThen_filled hz1 hmay2 _
  rw [decommitPage_normal hz hl h0, hp]
  exact ⟨z2, hz2, h1.trans ((if_neg (Nat.not_le.2 hq)).trans h2)⟩

end

end

/-! ### The last stage (R47 step 7, R48 steps 3 and 4) -/

/-- A further write of a command to a home that serves it. -/
theorem andThen_commandPut {s t : State} {u : Upd} {k n : Nat} (h : s.sys.PageStep u.sys) (hk : s.sys.accessFails k n false = none)
    (op : Nat) (bs : List Byte) : s.sys.PageStep (Upd.andThen t u (commandPut op k bs)).sys ∧
      (Upd.andThen t u (commandPut op k bs)).stores = u.stores ++ [.bytes k bs] := by
  refine ⟨h.trans (.of_written (.commandPut _ _ _ (commit t u))), ?_⟩
  rw [Upd.andThen_stores, commandPut_stores (s := commit t u) op bs ((h.serves ..).trans hk)]

/-- The decommit's frame `e` goes to the pool `q`, behind its last entry, and the leaf at `key` loses it. -/
def pushLast (p : Op) (q : Pool) (key : Nat) (e : Word) (s : State) : Upd :=
  Upd.andThen s (Upd.andThen s (commandPut p.id (q.entry q.count) (leBytes 8 (pteFrame e)) s)
    (commandPut p.id q.key (leBytes 4 (q.count + 1))))
    (commandPut p.id key (leBytes 8 (leafWith (s.mem.word key) 0 (pteSparse (s.mem.word key))).toNat))

theorem pushLast_spec {s t : State} (hst : s.sys.PageStep t.sys) {p : Op} {q : Pool} {key : Nat} (e : Word)
    (he : s.sys.accessFails (q.entry q.count) 8 false = none) (hq : s.sys.accessFails q.key 4 false = none)
    (hk : s.sys.accessFails key 8 false = none) :
    s.sys.PageStep (pushLast p q key e t).sys ∧ (pushLast p q key e t).stores =
      [.bytes (q.entry q.count) (leBytes 8 (pteFrame e)), .bytes q.key (leBytes 4 (q.count + 1)),
       .bytes key (leBytes 8 (leafWith (t.mem.word key) 0 (pteSparse (t.mem.word key))).toNat)] := by
  have h1 : s.sys.PageStep (commandPut p.id (q.entry q.count) (leBytes 8 (pteFrame e)) t).sys :=
    hst.trans (.of_written (.commandPut ..))
  have hs1 := commandPut_stores p.id (leBytes 8 (pteFrame e)) ((hst.serves ..).trans he)
  obtain ⟨h2, hs2⟩ := andThen_commandPut (t := t) h1 hq p.id (leBytes 4 (q.count + 1))
  obtain ⟨h3, hs3⟩ := andThen_commandPut (t := t) h2 hk p.id
    (leBytes 8 (leafWith (t.mem.word key) 0 (pteSparse (t.mem.word key))).toNat)
  exact ⟨h3, by rw [pushLast, hs3, hs2, hs1]; rfl⟩

/-- The push of a decommit's frame, once nothing stands against its accesses. -/
theorem pushFrame_eq {s : State} {p : Op} {q : Pool} {key : Nat} (e : Word) (hp : s.pool p.ctx = some q)
    (hmay : ∃ y, s.sys.ctlFate p.ctx
      [(q.key, 24, false), (q.key, 4, true), (q.entry q.count, 8, true), (key, 8, false), (key, 8, true)] = .go y) :
    ∃ z, s.sys.Filled z ∧ pushFrame p key e s =
      Upd.andThen { s with sys := z } (pushLast p q key e { s with sys := z }) (fun t => endPage (idle t) p) := by
  simp only [pushFrame, hp]
  exact pageThen_filled (.refl s.sys) hmay _

section
variable {s : State} {p : Op} {va : Nat} (hop : s.sys.op? p.id = some p) (hst : p.stage = .running)
  (hva : (p.args.getD 0 0).toNat = va) (hd : s.sys.pageDrained p.ctx (va / 65536) = true)
include hop hst hva hd

theorem exec_pageCommit_drained {d a : SReg} {w : OptS} {fs : Bool} (hi : p.instr = .pcommit d a w fs) :
    exec (.pageCommit p.id) s = machineStep s (recallFirst s (endPage (idle s) p)) := by
  have hdr : p.draining = true := by rw [Op.draining, hst]; rfl
  simp only [Machine.exec_pageCommit, execPageCommit, hop, hi, if_pos hdr, hva, if_pos hd]

/-- A decommit that drains goes by its arguments: a normal page's frame has still to be pushed. -/
theorem exec_pageDecommit_drained {d a : SReg} {w : OptS} {zero fs : Bool} (hi : p.instr = .pdecommit d a w zero fs) :
    (∀ x key e, p.args = [x, key, e] →
      exec (.pageDecommit p.id) s = machineStep s (recallFirst s (pushFrame p key.toNat e s))) ∧
    (∀ x, p.args = [x] → exec (.pageDecommit p.id) s = machineStep s (recallFirst s (endPage (idle s) p))) := by
  have hdr : p.draining = true := by rw [Op.draining, hst]; rfl
  have hd' : ¬ (!s.sys.pageDrained p.ctx (va / 65536)) = true := by rw [hd]; decide
  simp only [Machine.exec_pageDecommit, execPageDecommit, hop, hi, if_pos hdr, hva, if_neg hd']
  exact ⟨fun _ _ _ h => by rw [h], fun _ h => by rw [h]⟩

end

/-! ### The host's commit (R47) -/

/-- The command of the host's commit of the page of `va`. -/
def Sys.hostCommit (y : Sys) (ctx va : Nat) : Op :=
  { procOp y (.pcommit 0 0 none false) ctx 0 0 0 [BitVec.ofNat 64 va] with pc := 0 }

theorem does_hostPageCommit {s : State} (ctx va : Nat) (hr : s.sys.ctl.recovery = false) (hh : s.sys.ctl.held = false) :
    Does (.hostPageCommit ctx va) s
      (.of { s.sys with ops := s.sys.ops ++ [s.sys.hostCommit ctx va], nextId := s.sys.nextId + 1 }) :=
  does_inputStep (exec_hostPageCommit ctx va s) hr hh

/-- A command that is gone. -/
theorem Sys.op?_dropOp (y : Sys) (id : Nat) : (y.dropOp id).op? id = none := by
  simp [Sys.op?, Sys.dropOp]

theorem Sys.op?_answerPage (y : Sys) (p : Op) (n : Nat) : (y.answerPage p).op? n = y.op? n := by
  unfold Sys.answerPage
  split <;> rfl

/-- The commit of the host completes: its status and witness are returned, and the command is gone. -/
theorem does_engineCommandComplete_host {s : State} {p : Op} {d a : SReg} {w : OptS} {fs : Bool} (hop : s.sys.op? p.id = some p)
    (hw : p.warp = none) (ht : s.sys.taskRecord p = none) (hi : p.instr = .pcommit d a w fs) (hst : p.stage = .done)
    (hd : s.sys.drained p.id = true) (hh : s.sys.ctl.held = false) :
    Does (.engineCommandComplete p.id) s (.of (((s.sys.dropOp p.id).mark p.ctx).answerPage p)) := by
  refine does_of_eq (exec_engineCommandComplete _ _) ?_
  have ho : p.engineOrigin = .host := by rw [Op.engineOrigin, hi]
  have hf : s.sys.frozenBy .host = false := rfl
  have hr : p.statusResults = [] := by rw [Op.statusResults, hi]
  simp [hop, hi, hw, ht, hst, hd, hh, ho, hf, hr]
  rw [← hi, ← hst, ← hw]

/-- What the host is given is the commit's status and its second result. -/
theorem Sys.answerPage_pageAnswer {y : Sys} {p : Op} {d a : SReg} {w : OptS} {fs : Bool} {n v : Word} {rest : List (Nat × Word)}
    (hi : p.instr = .pcommit d a w fs) (hr : p.results = (codeS d.toNat, n) :: (codeS (d.toNat + 1), v) :: rest) :
    (y.answerPage p).ctl.pageAnswer = some (p.status, v) := by
  have hne : (codeS d.toNat == codeS (d.toNat + 1)) = false := by simp [codeS]
  simp [Sys.answerPage, hi, hr, hne]

end Sys2Proof.Machine
end

section
/-! How a page command's steps end (R47, R48, R329). -/

namespace Sys2Proof.Machine

section
variable {i : Instr} {s : State} {z : Sys} {p : Op} {sub r : Nat} (hz : s.sys.Filled z) (hop : s.sys.op? p.id = some p)
  (hf : heapForm p.instr = some (sub, r)) (h1 : sub ≠ 1) (h2 : sub ≠ 2)
include hz hop hf h1 h2

/-- A page command ends with a status that its D result repeats. -/
theorem ends_of_endStatus {status : Nat}
    (h : exec i s = machineStep s (recallFirst s (endStatus (idle { s with sys := z }) p status none))) :
    Ends i s p status none [(codeS r, BitVec.ofNat 64 status), (codeS (r + 1), 0), (codeHstat, BitVec.ofNat 64 (sub * 2 ^ 24 + status))]
      (fun u => u.stores = []) :=
  ends_of_endHeap h rfl ((hz.op? p.id).trans hop) hf h1 h2

end

/-- A page command ends OK, with a device-scope witness. -/
theorem ends_of_endPage {i : Instr} {s : State} {p : Op} {sub r : Nat} (hop : s.sys.op? p.id = some p)
    (hf : heapForm p.instr = some (sub, r)) (h1 : sub ≠ 1) (h2 : sub ≠ 2)
    (h : exec i s = machineStep s (recallFirst s (endPage (idle s) p))) :
    Ends i s p 0 none [(codeS r, 0), (codeS (r + 1), mkWit 2 0 s.sys.time.now), (codeHstat, BitVec.ofNat 64 (sub * 2 ^ 24 + 0))]
      (fun u => u.stores = []) :=
  ends_of_endHeap h rfl hop hf h1 h2

/-- The step rewrites the page's leaf among the stores `l`. -/
theorem rewrites_of_leafRewritten {i : Instr} {s : State} {p : Op} {va : Nat} {u : Upd} {l : List Store}
    (h : exec i s = machineStep s (recallFirst s u)) (hs : u.stores = l) (hl : LeafRewritten s p va u.sys) :
    ∃ u q, Does i s (recallFirst s u) ∧ u.stores = l ∧ u.sys.op? p.id = some q ∧ q.stage = .running ∧
      (∀ t ∈ u.sys.tlb, t.covers (s.sys.ctxTag p.ctx) (va / 65536 * 65536) = false) ∧
      (∀ f ∈ u.sys.found, f.covers p.ctx (va / 65536) = false) := by
  obtain ⟨⟨q, hq, hr⟩, ht, hf⟩ := hl
  exact ⟨u, q, h, hs, hq, hr, ht, hf⟩

theorem decommitFrame_spec {s : State} {z : Sys} (hz : s.sys.Filled z) {p : Op} (zero : Bool) {key : Nat} (va : Nat) (e : Word)
    (hop : s.sys.op? p.id = some p) (hk : s.sys.accessFails key 8 false = none) :
    LeafRewritten s p va (decommitFrame p zero key va e { s with sys := z }).sys ∧
      (decommitFrame p zero key va e { s with sys := z }).stores =
        [.bytes key (leBytes 8 (leafWith e (pteFrame e) (if zero then 2 else 1)).toNat)] :=
  ⟨(rewriteLeaf_spec (t := { s with sys := z }) (.of_filled hz) va _ hop).modOp (fun _ => rfl) (fun _ => rfl),
    rewriteLeaf_stores (t := { s with sys := z }) (.of_filled hz) va _ hk⟩

/-- A leaf without a frame. -/
theorem leafWith_zero (e : Word) (mode : Nat) :
    leafWith e 0 mode = (e &&& ~~~0x0000FFFFFFFF0030#64) ||| BitVec.ofNat 64 (mode * 16) := by
  rw [leafWith, Nat.zero_div, Nat.zero_mod, Nat.zero_mul, Nat.zero_add]

/-- The push of a decommit's frame ends the command, once its accesses may be made. -/
theorem pushFrame_spec {s : State} {p : Op} {q : Pool} {key sub r : Nat} (e : Word) (hop : s.sys.op? p.id = some p)
    (hf : heapForm p.instr = some (sub, r)) (h1 : sub ≠ 1) (h2 : sub ≠ 2) (hp : s.pool p.ctx = some q)
    (hmay : ∃ y, s.sys.ctlFate p.ctx
      [(q.key, 24, false), (q.key, 4, true), (q.entry q.count, 8, true), (key, 8, false), (key, 8, true)] = .go y) :
    (pushFrame p key e s).stores =
      [.bytes (q.entry q.count) (leBytes 8 (pteFrame e)), .bytes q.key (leBytes 4 (q.count + 1)),
       .bytes key (leBytes 8 (leafWith (s.mem.word key) 0 (pteSparse (s.mem.word key))).toNat)] ∧
    (pushFrame p key e s).sys.op? p.id = some { p.ends 0 none with
      results := [(codeS r, 0), (codeS (r + 1), mkWit 2 0 s.sys.time.now), (codeHstat, BitVec.ofNat 64 (sub * 2 ^ 24 + 0))] } := by
  obtain ⟨y, hgo⟩ := hmay
  obtain ⟨-, -, hserve, -⟩ := (Sys.ctlFate_go_iff ..).1 hgo
  obtain ⟨z, hz, h⟩ := pushFrame_eq e hp ⟨y, hgo⟩
  obtain ⟨hstep, hs⟩ := pushLast_spec (t := { s with sys := z }) (.of_filled hz) (p := p) (q := q) (key := key) e
    (hserve (q.entry q.count, 8, true) (by simp)) (hserve (q.key, 4, true) (by simp)) (hserve (key, 8, true) (by simp))
  rw [h, Upd.andThen_sys, Upd.andThen_stores]
  refine ⟨(List.append_nil _).trans hs, ?_⟩
  have hend := endHeap_op? (u := .of (pushLast p q key e { s with sys := z }).sys) (p := p) 0 0
    (pushLast p q key e { s with sys := z }).sys.pageWit none ((hstep.op? p.id).trans hop) hf h1 h2
  have hwit : (pushLast p q key e { s with sys := z }).sys.pageWit = mkWit 2 0 s.sys.time.now := by
    rw [Sys.pageWit, hstep.time]; rfl
  rw [← hwit]
  exact hend

end Sys2Proof.Machine

open Sys2Proof Sys2Proof.Machine

/-- Settles O22: a page command that may start goes by its leaf, its pool and its accesses, and one that drains by its own arguments; what
the fills of home caches and the writes in between leave (`Sys.PageStep`) carries the facts of the first state to the last. -/
theorem pageCommandsServed : Obligations.PageCommandsServed := by
  unfold Obligations.PageCommandsServed
  intro s p d a w zero fs va key e q ctx hva core starts i entry frame may leaf mode status ends rewrites
  have hargs : ∀ v, va < 2 ^ 56 → ((BitVec.ofNat 64 va :: v).getD 0 0).toNat = va := fun v h => by
    simp only [List.getD_cons_zero, BitVec.toNat_ofNat]
    exact Nat.mod_eq_of_lt (by omega)
  have hstarts : starts → PageStarts s p va := fun ⟨⟨hop, ht, ha, hlt⟩, hw, hm, hq, hwit, _⟩ =>
    ⟨hop, ht, by rw [ha]; exact hargs [] hlt, hw, hm, hq, hwit⟩
  have hserve : ∀ l, may l → ∀ x ∈ l, s.sys.accessFails x.1 x.2.1 (!x.2.2) = none := fun l ⟨y, hy⟩ =>
    ((Sys.ctlFate_go_iff ..).1 hy).2.2.1
  have hfill := Sys.Filled.walkFills s p.ctx va s.sys
  refine ⟨fun hi h => ?commit, fun hi h => ?decommit, fun hi ⟨hop, _, ha, hlt⟩ hst hd => ?committed,
    fun hi hop hst ha hlt hkey hd hp hmay => ?push, fun hi ⟨hop, _, ha, hlt⟩ hst hd => ?decommitted,
    fun hr hh => ⟨s.sys.hostCommit ctx hva, rfl, rfl, rfl, rfl, rfl, rfl, does_hostPageCommit ctx hva hr hh⟩,
    fun n v rest hop hw ht hi hst hres hd hh => ?host⟩
  case commit =>
    have hs := hstarts h
    have hl := pageLeaf_filled hfill h.2.2.2.2.2
    have hexec := hs.exec_pageCommit hi
    have hform : heapForm p.instr = some (3, d.toNat) := by rw [hi]; rfl
    refine ⟨fun he => ?already, fun he hp => ?noPool, fun he hp hmay => ⟨fun hq => ?empty, fun hq hmay2 hmay3 => ?frame⟩⟩
    case already =>
      rw [commitPage_already hl he] at hexec
      exact ends_of_endStatus hfill hs.here hform (by decide) (by decide) hexec
    case noPool =>
      rw [commitPage_noPool hfill hl he hp] at hexec
      exact ends_of_endStatus hfill hs.here hform (by decide) (by decide) hexec
    case empty =>
      obtain ⟨z, hz, hc⟩ := commitPage_empty hfill hl he hp hmay hq
      rw [hc] at hexec
      exact ends_of_endStatus hz hs.here hform (by decide) (by decide) hexec
    case frame =>
      obtain ⟨z, hz, hc⟩ := commitPage_frame hfill hl he hp hmay hq hmay2 hmay3
      rw [hc] at hexec
      have hsv := hserve _ hmay3
      obtain ⟨hleaf, hst⟩ := commitFrame_spec (t := { s with sys := z }) (.of_filled hz) va e hs.here
        (hsv (q.key, 4, true) (by simp)) (hsv (mainKey 0 frame, 65536, true) (by simp)) (hsv (key, 8, true) (by simp))
      exact rewrites_of_leafRewritten hexec hst hleaf
  case decommit =>
    have hs := hstarts h
    have hl := pageLeaf_filled hfill h.2.2.2.2.2
    have hexec := hs.exec_pageDecommit hi
    have hform : heapForm p.instr = some (4, d.toNat) := by rw [hi]; rfl
    refine ⟨fun he => ?already, fun he h0 hmay => ?reserved, fun h0 hp => ?noPool,
      fun h0 hp hmay => ⟨fun hq => ?full, fun hq hmay2 => ?frame⟩⟩
    case already =>
      rw [decommitPage_already hl he] at hexec
      exact ends_of_endStatus hfill hs.here hform (by decide) (by decide) hexec
    case reserved =>
      obtain ⟨z, hz, hc⟩ := decommitPage_reserved hfill hl he h0 hmay
      rw [hc] at hexec
      have hk := hserve _ hmay (key, 8, true) (by simp)
      exact rewrites_of_leafRewritten hexec (rewriteLeaf_stores (t := { s with sys := z }) (.of_filled hz) va _ hk)
        (rewriteLeaf_spec (t := { s with sys := z }) (.of_filled hz) va _ hs.here)
    case noPool =>
      rw [decommitPage_noPool hfill hl h0 hp] at hexec
      exact ends_of_endStatus hfill hs.here hform (by decide) (by decide) hexec
    case full =>
      obtain ⟨z, hz, hc⟩ := decommitPage_full hfill hl h0 hp hmay hq
      rw [hc] at hexec
      exact ends_of_endStatus hz hs.here hform (by decide) (by decide) hexec
    case frame =>
      obtain ⟨z, hz, hc⟩ := decommitPage_frame hfill hl h0 hp hmay hq hmay2
      rw [hc] at hexec
      obtain ⟨hleaf, hst⟩ := decommitFrame_spec hz zero va e hs.here (hserve _ hmay2 (key, 8, true) (by simp))
      exact rewrites_of_leafRewritten hexec hst hleaf
  case committed =>
    have hva : (p.args.getD 0 0).toNat = va := by rw [ha]; exact hargs [] hlt
    have hform : heapForm p.instr = some (3, d.toNat) := by rw [hi]; rfl
    exact ends_of_endPage hop hform (by decide) (by decide) (exec_pageCommit_drained hop hst hva hd hi)
  case push =>
    have hva : (p.args.getD 0 0).toNat = va := by rw [ha]; exact hargs _ hlt
    have hform : heapForm p.instr = some (4, d.toNat) := by rw [hi]; rfl
    have hexec := (exec_pageDecommit_drained hop hst hva hd hi).1 _ _ _ ha
    rw [BitVec.toNat_ofNat, Nat.mod_eq_of_lt hkey] at hexec
    obtain ⟨hs, hq⟩ := pushFrame_spec e hop hform (by decide) (by decide) hp hmay
    rw [leafWith_zero] at hs
    exact ⟨_, _, hexec, hs, hq, rfl, rfl, rfl, rfl, rfl, rfl⟩
  case decommitted =>
    have hva : (p.args.getD 0 0).toNat = va := by rw [ha]; exact hargs [] hlt
    have hform : heapForm p.instr = some (4, d.toNat) := by rw [hi]; rfl
    exact ends_of_endPage hop hform (by decide) (by decide) ((exec_pageDecommit_drained hop hst hva hd hi).2 _ ha)
  case host =>
    exact ⟨_, does_engineCommandComplete_host hop hw ht hi hst hd hh, rfl,
      (Sys.op?_answerPage ..).trans (Sys.op?_dropOp s.sys p.id), Sys.answerPage_pageAnswer hi hres⟩

end

section
/-! A migration's copy (R51, R52): it stales the migrations whose leaf lies in the destination frame, its own among them. -/

namespace Sys2Proof.Machine

/-- A performed write stales every migration whose leaf it covers (R52). -/
theorem Sys.performed_migrations (y : Sys) (o : Origin) (tick key n op : Nat) : (y.performed o tick key n op).migrations =
    y.migrations.map (fun m => if overlaps m.leafKey 8 key n then { m with stale := true } else m) := by
  unfold Sys.performed
  dsimp only
  split <;> rfl

/-- The copy writes the whole destination frame. -/
theorem copyFrame_migrations (m : Migration) (s : State) : (copyFrame m s).sys.migrations =
    s.sys.migrations.map (fun x => if overlaps x.leafKey 8 (mainKey 0 m.dst) 65536 then { x with stale := true } else x) := by
  have hfill := Sys.Filled.fillFor s.sys (mainKey 0 m.src) 65536 false m.ctx m.vpage
  exact (Sys.performed_migrations ..).trans (by rw [hfill.migrations])

/-- The copy of a migration whose frames are online. -/
theorem exec_pageMigration_copy {s : State} {ctx va dst : Nat} {m : Migration} (hm : s.sys.migration? ctx (va / 65536) = some m)
    (hdst : m.dst = dst) (hp : m.phase = .drain) (ho : s.sys.framesOnline m = true) (hh : s.sys.ctl.held = false) :
    exec (.pageMigration ctx va dst .copy) s =
      machineStep s (recallFirst s (copyFrame m { s with sys := s.sys.setMigration { m with phase := .copy } })) := by
  rw [exec_pageMigration]
  simp [execPageMigration, hm, hdst, hp, ho, hh]

/-- A step does one change of the machine's parts. -/
theorem Does.sys_eq {i : Instr} {s : State} {u v : Upd} (hu : Does i s u) (hv : exec i s = machineStep s v) : u.sys = v.sys := by
  have h : Host.Outcome.next (commit s u) = (.next (commit s v) : Host.Outcome State Fault Refusal) := hu.symm.trans hv
  injection h with h
  exact congrArg State.sys h

/-! ### The counterexample -/

/-- A migration of page 2 of context 0 whose leaf lies in its own destination frame, drained and not stale. -/
def leafInTarget : Migration where
  ctx := 0
  vpage := 2
  src := 0x20000
  dst := 0x70000
  pte := BitVec.ofNat 64 0x20001
  leafKey := mainKey 0 0x70010
  phase := .drain
  background := false
  stale := false

/-- The machine after reset with every region online and this migration under way. -/
def leafInTargetState : State where
  mem := []
  sys := { Sys.reset with
    dies := Vector.replicate 6 { Die.reset with regionAll := { Die.reset.regionAll with state := 1 } }
    migrations := [leafInTarget] }

theorem leafInTargetState_nothingHeld : leafInTargetState.sys.NothingHeld :=
  ⟨rfl, rfl, rfl, rfl, List.forall_mem_nil _⟩

theorem leafInTargetState_framesOnline : leafInTargetState.sys.framesOnline leafInTarget = true := by decide

/-- The step that copies the frame leaves the migration stale. -/
theorem leafInTarget_copied {u : Upd}
    (h : Does (.pageMigration 0 0x20000 0x70000 .copy) leafInTargetState (recallFirst leafInTargetState u)) :
    u.sys.migration? 0 2 = some { leafInTarget with phase := .copy, stale := true } := by
  have hexec := exec_pageMigration_copy (s := leafInTargetState) (ctx := 0) (va := 0x20000) (m := leafInTarget) rfl rfl rfl
    leafInTargetState_framesOnline rfl
  rw [recallFirst_nothingHeld _ _ leafInTargetState_nothingHeld] at h hexec
  have hset : (leafInTargetState.sys.setMigration { leafInTarget with phase := .copy }).migrations = [{ leafInTarget with phase := .copy }] :=
    rfl
  have hover : overlaps leafInTarget.leafKey 8 (mainKey 0 leafInTarget.dst) 65536 = true := by decide
  rw [Sys.migration?, h.sys_eq hexec, copyFrame_migrations, hset, List.map_singleton, if_pos hover]
  rfl

end Sys2Proof.Machine

open Sys2Proof Sys2Proof.Machine

/-- Refutes O51: the copy of a migration writes the leaf that lies in its own destination frame, so the migration is at the copy's phase, but
stale; the statement has it not stale. -/
theorem not_migrationEpochsAndScrubs : ¬ Obligations.MigrationEpochsAndScrubs := by
  unfold Obligations.MigrationEpochsAndScrubs
  intro h
  obtain ⟨-, -, hdrain, -⟩ := h leafInTargetState 0 0x20000 0x70000 leafInTarget 0 0 0 0 0 0 0 0 (codeWarp 1 2 false false) (codeBlock 2)
    (.acc 0 0) 0 0 0 0 (.marker 0) zeroLanes 0 0
  obtain ⟨u, hdoes, hmoves, -⟩ := (hdrain ⟨rfl, rfl, rfl, rfl, rfl, rfl, rfl⟩).1 leafInTargetState_framesOnline
  have hstale : some { leafInTarget with phase := .copy } = some { leafInTarget with phase := .copy, stale := true } :=
    hmoves.symm.trans (leafInTarget_copied hdoes)
  exact absurd hstale (by decide)

end

section
/-! Memory requests that fail (R155, R163), reads at the stacks (R149), and lines that leave a home cache (R70): what each changes. -/

namespace Sys2Proof.Machine

/-! ### Failing requests (R155) -/

/-- A request that fails changes the requests under way and the operations alone. -/
theorem Sys.failReq_rest (y : Sys) (r : Req) (why : Reason) :
    y.failReq r why = { y with reqs := (y.failReq r why).reqs, ops := (y.failReq r why).ops } := by
  unfold Sys.failReq
  dsimp only
  split
  · split <;> rfl
  · rfl
  · rfl
  · rfl

/-- A failed request is under way no longer, unless its asker still takes up the failure. -/
theorem Sys.failReq_reqs {r : Req} (h : ∀ a why, r.kind ≠ .asked a why) (y : Sys) (why : Reason) :
    (y.failReq r why).reqs = y.reqs.filter (fun x => x.id != r.id) := by
  unfold Sys.failReq
  cases hk : r.kind with
  | asked a w => exact absurd hk (h a w)
  | read | write | atomic | held => rfl

/-- Some requests fail, one after another. -/
def Sys.failAll (y : Sys) (l : List Req) (why : Reason) : Sys := l.foldl (fun z r => z.failReq r why) y

/-- A part of the machine that no failing request changes. -/
theorem Sys.failAll_keeps {α : Type} (f : Sys → α) (hf : ∀ y R O, f { y with reqs := R, ops := O } = f y) (y : Sys) (l : List Req)
    (why : Reason) : f (y.failAll l why) = f y := by
  induction l generalizing y with
  | nil => rfl
  | cons r l ih => exact (ih (y.failReq r why)).trans (by rw [Sys.failReq_rest, hf])

theorem Sys.failAll_reqs {l : List Req} (h : ∀ r ∈ l, ∀ a why, r.kind ≠ .asked a why) (y : Sys) (why : Reason) :
    (y.failAll l why).reqs = y.reqs.filter (fun x => !l.any (fun r => r.id == x.id)) := by
  induction l generalizing y with
  | nil => exact (List.filter_eq_self.2 fun _ _ => rfl).symm
  | cons r l ih =>
    refine (ih (fun q hq => h q (.tail _ hq)) (y.failReq r why)).trans ?_
    rw [Sys.failReq_reqs (h r (.head _)), List.filter_filter]
    refine List.filter_congr fun x _ => ?_
    rw [List.any_cons, Bool.not_or, Bool.and_comm, bne, BEq.comm]

/-- A write is never asked for. -/
theorem ReqKind.ne_asked_of_writes {k : ReqKind} (h : k.writes = true) (a : Asker) (why : Option Reason) : k ≠ .asked a why := by
  rintro rfl
  cases h

/-- Writes that fail are under way no longer. -/
theorem Sys.mem_failAll_reqs {l : List Req} {y : Sys} {why : Reason} (h : ∀ r ∈ l, r.kind.writes = true) {x : Req} :
    x ∈ (y.failAll l why).reqs ↔ x ∈ y.reqs ∧ ∀ r ∈ l, r.id ≠ x.id := by
  rw [Sys.failAll_reqs fun r hr => ReqKind.ne_asked_of_writes (h r hr), List.mem_filter]
  simp

/-! ### Reads at the stacks and lines that leave a cache (R70, R149) -/

theorem Sys.stackRead_rest (y : Sys) (q : Wanted) : y.stackRead q = { y with dies := (y.stackRead q).dies } := by
  unfold Sys.stackRead
  dsimp only
  split
  · split <;> rfl
  · rfl

/-- Sectors read at their stacks change nothing but what the dies count. -/
theorem Sys.stackReads_keeps {β : Type} (g : Sys → β) (hg : ∀ y D, g { y with dies := D } = g y) {α : Type} (f : α → Wanted) (l : List α)
    (y : Sys) : g (l.foldl (fun z a => z.stackRead (f a)) y) = g y := by
  induction l generalizing y with
  | nil => rfl
  | cons a l ih => exact (ih (y.stackRead (f a))).trans (by rw [Sys.stackRead_rest, hg])

theorem Sys.Filled.writeBack (y : Sys) (line : Nat) : y.Filled (y.writeBack line) :=
  (Filled.foldl (fun z (c : Nat × Bool) => z.stackRead { sector := c.1, ctx := 0, vpage := 0 }) (fun z _ => .stackRead z _) _ y).trans
    (.setCached _ _)

theorem Sys.writeBack_cached (y : Sys) (line : Nat) :
    (y.writeBack line).cached = y.cached.filter (fun c => c.1 / 256 != line / 256) := by
  unfold Sys.writeBack
  dsimp only
  rw [Sys.stackReads_keeps Sys.cached (fun _ _ => rfl) (fun c : Nat × Bool => { sector := c.1, ctx := 0, vpage := 0 })]

/-- Nothing of the lines that were written back is left in the caches. -/
theorem Sys.mem_writeBacks {l : List Nat} {y : Sys} {c : Nat × Bool} (h : c ∈ (l.foldl Sys.writeBack y).cached) :
    c ∈ y.cached ∧ ∀ line ∈ l, c.1 / 256 ≠ line / 256 := by
  induction l generalizing y with
  | nil => exact ⟨h, List.forall_mem_nil _⟩
  | cons line l ih =>
    obtain ⟨hc, hl⟩ := ih h
    rw [Sys.writeBack_cached, List.mem_filter, bne_iff_ne] at hc
    exact ⟨hc.1, List.forall_mem_cons.2 ⟨hc.2, hl⟩⟩

end Sys2Proof.Machine
end

section
/-! Packets and sectors of main memory (R70, R142, R143), back-invalidation (R464), timeouts (R163) and bounced requests (R50, R51). -/

namespace Sys2Proof.Machine

/-! ### Packets (R50, R142) -/

/-- The sectors asked for after one more, which has been returned, or is asked for already, or is asked for now. -/
def askOnce (returned : List Nat) (w : List Wanted) (q : Wanted) : List Wanted :=
  if w.any (fun v => v.sector == q.sector) || returned.contains q.sector then w else w ++ [q]

theorem mem_askOnce {returned : List Nat} {w : List Wanted} {q v : Wanted} (h : v ∈ w) : v ∈ askOnce returned w q := by
  unfold askOnce
  split
  · exact h
  · exact List.mem_append_left _ h

/-- After its turn a sector has been returned or is asked for. -/
theorem askOnce_asked (returned : List Nat) (w : List Wanted) (q : Wanted) :
    q.sector ∈ returned ∨ ∃ v ∈ askOnce returned w q, v.sector = q.sector := by
  unfold askOnce
  split
  · next h =>
    rcases Bool.or_eq_true_iff.1 h with h | h
    · obtain ⟨v, hv, he⟩ := List.any_eq_true.1 h
      exact .inr ⟨v, hv, beq_iff_eq.1 he⟩
    · exact .inl (List.contains_iff_mem.1 h)
  · exact .inr ⟨q, by simp, rfl⟩

/-- Sectors asked for in turn: none is forgotten, and each has been returned or is asked for. -/
theorem askAll_spec (returned : List Nat) (l w : List Wanted) :
    (∀ v ∈ w, v ∈ l.foldl (askOnce returned) w) ∧
    (∀ q ∈ l, q.sector ∈ returned ∨ ∃ v ∈ l.foldl (askOnce returned) w, v.sector = q.sector) := by
  induction l generalizing w with
  | nil => exact ⟨fun _ h => h, List.forall_mem_nil _⟩
  | cons q l ih =>
    obtain ⟨hkeep, hask⟩ := ih (askOnce returned w q)
    refine ⟨fun v hv => hkeep v (mem_askOnce hv), List.forall_mem_cons.2 ⟨?_, hask⟩⟩
    exact (askOnce_asked returned w q).imp_right fun ⟨v, hv, he⟩ => ⟨v, hkeep v hv, he⟩

theorem Sys.packet_notFrozen {y : Sys} {rs : List Req}
    (h : ¬ ∃ r ∈ rs, r.kind.writes = true ∧ r.arrived = false ∧ y.frozenFrame r.key = true) :
    ¬ rs.any (fun r => r.kind.writes && !r.arrived && y.frozenFrame r.key) = true := by
  simpa [and_assoc] using h

section
variable {s : State} {op page : Nat} (hne : s.sys.packet op page ≠ [])
  (hacc : ∀ r ∈ s.sys.packet op page, s.sys.accepts r = true) (hin : ingressOf (s.sys.packet op page) = none)
include hne hacc hin

/-- A packet of the package's own that its home accepts is bounced, held, served, or waits for its sectors. -/
theorem exec_packetServe_accepted : exec (.packetServe op page) s = machineStep s (
    let rs := s.sys.packet op page
    if rs.any (fun r => r.kind.writes && !r.arrived && s.sys.frozenFrame r.key) then
      .of { s.sys with reqs := s.sys.reqs.map (fun r => if rs.any (fun q => q.id == r.id) then { r with bounced := true } else r) }
    else if !rs.all s.sys.ready then .of (s.sys.came rs)
    else match s.sys.packetLacks rs with
      | [] => serveAccess rs s
      | l => .of { s.sys.came rs with wanted := l.foldl (askOnce s.sys.returned) s.sys.wanted }) := by
  have h : ((s.sys.packet op page).isEmpty || !(s.sys.packet op page).all s.sys.accepts) = false := by
    simpa [hne] using hacc
  rw [exec_packetServe, execPacketServe]
  simp only [h, hin]
  rfl

/-- A packet that would write a frozen frame is bounced. -/
theorem does_packetServe_frozen
    (hf : ∃ r ∈ s.sys.packet op page, r.kind.writes = true ∧ r.arrived = false ∧ s.sys.frozenFrame r.key = true) :
    Does (.packetServe op page) s (.of { s.sys with reqs := s.sys.reqs.map (fun r =>
      if (s.sys.packet op page).any (fun q => q.id == r.id) then { r with bounced := true } else r) }) := by
  obtain ⟨r, hr, hw, ha, hz⟩ := hf
  exact does_of_eq (exec_packetServe_accepted hne hacc hin) (if_pos (List.any_eq_true.2 ⟨r, hr, by simp [hw, ha, hz]⟩))

section
variable (hf : ¬ ∃ r ∈ s.sys.packet op page, r.kind.writes = true ∧ r.arrived = false ∧ s.sys.frozenFrame r.key = true)
include hf

/-- A packet waits at its home for the writes that its reads must see. -/
theorem does_packetServe_notReady (hr : ¬ ∀ r ∈ s.sys.packet op page, s.sys.ready r = true) :
    Does (.packetServe op page) s (.of (s.sys.came (s.sys.packet op page))) :=
  does_of_eq (exec_packetServe_accepted hne hacc hin)
    ((if_neg (Sys.packet_notFrozen hf)).trans (if_pos (by simpa using hr)))

section
variable (hr : ∀ r ∈ s.sys.packet op page, s.sys.ready r = true)
include hr

theorem exec_packetServe_ready : exec (.packetServe op page) s = machineStep s (
    match s.sys.packetLacks (s.sys.packet op page) with
    | [] => serveAccess (s.sys.packet op page) s
    | l => .of { s.sys.came (s.sys.packet op page) with wanted := l.foldl (askOnce s.sys.returned) s.sys.wanted }) :=
  (exec_packetServe_accepted hne hacc hin).trans (congrArg _
    ((if_neg (Sys.packet_notFrozen hf)).trans (if_neg (by simpa using hr))))

/-- A packet whose sectors its home holds is served. -/
theorem does_packetServe_served (hl : s.sys.packetLacks (s.sys.packet op page) = []) :
    Does (.packetServe op page) s (serveAccess (s.sys.packet op page) s) :=
  does_of_eq (exec_packetServe_ready hne hacc hin hf hr) (by rw [hl])

/-- A packet whose home lacks sectors waits for them. -/
theorem does_packetServe_lacks (hl : s.sys.packetLacks (s.sys.packet op page) ≠ []) :
    Does (.packetServe op page) s (.of { s.sys.came (s.sys.packet op page) with
      wanted := (s.sys.packetLacks (s.sys.packet op page)).foldl (askOnce s.sys.returned) s.sys.wanted }) := by
  refine does_of_eq (exec_packetServe_ready hne hacc hin hf hr) ?_
  split
  · next h => exact absurd h hl
  · rfl

end
end
end

/-! ### Sectors (R70, R143) -/

/-- The sectors of one packet that the base die of a stack reads next. -/
def Sys.nextSectors (y : Sys) (die stack : Nat) : List Wanted :=
  let here := y.wanted.filter (fun q => paDie (keyPA q.sector) == die && y.stackOf q == stack)
  (here.filter (fun q => some q.packet == here.head?.map (·.packet))).take 32

/-- The machine after a base die has read and returned some sectors. -/
def Sys.returning (y : Sys) (l : List Wanted) : Sys :=
  let z := (y.sorted l).foldl Sys.stackRead y
  { z with wanted := z.wanted.filter (fun q => !l.any (fun v => v.sector == q.sector)), returned := z.returned ++ l.map (·.sector) }

theorem does_sectorPacket {s : State} {die stack : Nat} (h : s.sys.nextSectors die stack ≠ []) :
    Does (.sectorPacket die stack) s (.of (s.sys.returning (s.sys.nextSectors die stack))) :=
  does_of_eq (exec_sectorPacket die stack s) (if_neg (by rw [List.isEmpty_iff]; exact h))

/-- The sectors returned are asked for no longer, and the caches, their poison and the warps are as they were. -/
theorem Sys.returning_spec (y : Sys) (l : List Wanted) : (y.returning l).returned = y.returned ++ l.map (·.sector) ∧
    (y.returning l).wanted = y.wanted.filter (fun q => !l.any (fun v => v.sector == q.sector)) ∧
    (y.returning l).warps = y.warps ∧ (y.returning l).cached = y.cached ∧ (y.returning l).poison = y.poison := by
  have keeps : ∀ {β : Type} (g : Sys → β), (∀ y D, g { y with dies := D } = g y) → g ((y.sorted l).foldl Sys.stackRead y) = g y :=
    fun g hg => Sys.stackReads_keeps g hg (fun q => q) (y.sorted l) y
  exact ⟨congrArg (· ++ _) (keeps Sys.returned fun _ _ => rfl), congrArg (List.filter _) (keeps Sys.wanted fun _ _ => rfl),
    keeps Sys.warps fun _ _ => rfl, keeps Sys.cached fun _ _ => rfl, keeps Sys.poison fun _ _ => rfl⟩

/-- A returned sector is filled clean. -/
theorem does_sectorFill {s : State} {die sector : Nat} (hr : sector ∈ s.sys.returned) (hd : paDie (keyPA sector) = die)
    (hc : Table.get? s.sys.cached sector = none) : Does (.sectorFill die sector) s (.of { s.sys with
      returned := s.sys.returned.filter (fun t => t != sector), cached := Table.set s.sys.cached sector false }) := by
  refine does_of_eq (exec_sectorFill die sector s) ?_
  simp [hr, hd, hc]

/-- The machine after the stacks have read the dirty sectors of a line, and the line has left the cache. -/
def Sys.evicting (y : Sys) (line : Nat) : Sys :=
  let z := ((y.cached.filter (fun c => c.1 / 256 == line / 256)).filter (fun c => c.2)).foldl
    (fun z c => z.stackRead { sector := c.1, ctx := 0, vpage := 0 }) y
  { z with cached := z.cached.filter (fun c => c.1 / 256 != line / 256) }

theorem does_sectorWriteBack {s : State} {die line : Nat} (hd : paDie (keyPA line) = die) (hl : line < 2 ^ 48) :
    Does (.sectorWriteBack die line) s (.of (s.sys.evicting line)) :=
  does_of_eq (exec_sectorWriteBack die line s) (if_neg (by simp [hd]; omega))

theorem Sys.evicting_spec (y : Sys) (line : Nat) :
    (y.evicting line).cached = y.cached.filter (fun c => c.1 / 256 != line / 256) ∧ (y.evicting line).poison = y.poison := by
  have keeps : ∀ {β : Type} (g : Sys → β), (∀ y D, g { y with dies := D } = g y) → ∀ l : List (Nat × Bool),
      g (l.foldl (fun z c => z.stackRead { sector := c.1, ctx := 0, vpage := 0 }) y) = g y :=
    fun g hg l => Sys.stackReads_keeps g hg _ l y
  exact ⟨congrArg (List.filter _) (keeps Sys.cached (fun _ _ => rfl) _), keeps Sys.poison (fun _ _ => rfl) _⟩

theorem Req.ne_asked_of_not_isHeld {r : Req} (h : r.isHeld = false) (a : Asker) (why : Option Reason) : r.kind ≠ .asked a why :=
  fun hk => by simp [Req.isHeld, hk] at h

/-- With a request that no asker takes up leave only such requests. -/
theorem Sys.leaving_ne_asked (y : Sys) {r : Req} (h : ∀ a why, r.kind ≠ .asked a why) :
    ∀ q ∈ y.leaving r, ∀ a why, q.kind ≠ .asked a why := by
  intro q hq
  unfold Sys.leaving at hq
  split at hq
  · rwa [List.mem_singleton.1 hq]
  · have hheld : q.isHeld = false := by split at hq <;> simp_all [Sys.access, Sys.packet]
    exact Req.ne_asked_of_not_isHeld hheld

/-! ### Recalls from the host (R464) -/

/-- The sectors of a range that the host holds and has not been asked for. -/
def Sys.toRecall (y : Sys) (key n : Nat) : List Nat := (sectorsOf key n).filter (fun t => y.hostHeld.contains t && !y.snooped t)

section
variable {s : State} {r : Req} (hr : s.sys.reqs.find? (fun q => q.id == r.id) = some r)
include hr

/-- A device write makes its home snoop the host, once for each sector that the host holds. -/
theorem does_backInvalidation (hw : r.kind.writes = true) (hne : s.sys.toRecall r.key r.size ≠ []) :
    Does (.backInvalidation r.id) s (.of { s.sys with
      snooping := s.sys.snooping ++ (s.sys.toRecall r.key r.size).map (fun x => { sector := x, tick := s.sys.time.now, own := false }) }) := by
  refine does_of_eq (exec_backInvalidation r.id s) ?_
  have honce : (s.sys.toRecall r.key r.size).filter (fun x => !s.sys.snooped x) = s.sys.toRecall r.key r.size :=
    List.filter_eq_self.2 fun x hx => (Bool.and_eq_true_iff.1 (List.mem_filter.1 hx).2).2
  simp only [hr]
  have hgo : (!r.kind.writes || (s.sys.toRecall r.key r.size).isEmpty) = false := by simpa [hw] using hne
  refine (if_neg (by rw [← Sys.toRecall, hgo]; decide)).trans ?_
  rw [← Sys.toRecall, Sys.snoop, honce]

/-! ### Timeouts (R163) -/

section
variable {t : Nat} (ht : s.sys.timeout (keyKind r.key) = some t) (hd : r.left + t ≤ s.sys.time.now)
  (ha : r.isHeld = false ∨ r.arrived = false)
include ht hd ha

/-- A request whose timeout is over fails, with those that left with it. -/
theorem does_completionTimeout : Does (.completionTimeout r.id) s (.of (s.sys.failAll (s.sys.leaving r) .timeout)) := by
  refine does_of_eq (exec_completionTimeout r.id s) ?_
  have hgo : (decide (r.left + t ≤ s.sys.time.now) && !(r.isHeld && r.arrived)) = true := by
    rcases ha with ha | ha <;> simp [hd, ha]
  simp only [hr, ht]
  exact if_pos hgo

/-- A request alone on its way, which no asker takes up, fails in its operation. -/
theorem does_completionTimeout_alone (hl : s.sys.leaving r = [r]) (hh : r.isHeld = false) :
    Does (.completionTimeout r.id) s (.of ({ s.sys with reqs := s.sys.reqs.filter (fun x => x.id != r.id) }.modOp r.op
      (fun p => p.failed (if r.kind.reads then .memError else .impreciseStore) (idxMask r.lanes) r.va .timeout))) := by
  refine does_of_eq (does_completionTimeout hr ht hd ha) (congrArg Upd.of ?_)
  rw [hl]
  change s.sys.failReq r .timeout = _
  unfold Sys.failReq
  cases hk : r.kind with
  | held | asked => simp [Req.isHeld, hk] at hh
  | read | write | atomic => rfl

/-- A read of an asker that is still there keeps its failure for it. -/
theorem does_completionTimeout_asked {a : Asker} {why : Option Reason} (hk : r.kind = .asked a why)
    (hsub : ∀ w o, a = .sub w o → ((s.sys.warp? w).bind (fun x => x.sub? o)).isSome = true) :
    Does (.completionTimeout r.id) s (.of { s.sys with reqs := s.sys.reqs.map (fun x =>
      if x.id == r.id then { x with kind := .asked a (some .timeout), arrived := true } else x) }) := by
  refine does_of_eq (does_completionTimeout hr ht hd ha) (congrArg Upd.of ?_)
  have hl : s.sys.leaving r = [r] := if_pos (by simp [Req.isHeld, hk])
  rw [hl]
  change s.sys.failReq r .timeout = _
  unfold Sys.failReq
  cases a with
  | sub w o => simp only [hk, if_pos (hsub w o rfl)]
  | _ => simp only [hk]

end

/-! ### Bounced requests (R50, R51) -/

section
variable (hb : r.bounced = true) (hq : walkQuiet s r.ctx r.va = true)
include hb hq

/-- A bounced request waits while its page has no frame that takes it. -/
theorem does_bounceReissue_stays (h : s.again r = .stays) : Does (.bounceReissue r.id) s (.of s.sys) := by
  refine does_of_eq (exec_bounceReissue r.id s) ?_
  simp only [hr, hb, hq, h]
  rfl

/-- A bounced request goes to its page's frame, with the others of its origin to that page. -/
theorem does_bounceReissue_at {key : Nat → Nat} (h : s.again r = .at_ key) :
    Does (.bounceReissue r.id) s (.of { walkFills s r.ctx r.va s.sys with
      reqs := (walkFills s r.ctx r.va s.sys).reqs.map (fun q => if q.origin == r.origin && q.ctx == r.ctx && q.va / 65536 == r.va / 65536 &&
        !q.single && !q.isHeld && !q.arrived then { q with key := key q.va, bounced := false } else q) }) := by
  refine does_of_eq (exec_bounceReissue r.id s) ?_
  simp only [hr, hb, hq, h]
  rfl

end
end

/-- The invalidation of a migration of the request's page is not complete. -/
theorem Sys.moving_iff (y : Sys) (r : Req) : y.moving r = true ↔ ∃ m ∈ y.migrations, m.ctx = r.ctx ∧ m.vpage = r.va / 65536 := by
  simp [Sys.moving]

section
variable {s : State} {r : Req} {level : Nat} {pte : Word} (hw : walk s r.ctx r.va = .leaf level pte)
include hw

/-- No frame of the page takes the request now. -/
theorem State.again_stays
    (h : pteSparse pte ≠ 0 ∨ s.sys.frozenFrame (s.sys.placed (pteTag pte) (s.sys.homeKey (pteKind pte) (leafPA level pte r.va))) = true ∨
      ∃ m ∈ s.sys.migrations, m.ctx = r.ctx ∧ m.vpage = r.va / 65536) : s.again r = .stays := by
  rw [← Sys.moving_iff] at h
  simp only [State.again, hw]
  exact if_pos (by rcases h with h | h | h <;> simp [h])

/-- The page's frame takes the request. -/
theorem State.again_at (h0 : pteSparse pte = 0)
    (hz : s.sys.frozenFrame (s.sys.placed (pteTag pte) (s.sys.homeKey (pteKind pte) (leafPA level pte r.va))) = false)
    (hm : ¬ ∃ m ∈ s.sys.migrations, m.ctx = r.ctx ∧ m.vpage = r.va / 65536) (hp : pteW pte = true)
    (ho : s.sys.opens r.ctx (s.sys.placed (pteTag pte) (s.sys.homeKey (pteKind pte) (leafPA level pte r.va))) r.size true = true) :
    s.again r = .at_ (fun va => s.sys.placed (pteTag pte) (s.sys.homeKey (pteKind pte) (leafPA level pte va))) := by
  have hm' : s.sys.moving r = false := by rw [← Sys.moving_iff] at hm; simpa using hm
  simp only [State.again, hw, h0, hz, hm', hp, ho]
  rfl

end

/-! ### Answers to snoops (R464) -/

/-- The host holds a sector no more. -/
def Sys.givenBack (y : Sys) (sector : Nat) : Sys :=
  { y with
    snooping := y.snooping.filter (fun x => x.sector != sector)
    hostHeld := y.hostHeld.filter (fun x => x != sector)
    holder := Table.erase y.holder sector }

/-- The end of a snoop without an answer fails the writes that wait for its sector, and the host holds the sector still. -/
theorem Sys.snoopOver_spec (y : Sys) (q : Snoop) :
    (y.snoopOver q).snooping = y.snooping.filter (fun x => x.sector != q.sector) ∧ (y.snoopOver q).hostHeld = y.hostHeld ∧
    ∀ x ∈ (y.snoopOver q).reqs, x ∈ y.reqs ∧ ¬ (x.kind.writes = true ∧ q.sector ∈ sectorsOf x.key x.size) := by
  let y1 : Sys := { y with snooping := y.snooping.filter (fun t => t.sector != q.sector) }
  let z := y1.failAll (y1.waitingFor q.sector) .timeout
  have hwait : ∀ x, x ∈ y1.waitingFor q.sector ↔ x ∈ y.reqs ∧ x.kind.writes = true ∧ q.sector ∈ sectorsOf x.key x.size := fun x => by
    simp [Sys.waitingFor, y1]
  have hover : y.snoopOver q = { z with late := (y.snoopOver q).late } := by
    unfold Sys.snoopOver
    dsimp only
    split <;> rfl
  rw [hover]
  refine ⟨Sys.failAll_keeps Sys.snooping (fun _ _ _ => rfl) .., Sys.failAll_keeps Sys.hostHeld (fun _ _ _ => rfl) .., fun x hx => ?_⟩
  obtain ⟨hx, hid⟩ := (Sys.mem_failAll_reqs fun r hr => ((hwait r).1 hr).2.1).1 hx
  exact ⟨hx, fun h => hid x ((hwait x).2 ⟨hx, h⟩) rfl⟩

section
variable {s : State} {sector : Nat} {q : Snoop} (hq : s.sys.snooping.find? (fun x => x.sector == sector) = some q)
include hq

theorem does_snoopResponse_clean : Does (.snoopResponse sector .clean) s (.of (s.sys.givenBack sector)) :=
  does_of_eq (exec_snoopResponse sector .clean s) (by simp only [hq]; rfl)

theorem does_snoopResponse_timeout (ho : s.sys.snoopOverdue q = true) :
    Does (.snoopResponse sector .timeout) s (.of (s.sys.snoopOver q)) :=
  does_of_eq (exec_snoopResponse sector .timeout s) (by simp only [hq, ho, if_true])

section
variable {data : List Byte} (hd : data.length = 64)
include hd

/-- A sector's modified data, in its order of checks. -/
theorem exec_snoopResponse_modified : exec (.snoopResponse sector (.modified data)) s = machineStep s (
    let fn := Table.getD s.sys.holder sector 0
    let y := s.sys.givenBack sector
    if s.sys.readWaits sector 64 0 then .of s.sys
    else if s.sys.ctl.hostFrozen.contains fn then .of y
    else if !s.sys.permits .hostFn (s.sys.hostMask fn) sector 64 true then freezeHost fn sector true { s with sys := y }
    else if (s.sys.accessFails sector 64 false).isSome then .of y
    else { sys := (y.fillFor sector 64 true 0 0).performed .host s.sys.time.now sector 64 0, stores := [.bytes sector data] }) := by
  rw [exec_snoopResponse, execSnoopResponse]
  simp only [hq, List.take_of_length_le (Nat.le_of_eq hd), hd]
  rfl

theorem does_snoopResponse_readWaits (h : s.sys.readWaits sector 64 0 = true) :
    Does (.snoopResponse sector (.modified data)) s (.of s.sys) :=
  does_of_eq (exec_snoopResponse_modified hq hd) (if_pos h)

section
variable (h : s.sys.readWaits sector 64 0 = false)
include h

theorem does_snoopResponse_frozen (hf : s.sys.ctl.hostFrozen.contains (Table.getD s.sys.holder sector 0) = true) :
    Does (.snoopResponse sector (.modified data)) s (.of (s.sys.givenBack sector)) :=
  does_of_eq (exec_snoopResponse_modified hq hd) ((if_neg (by rw [h]; decide)).trans (if_pos hf))

/-- Modified data that nothing stands against is stored. -/
theorem does_snoopResponse_stored (hf : s.sys.ctl.hostFrozen.contains (Table.getD s.sys.holder sector 0) = false)
    (hp : s.sys.permits .hostFn (s.sys.hostMask (Table.getD s.sys.holder sector 0)) sector 64 true = true)
    (ha : s.sys.accessFails sector 64 false = none) : Does (.snoopResponse sector (.modified data)) s
      { sys := ((s.sys.givenBack sector).fillFor sector 64 true 0 0).performed .host s.sys.time.now sector 64 0
        stores := [.bytes sector data] } := by
  refine does_of_eq (exec_snoopResponse_modified hq hd) ((if_neg (by rw [h]; decide)).trans ?_)
  refine (if_neg (by rw [hf]; decide)).trans ?_
  refine (if_neg (by rw [hp]; decide)).trans ?_
  exact if_neg (by rw [ha]; decide)

end
end
end

end Sys2Proof.Machine

open Sys2Proof Sys2Proof.Machine

/-- Settles O18: each step comes to one case of its own definition, by the premises of the clause; what failing requests and reads at the
stacks leave as it was gives the rest. -/
theorem sectorsSnoopsAndBounces : Obligations.SectorsSnoopsAndBounces := by
  unfold Obligations.SectorsSnoopsAndBounces
  refine ⟨fun s op page die stack sector line => ?sectors, fun s r sector data t q hr => ?requests⟩
  case sectors =>
    refine ⟨fun hne hacc hin => ⟨?frozen, ?waits, ?served, ?lacks⟩, fun hw => ?read, does_sectorFill, fun hd hl => ?evict⟩
    case frozen => exact does_packetServe_frozen hne hacc hin
    case waits => exact does_packetServe_notReady hne hacc hin
    case served => exact does_packetServe_served hne hacc hin
    case lacks =>
      intro hf hready hl
      obtain ⟨hkeep, hask⟩ := askAll_spec s.sys.returned (s.sys.packetLacks (s.sys.packet op page)) s.sys.wanted
      exact ⟨_, does_packetServe_lacks hne hacc hin hf hready hl, hkeep, hask⟩
    case read => exact ⟨_, does_sectorPacket hw, s.sys.returning_spec _⟩
    case evict => exact ⟨_, does_sectorWriteBack hd hl, s.sys.evicting_spec line⟩
  case requests =>
    refine ⟨does_backInvalidation hr, fun hq => ⟨?clean, ?overdue, ?modified⟩, fun ht hd ha => ⟨?fails, ?asked, ?alone⟩,
      fun level pte hb hquiet hwalk => ⟨?stays, ?reissued⟩, fun level pte hb hquiet hwalk => ?absent⟩
    case clean => exact does_snoopResponse_clean hq
    case overdue =>
      intro ho
      have hover := s.sys.snoopOver_spec q
      rw [show q.sector = sector by simpa using List.find?_some hq] at hover
      exact ⟨_, does_snoopResponse_timeout hq (decide_eq_true ho), hover⟩
    case modified =>
      exact fun hl => ⟨does_snoopResponse_readWaits hq hl, does_snoopResponse_frozen hq hl, does_snoopResponse_stored hq hl⟩
    case fails =>
      intro hk
      exact ⟨_, does_completionTimeout hr ht hd ha, Sys.failAll_reqs (s.sys.leaving_ne_asked hk) _ _⟩
    case asked => exact fun a why hk hsub => does_completionTimeout_asked hr ht hd ha hk hsub
    case alone => exact does_completionTimeout_alone hr ht hd ha
    case stays => exact fun h => does_bounceReissue_stays hr hb hquiet (State.again_stays hwalk h)
    case reissued =>
      intro h0 hz hm hp ho
      have hfill := Sys.Filled.walkFills s r.ctx r.va s.sys
      refine ⟨_, does_bounceReissue_at hr hb hquiet (State.again_at hwalk h0 hz hm hp ho), ?_, hfill.warps, hfill.ops, hfill.migrations⟩
      exact congrArg (List.map _) (hfill.keeps Sys.reqs fun _ _ _ => rfl)
    case absent => exact does_bounceReissue_stays hr hb hquiet (by rw [State.again, hwalk])

end

section
/-! Extents (R158 to R161): regions that come online with zero bytes, and regions that are released, in order or by force. -/

namespace Sys2Proof.Machine

/-! ### Regions and their addresses (R24, R146) -/

theorem mem_regionsFrom {first count i : Nat} : i ∈ regionsFrom first count ↔ first ≤ i ∧ i < first + count ∧ i < 2048 := by
  simp only [regionsFrom, List.mem_filter, List.mem_map, List.mem_range, decide_eq_true_eq, ← and_assoc]
  refine and_congr_left fun _ => ⟨?_, fun h => ⟨i - first, by omega⟩⟩
  rintro ⟨j, hj, rfl⟩
  omega

/-- The regions of an extent that stand in a state. -/
theorem Sys.mem_regionsIn {y : Sys} {die first count st i : Nat} : i ∈ y.regionsIn die first count st ↔
    (first ≤ i ∧ i < first + count ∧ i < 2048) ∧ ((y.die die).region i).state = st := by
  rw [Sys.regionsIn, List.mem_filter, mem_regionsFrom, beq_iff_eq]

/-- None of an extent's regions stands in a state. -/
theorem Sys.regionsIn_eq_nil {y : Sys} {die first count st : Nat}
    (h : ∀ i, first ≤ i ∧ i < first + count ∧ i < 2048 → ((y.die die).region i).state ≠ st) : y.regionsIn die first count st = [] :=
  List.eq_nil_iff_forall_not_mem.2 fun i hi => h i (Sys.mem_regionsIn.1 hi).1 (Sys.mem_regionsIn.1 hi).2

theorem Die.region_setStates (l : List Nat) (st : Nat) (d : Die) (i : Nat) :
    ((l.foldl (fun d i => { d with regions := Table.set d.regions i { d.region i with state := st } }) d).region i).state =
      if i ∈ l then st else (d.region i).state := by
  induction l generalizing d with
  | nil => rfl
  | cons j l ih =>
    rw [List.foldl_cons, ih, Die.region_set]
    by_cases hl : i ∈ l
    · simp [hl]
    · by_cases hj : i = j <;> simp [hl, hj]

/-- The regions of a die that `P` names come into the state `st`; the others stay. -/
theorem Sys.region_setRegions {die : Nat} (hd : die < 6) {l : List Nat} {P : Nat → Prop} [DecidablePred P] (hl : ∀ i, i ∈ l ↔ P i)
    (y : Sys) (st i : Nat) :
    (((y.setRegions die l st).die die).region i).state = if P i then st else ((y.die die).region i).state := by
  rw [Sys.setRegions, Sys.die_setDie, if_pos ⟨rfl, hd⟩, Die.region_setStates]
  by_cases hp : P i
  · rw [if_pos hp, if_pos ((hl i).2 hp)]
  · rw [if_neg hp, if_neg (mt (hl i).1 hp)]

/-- A byte of main memory lies in the region `i` of the die. -/
def InRegion (die i a : Nat) : Prop := a < 2 ^ 48 ∧ a / 2 ^ 37 = die ∧ a % 2 ^ 37 / 2 ^ 26 = i

theorem inRegions_iff {die : Nat} {l : List Nat} {key : Nat} : inRegions die l key = true ↔ ∃ i ∈ l, InRegion die i key := by
  have hframe : ∀ pa, paFrame pa / 1024 = pa % 2 ^ 37 / 2 ^ 26 := fun pa => Nat.div_div_eq_div_mul _ (2 ^ 16) 1024
  simp only [inRegions, Bool.and_eq_true, decide_eq_true_eq, beq_iff_eq, List.contains_iff_mem, hframe, paDie, keyPA, InRegion]
  refine ⟨fun ⟨⟨hk, hd⟩, hm⟩ => ?_, fun ⟨i, hi, hk, hd, he⟩ => ?_⟩
  · rw [Nat.mod_eq_of_lt hk] at hd hm
    exact ⟨_, hm, hk, hd, rfl⟩
  · rw [Nat.mod_eq_of_lt hk, he]
    exact ⟨⟨hk, hd⟩, hi⟩

/-- The line of a byte lies in the byte's region. -/
theorem InRegion.line {die i a : Nat} (h : InRegion die i a) : InRegion die i (a / 256 * 256) := by
  unfold InRegion at *
  omega

/-- The cells of a region. -/
theorem inRegion_iff_regionKey {die i : Nat} (hd : die < 6) (hi : i < 2048) (a : Nat) :
    InRegion die i a ↔ regionKey die i ≤ a ∧ a < regionKey die i + 2 ^ 26 := by
  unfold InRegion regionKey mainKey
  omega

/-! ### Lines of regions that leave the home caches (R160, R161) -/

theorem Sys.mem_dropLines {y : Sys} {die : Nat} {l : List Nat} {c : Nat × Bool} (h : c ∈ (y.dropLines die l).cached) :
    ∀ i ∈ l, ¬ InRegion die i c.1 := fun i hi hc => by
  have hn := (List.mem_filter.1 h).2
  rw [inRegions_iff.2 ⟨i, hi, hc⟩] at hn
  cases hn

/-- Once the lines of some regions are written back the caches hold nothing of them. -/
theorem Sys.mem_regionsWrittenBack {y : Sys} {die : Nat} {l : List Nat} {c : Nat × Bool}
    (h : c ∈ (((y.cachedLines die).filter (inRegions die l)).foldl Sys.writeBack y).cached) :
    ∀ i ∈ l, ¬ InRegion die i c.1 := fun i hi hc => by
  obtain ⟨hcached, hlines⟩ := Sys.mem_writeBacks h
  have hline : c.1 / 256 * 256 ∈ y.cachedLines die :=
    List.mem_eraseDups.2 (List.mem_map.2 ⟨c, List.mem_filter.2 ⟨hcached, beq_iff_eq.2 hc.2.1⟩, rfl⟩)
  refine hlines _ (List.mem_filter.2 ⟨hline, inRegions_iff.2 ⟨i, hi, hc.line⟩⟩) ?_
  omega

/-! ### Zeroed ranges -/

/-- Ranges of one length zeroed in turn: their bytes read as zero, the others as before. -/
theorem byte_applyClears (start : Nat → Nat) (n : Nat) (l : List Nat) {m : Memory} (h : m.wf = true) (a : Nat) :
    (applyStores m (l.map (fun i => .clear (start i) n))).byte a =
      if ∃ i ∈ l, start i ≤ a ∧ a < start i + n then 0 else m.byte a := by
  induction l generalizing m with
  | nil => simp
  | cons j l ih =>
    refine (ih (Memory.clear_wf (start j) n h)).trans ?_
    rw [Memory.byte_clear _ _ _ h]
    by_cases hl : ∃ i ∈ l, start i ≤ a ∧ a < start i + n
    · rw [if_pos hl, if_pos (by obtain ⟨i, hi, ha⟩ := hl; exact ⟨i, .tail _ hi, ha⟩)]
    · have hcons : (∃ i ∈ j :: l, start i ≤ a ∧ a < start i + n) ↔ start j ≤ a ∧ a < start j + n := by
        simp only [List.mem_cons, exists_eq_or_imp, hl, or_false]
      simp only [if_neg hl, hcons]

/-! ### Extents that are added (R158) -/

/-- Regions come online: their bytes are zero, nothing of them is cached or poisoned, and the host is acknowledged. -/
def Sys.onlined (y : Sys) (die : Nat) (l : List Nat) : Upd where
  sys :=
    let z := ((y.setRegions die l 1).dropLines die l).acknowledge die l true
    { z with poison := z.poison.filter (fun p => !inRegions die l p) }
  stores := l.map (fun i => .clear (regionKey die i) (2 ^ 26))

/-- The bytes of regions that come online. -/
theorem byte_commit_onlined {s : State} (hm : s.mem.wf = true) {die : Nat} (hd : die < 6) {l : List Nat} (hl : ∀ i ∈ l, i < 2048) (a : Nat) :
    (∀ i ∈ l, InRegion die i a → (commit s (s.sys.onlined die l)).mem.byte a = 0) ∧
    ((∀ i ∈ l, ¬ InRegion die i a) → (commit s (s.sys.onlined die l)).mem.byte a = s.mem.byte a) := by
  have hbyte : (commit s (s.sys.onlined die l)).mem.byte a = _ := byte_applyClears (regionKey die) (2 ^ 26) l hm a
  refine ⟨fun i hi ha => hbyte.trans (if_pos ⟨i, hi, (inRegion_iff_regionKey hd (hl i hi) a).1 ha⟩), fun h => hbyte.trans (if_neg ?_)⟩
  rintro ⟨i, hi, ha⟩
  exact h i hi ((inRegion_iff_regionKey hd (hl i hi) a).2 ha)

section
variable {s : State} (hr : s.sys.ctl.recovery = false) (hh : s.sys.ctl.held = false) {die first count : Nat}
include hr hh

theorem does_extentAdd (hd : die < 6) :
    Does (.extentAdd die first count) s (recallFirst s (s.sys.onlined die (s.sys.regionsIn die first count 0))) := by
  have h := does_inputStep (exec_extentAdd die first count s) hr hh
  rwa [if_neg (Nat.not_le.2 hd)] at h

/-! ### Orderly releases (R160) -/

/-- Online regions become releasing. -/
theorem does_extentReleaseOrderly_online (h : ∃ i, i ∈ s.sys.regionsIn die first count 1) :
    Does (.extentReleaseOrderly die first count) s (.of (s.sys.setRegions die (s.sys.regionsIn die first count 1) 2)) := by
  refine does_of_eq (does_inputStep (exec_extentReleaseOrderly die first count s) hr hh) ?_
  dsimp only
  split
  · next hnil => obtain ⟨i, hi⟩ := h; simp [hnil] at hi
  · rfl

/-- Releasing regions are withdrawn, their lines written back. -/
def Sys.withdrawn (y : Sys) (die : Nat) (l : List Nat) : Sys :=
  ((((y.cachedLines die).filter (inRegions die l)).foldl Sys.writeBack y).setRegions die l 0).acknowledge die l false

section
variable (hn : s.sys.regionsIn die first count 1 = [])
include hn

/-- Without an online region the releasing ones are withdrawn, once no request that their homes accepted is under way. -/
theorem does_extentReleaseOrderly_releasing : Does (.extentReleaseOrderly die first count) s (
    let l := s.sys.regionsIn die first count 2
    if l.isEmpty || s.sys.reqs.any (fun r => r.arrived && inRegions die l r.key) then .of s.sys else .of (s.sys.withdrawn die l)) := by
  refine does_of_eq (does_inputStep (exec_extentReleaseOrderly die first count s) hr hh) ?_
  simp only [hn]
  rfl

theorem does_extentReleaseOrderly_idle (h : s.sys.regionsIn die first count 2 = [] ∨
    ∃ r ∈ s.sys.reqs, r.arrived = true ∧ ∃ i ∈ s.sys.regionsIn die first count 2, InRegion die i r.key) :
    Does (.extentReleaseOrderly die first count) s (.of s.sys) := by
  refine does_of_eq (does_extentReleaseOrderly_releasing hr hh hn) (if_pos ?_)
  rcases h with h | ⟨r, hr, ha, h⟩
  · rw [h]; rfl
  · exact Bool.or_eq_true_iff.2 (.inr (List.any_eq_true.2 ⟨r, hr, by rw [ha, inRegions_iff.2 h]; rfl⟩))

theorem does_extentReleaseOrderly_withdrawn (h : ∃ i, i ∈ s.sys.regionsIn die first count 2)
    (hreq : ∀ r ∈ s.sys.reqs, r.arrived = true → ∀ i ∈ s.sys.regionsIn die first count 2, ¬ InRegion die i r.key) :
    Does (.extentReleaseOrderly die first count) s (.of (s.sys.withdrawn die (s.sys.regionsIn die first count 2))) := by
  refine does_of_eq (does_extentReleaseOrderly_releasing hr hh hn) (if_neg fun hc => ?_)
  rcases Bool.or_eq_true_iff.1 hc with hc | hc
  · obtain ⟨i, hi⟩ := h
    simp [List.isEmpty_iff.1 hc] at hi
  · obtain ⟨r, hr, hc⟩ := List.any_eq_true.1 hc
    obtain ⟨ha, hc⟩ := Bool.and_eq_true_iff.1 hc
    obtain ⟨i, hi, hin⟩ := inRegions_iff.1 hc
    exact hreq r hr ha i hi hin

end
end

/-- Writing lines back leaves the regions' states and the control die's registers. -/
theorem Sys.withdrawn_spec (y : Sys) {die : Nat} (hd : die < 6) {l : List Nat} {P : Nat → Prop} [DecidablePred P] (hl : ∀ i, i ∈ l ↔ P i) :
    (y.withdrawn die l).ctl = { y.ctl with extentAck := some (die, l, false) } ∧
    (∀ i, (((y.withdrawn die l).die die).region i).state = if P i then 0 else ((y.die die).region i).state) ∧
    ∀ c ∈ (y.withdrawn die l).cached, ∀ i ∈ l, ¬ InRegion die i c.1 := by
  have hfill : y.Filled (((y.cachedLines die).filter (inRegions die l)).foldl Sys.writeBack y) := .foldl _ .writeBack _ y
  refine ⟨congrArg (fun c : Control => { c with extentAck := some (die, l, false) }) hfill.ctl, fun i => ?_,
    fun c => Sys.mem_regionsWrittenBack⟩
  exact (Sys.region_setRegions hd hl _ 0 i).trans (by rw [hfill.states])

/-! ### Forced releases (R161) -/

/-- A part of the machine that no event changes. -/
theorem raiseEvent_keeps {α : Type} (f : Sys → α) (hf : ∀ y C U, f { y with ctl := C, unseen := U } = f y) (s : State) (ty ctx : Nat)
    (a0 a1 : Word) : f (raiseEvent s ty ctx a0 a1).sys = f s.sys := by
  rw [← hf (raiseEvent s ty ctx a0 a1).sys s.sys.ctl s.sys.unseen, raiseEvent_rest]

/-- Without a ring no event is stored. -/
theorem raiseEvent_stores_disabled {s : State} (h : evEnabled s.sys.ctl.evcfg = false) (ty ctx : Nat) (a0 a1 : Word) :
    (raiseEvent s ty ctx a0 a1).stores = [] := by
  simp [raiseEvent, raiseEventAt, h]

/-- Regions are withdrawn at once: the writes under way to them fail, and their lines leave the caches. -/
def Sys.withdrawnAtOnce (y : Sys) (die : Nat) (l : List Nat) : Sys :=
  ((y.setRegions die l 0).failAll (y.reqs.filter (fun r => inRegions die l r.key && r.kind.writes)) .withdrawn).dropLines die l

/-- A forced release tells the host with an event of TYPE 7. -/
def forcedRelease (die first : Nat) (l : List Nat) (dirty : Nat) (s : State) : Upd :=
  Upd.andThen s (.of (s.sys.withdrawnAtOnce die l)) (fun t =>
    raiseEvent t 7 0 (BitVec.ofNat 64 (die * 2048 + first)) (BitVec.ofNat 64 dirty))

section
variable {s : State} (hr : s.sys.ctl.recovery = false) (hh : s.sys.ctl.held = false) {die first count : Nat} {l : List Nat}
  (hl : s.sys.regionsIn die first count 1 ++ s.sys.regionsIn die first count 2 = l)
include hr hh hl

theorem does_extentReleaseForced (h : ∃ i, i ∈ l) :
    ∃ dirty, Does (.extentReleaseForced die first count) s (forcedRelease die first l dirty s) := by
  subst hl
  refine ⟨_, does_of_eq (does_inputStep (exec_extentReleaseForced die first count s) hr hh) (if_neg fun hc => ?_)⟩
  obtain ⟨i, hi⟩ := h
  rw [List.isEmpty_iff.1 hc] at hi
  cases hi

theorem does_extentReleaseForced_idle (h : ∀ i, i ∉ l) : Does (.extentReleaseForced die first count) s (.of s.sys) := by
  subst hl
  exact does_of_eq (does_inputStep (exec_extentReleaseForced die first count s) hr hh)
    (if_pos (List.isEmpty_iff.2 (List.eq_nil_iff_forall_not_mem.2 h)))

end

theorem forcedRelease_stores (die first : Nat) (l : List Nat) (dirty : Nat) {s : State} (h : evEnabled s.sys.ctl.evcfg = false) :
    (forcedRelease die first l dirty s).stores = [] :=
  raiseEvent_stores_disabled (by
    have hctl : (s.sys.withdrawnAtOnce die l).ctl = s.sys.ctl := Sys.failAll_keeps Sys.ctl (fun _ _ _ => rfl) _ _ _
    rw [commit_sys, Upd.of_sys, hctl, h]) _ _ _ _

/-- What a forced release leaves: the regions withdrawn, none of their lines, and none of the writes to them. -/
theorem forcedRelease_spec (s : State) {die : Nat} (hd : die < 6) (first : Nat) {l : List Nat} {P : Nat → Prop} [DecidablePred P]
    (hl : ∀ i, i ∈ l ↔ P i) (dirty : Nat) :
    (∀ i, (((forcedRelease die first l dirty s).sys.die die).region i).state = if P i then 0 else ((s.sys.die die).region i).state) ∧
    (∀ c ∈ (forcedRelease die first l dirty s).sys.cached, ∀ i ∈ l, ¬ InRegion die i c.1) ∧
    (∀ r ∈ s.sys.reqs, r.kind.writes = true → ∀ i ∈ l, InRegion die i r.key →
      ∀ q ∈ (forcedRelease die first l dirty s).sys.reqs, q.id ≠ r.id) := by
  have keeps : ∀ {α : Type} (f : Sys → α), (∀ y C U, f { y with ctl := C, unseen := U } = f y) →
      f (forcedRelease die first l dirty s).sys = f (s.sys.withdrawnAtOnce die l) := fun f hf => raiseEvent_keeps f hf ..
  refine ⟨fun i => ?_, fun c hc => ?_, fun r hr hw i hi hin q hq heq => ?_⟩
  · rw [keeps (·.die die) fun _ _ _ => rfl]
    have hdie : (s.sys.withdrawnAtOnce die l).die die = (s.sys.setRegions die l 0).die die :=
      Sys.failAll_keeps (·.die die) (fun _ _ _ => rfl) _ _ _
    rw [hdie, Sys.region_setRegions hd hl]
  · rw [keeps Sys.cached fun _ _ _ => rfl] at hc
    exact Sys.mem_dropLines hc
  · rw [keeps Sys.reqs fun _ _ _ => rfl] at hq
    have hlost : r ∈ s.sys.reqs.filter (fun r => inRegions die l r.key && r.kind.writes) :=
      List.mem_filter.2 ⟨hr, by rw [inRegions_iff.2 ⟨i, hi, hin⟩, hw]; rfl⟩
    refine ((Sys.mem_failAll_reqs fun x hx => ?_).1 hq).2 r hlost heq.symm
    exact (Bool.and_eq_true_iff.1 (List.mem_filter.1 hx).2).2

/-- In recovery, or held in reset, a step of the host changes nothing. -/
theorem does_inputStep_shut {i : Instr} {s : State} {u : Upd} (h : exec i s = inputStep s u)
    (hc : s.sys.ctl.recovery = true ∨ s.sys.ctl.held = true) : Does i s (.of s.sys) := by
  rcases inputStep_cases s u with ⟨-, hs⟩ | ⟨hn, -⟩
  · exact h.trans hs
  · rcases hc with hc | hc <;> simp [hc] at hn

end Sys2Proof.Machine

open Sys2Proof Sys2Proof.Machine

/-- Settles O48: `Sys.mem_regionsIn` says which regions each step takes, `Sys.region_setRegions` what becomes of all of them, and
`inRegions_iff` which bytes, lines and requests are theirs. -/
theorem extentsComeAndGo : Obligations.ExtentsComeAndGo := by
  unfold Obligations.ExtentsComeAndGo
  intro s die first count r y state within at_ gone named
  have hnamed : ∀ st, named (y.regionsIn die first count st) st := fun st i => Sys.mem_regionsIn
  refine ⟨fun hc j hj => ?shut, fun hr hh hd =>
    ⟨⟨_, _, does_extentAdd hr hh hd, hnamed 0, rfl, Sys.region_setRegions hd (hnamed 0) y 1, fun hm a => ?bytes⟩, fun h => ?online,
      fun hn h => ?busy, fun h => ?none, fun hn h hreq => ?withdrawn, fun h => ?forced, fun h => ?untouched⟩⟩
  case shut =>
    simp only [List.mem_cons, List.not_mem_nil, or_false] at hj
    rcases hj with rfl | rfl | rfl
    · exact does_inputStep_shut (exec_extentAdd die first count s) hc
    · exact does_inputStep_shut (exec_extentReleaseOrderly die first count s) hc
    · exact does_inputStep_shut (exec_extentReleaseForced die first count s) hc
  case bytes =>
    obtain ⟨hzero, hkeep⟩ := byte_commit_onlined hm hd (fun i hi => ((hnamed 0 i).1 hi).1.2.2) a
    exact ⟨fun i hw hs => hzero i ((hnamed 0 i).2 ⟨hw, hs⟩), fun h => hkeep fun i hi => h i ((hnamed 0 i).1 hi).1 ((hnamed 0 i).1 hi).2⟩
  case online =>
    obtain ⟨i, hi⟩ := h
    exact ⟨_, does_extentReleaseOrderly_online hr hh ⟨i, (hnamed 1 i).2 hi⟩, rfl, rfl, Sys.region_setRegions hd (hnamed 1) y 2⟩
  case busy =>
    obtain ⟨q, hq, ha, i, hw, hs, hin⟩ := h
    exact does_extentReleaseOrderly_idle hr hh (Sys.regionsIn_eq_nil hn) (.inr ⟨q, hq, ha, i, (hnamed 2 i).2 ⟨hw, hs⟩, hin⟩)
  case none =>
    exact does_extentReleaseOrderly_idle hr hh (Sys.regionsIn_eq_nil fun i hi => (h i hi).1)
      (.inl (Sys.regionsIn_eq_nil fun i hi => (h i hi).2))
  case withdrawn =>
    obtain ⟨i, hi⟩ := h
    obtain ⟨hack, hstate, hlines⟩ := y.withdrawn_spec hd (hnamed 2)
    exact ⟨_, _, does_extentReleaseOrderly_withdrawn hr hh (Sys.regionsIn_eq_nil hn) ⟨i, (hnamed 2 i).2 hi⟩
      fun q hq ha i hi => hreq q hq ha i ((hnamed 2 i).1 hi).1 ((hnamed 2 i).1 hi).2, rfl, hnamed 2, hack, hstate,
      fun c hc i hw hs => hlines c hc i ((hnamed 2 i).2 ⟨hw, hs⟩)⟩
  all_goals
    have hgone : ∀ i, i ∈ y.regionsIn die first count 1 ++ y.regionsIn die first count 2 ↔ gone i := fun i => by
      rw [List.mem_append, hnamed 1 i, hnamed 2 i, ← and_or_left]
  case forced =>
    obtain ⟨i, hi⟩ := h
    obtain ⟨dirty, hdoes⟩ := does_extentReleaseForced hr hh rfl ⟨i, (hgone i).2 hi⟩
    obtain ⟨hstate, hlines, hreqs⟩ := forcedRelease_spec s hd first hgone dirty
    exact ⟨_, hdoes, forcedRelease_stores die first _ dirty, hstate, fun c hc i hi => hlines c hc i ((hgone i).2 hi),
      fun i hq hw hi => hreqs r hq hw i ((hgone i).2 hi)⟩
  case untouched => exact does_extentReleaseForced_idle hr hh rfl fun i hi => h i ((hgone i).1 hi)

end
section
/-! Issue (R210, R211, R215, R220, R223, R284, R416): which instructions are issued, and the checks that stop a word before its meaning. -/

namespace Sys2Proof.Machine

/-- A word that acts on its warp's registers alone is issued as the others are. -/
theorem exists_issue_of_issueReg {i : Instr} {s : State} {x : Host.Outcome State Fault Refusal} {body : Env → Except Hold Warp}
    (h : x = issueReg i s body) : ∃ body', x = issue i s body' := ⟨_, h⟩

/-- Every instruction that has a word is issued: its checks come before its meaning. -/
theorem exec_eq_issue {i : Instr} {w : Word} (s : State) (h : encode i = some w) : ∃ body, exec i s = issue i s body := by
  cases i
  case pairedWord | iadd | isub | imul | imulh | imad | imadw | iaddc | isubb | imin | imax | iabs | iand | ior | ixor | iandn | shl | shr
    | sar | rot | fshf | bfe | bfi | clz | ctz | popc | brev | prmb | sel | idiv | irem | lea | icmpEq | icmpNe | icmpLt | icmpLe | icmpGt
    | icmpGe | icmpLtu | icmpLeu | icmpGtu | icmpGeu | mov | movi | stov | vtos | sadd | ssub | smul | smulh | sand | sor | sxor | sandn |
    sshl | sshr | ssar | smin | smax | sclz | sctz | spopc | ssel | slea | scmp | smovi | smovh | lperm | lscan | lred | ballot | fadd |
    fsub | fmul | ffma | fmin | fmax | fdiv | fsqrt | fcmp | fcvt | fclass | wmerge | wmarkL | wtest | wwait | cpseal | cpqry | strm |
    strmend | qmark | badd | bsub | bneg | bcmp | bshl | bshr | bmuls | bdivs | bnorm | blen | bbits | bfill | bcvtTotc | bcvtFromtc |
    bcvtF64 | setfmt | zst | nop | phint | srd | swr =>
    rw [exec]; exact exists_issue_of_issueReg rfl
  case clauseStart | lds | sts | ldsu | stsu | ldk | stk | ats | atsu | atm | wmarkV | gath | gaths | scat | cpl | cpb | cpwait | halloc |
    hfree | hqry | pcommit | pdecommit | pqry | qdisc | bspill | bconv | cres | lmul | ladd | nttf | ntti | mma | mmq | zclr | zld | zcvt
    | zadd | accrun | accstat | bra | brs | brv | brz | bsplit | join | call | ret | jmpi | loop | exit | bar | bararr | barwt | waitx |
    sigx | xred | qpost | qinfo | dpub | dsig | launch | trap | tret | bkpt =>
    rw [exec]; exact ⟨_, rfl⟩
  all_goals cases h

/-! ### The checks before a meaning (R284, R416) -/

/-- A word that a check stops leaves what `Env.held` says. -/
theorem exec_of_precheck {i : Instr} {s : State} {e : Env} {w : Word} {x : Hold} (hw : encode i = some w) (henv : env? i s = some e)
    (hx : e.precheck = some x) : exec i s = .next (commit s (e.held x)) := by
  obtain ⟨body, hbody⟩ := exec_eq_issue s hw
  simp only [hbody, issue, henv, hx]

theorem traps_of_precheck {i : Instr} {s : State} {e : Env} {w : Word} {t : TrapInfo} (hw : encode i = some w)
    (henv : env? i s = some e) (hx : e.precheck = some (.trap t)) : Traps i s e t := by
  obtain ⟨rfl, -⟩ := env?_spec henv
  exact exec_of_precheck hw henv hx

theorem waits_of_precheck {i : Instr} {s : State} {e : Env} {w : Word} {r : Wait} (hw : encode i = some w)
    (henv : env? i s = some e) (hx : e.precheck = some (.wait r)) : Waits i s e r := by
  obtain ⟨rfl, -⟩ := env?_spec henv
  exact exec_of_precheck hw henv hx

/-- Misplaced, or naming a register out of range: ILLEGAL before every other check (R210, R220). -/
theorem Env.precheck_bad {e : Env} (h : e.misplaced = true ∨ e.outOfRange = true) :
    e.precheck = some (.trap (trapOf .illegal (Instr.word e.i))) := by
  simp [Env.precheck, h]

section
variable {e : Env} (hb : ¬ (e.misplaced = true ∨ e.outOfRange = true))
include hb

theorem Env.precheck_illegalFirst {v : Word} (h : e.illegalFirst = some v) : e.precheck = some (.trap (trapOf .illegal v)) := by
  simp [Env.precheck, hb, h]

variable (hf : e.illegalFirst = none)
include hf

theorem Env.precheck_unguarded {r : Nat} (hg : e.guardLater = false) (h : e.unguarded? = some r) :
    e.precheck = some (.trap (trapOf .unguarded (BitVec.ofNat 64 r))) := by
  simp [Env.precheck, Env.guard?, hb, hf, hg, h]

variable (hg : e.unguarded? = none ∨ e.guardLater = true)
include hg

omit hb hf in
/-- A word that is guarded, or is guarded later, passes UNGUARDED's place among the checks. -/
theorem Env.guard_passed : (if e.guardLater then none else e.guard?) = none := by
  rcases hg with h | h <;> simp [Env.guard?, h]

theorem Env.precheck_converge {m : LaneMask} (h : e.converge? = some m) :
    e.precheck = some (.trap { trapOf .convergence 0 with tlanes := m }) := by
  simp [Env.precheck, hb, hf, Env.guard_passed hg, h]

theorem Env.precheck_emptyPop {x : Hold} (hc : e.converge? = none) (h : e.emptyPop e.i.pops = some x) : e.precheck = some x := by
  simp [Env.precheck, hb, hf, Env.guard_passed hg, hc, h]

end

/-! ### Pending registers (R215) -/

/-- The register that a use names is pending. -/
def Use.pending (y : Sys) (w r : Nat) : Use → Prop
  | .vr k | .vw k => k = r ∧ y.pendingV w r = true
  | .sr k | .sw k => k = r ∧ y.pendingS w r = true

/-- A pending register, among those that a list of uses names. -/
def NamesPending (y : Sys) (w r : Nat) (l : List Use) : Prop :=
  (Use.vr r ∈ l ∨ Use.vw r ∈ l) ∧ y.pendingV w r = true ∨ (Use.sr r ∈ l ∨ Use.sw r ∈ l) ∧ y.pendingS w r = true

theorem namesPending_iff {y : Sys} {w r : Nat} {l : List Use} : NamesPending y w r l ↔ ∃ u ∈ l, u.pending y w r := by
  constructor
  · rintro (⟨h | h, hp⟩ | ⟨h | h, hp⟩) <;> exact ⟨_, h, rfl, hp⟩
  · rintro ⟨u, hu, h⟩
    cases u <;> obtain ⟨rfl, hp⟩ := h
    case vr => exact .inl ⟨.inl hu, hp⟩
    case vw => exact .inl ⟨.inr hu, hp⟩
    case sr => exact .inr ⟨.inl hu, hp⟩
    case sw => exact .inr ⟨.inr hu, hp⟩

/-- A warp slice's word that names a pending register is unguarded, by one that it names. -/
theorem Env.unguarded?_of_namesPending {e : Env} (ho : e.o ≠ none) {r : Nat}
    (h : NamesPending e.y e.w.id r (e.i.uses e.w.fmt)) :
    ∃ r', e.unguarded? = some r' ∧ NamesPending e.y e.w.id r' (e.i.uses e.w.fmt) := by
  have ho' : e.o.isNone = false := Option.isNone_eq_false_iff.2 (Option.isSome_iff_ne_none.2 ho)
  cases hu : e.unguarded? with
  | some r' =>
    refine ⟨r', rfl, namesPending_iff.2 ?_⟩
    simp only [Env.unguarded?, ho', Bool.false_eq_true, if_false] at hu
    obtain ⟨u, hmem, hr⟩ := List.exists_of_findSome?_eq_some hu
    refine ⟨u, hmem, ?_⟩
    cases u
    all_goals
      obtain ⟨hp, rfl⟩ := by simpa using hr
      exact ⟨rfl, hp⟩
  | none =>
    obtain ⟨u, hmem, hp⟩ := namesPending_iff.1 h
    simp only [Env.unguarded?, ho', Bool.false_eq_true, if_false, List.findSome?_eq_none_iff] at hu
    have := hu u hmem
    cases u <;> obtain ⟨rfl, hp⟩ := hp <;> simp [hp] at this

/-! ### Pops of an empty queue (R79) -/

/-- A pop that its queue lacks the entries for, with no marker among them, underruns once the access slice has ended, and until then waits. -/
theorem Env.emptyPop_short {e : Env} {q : BitVec 2} {n : Nat} (hn : (e.w.queue q).length < n)
    (hm : ∀ x ∈ e.w.queue q, ∀ v, x ≠ .marker v) :
    e.emptyPop [(q, n)] = some (if e.w.access.any (·.ended) then .trap (trapOf .queueUnderrun (q.zeroExtend 64))
      else .wait (.queue q n)) := by
  have unmarked : ∀ f : QEntry → Bool, (∀ x, (∀ v, x ≠ .marker v) → f x = false) → (e.w.queue q).any f = false :=
    fun f hf => List.any_eq_false.2 fun x hx => by simp [hf x (hm x hx)]
  simp only [Env.emptyPop, List.find?_cons]
  rw [unmarked]
  · cases e.w.access with
    | none => simp [hn]
    | some a => cases h : a.ended <;> simp [hn, h]
  · intro x hx
    cases x with
    | marker v => exact absurd rfl (hx v)
    | data | failed => rfl

end Sys2Proof.Machine

open Sys2Proof Sys2Proof.Machine

/-- Settles O55: each check stops a word that passes those before it, and `exec_eq_issue` has every word issued behind these checks. -/
theorem wordsAreChecked : Obligations.WordsAreChecked := by
  unfold Obligations.WordsAreChecked
  intro s e i w m q n bad guarded names short hw henv
  obtain ⟨rfl, rfl, -⟩ := env?_spec henv
  have hword : Instr.word e.i = w := by simp [Instr.word, hw]
  refine ⟨fun hb => ?illegal, fun hb ⟨v, hv⟩ => ?first, fun hb hf hl ho ⟨r, hr⟩ => ?unguarded, fun hb hf hg hc => ?convergence,
    fun hb hf hg hc ⟨hp, hn, hm⟩ => ?pop⟩
  case illegal =>
    subst hword
    exact traps_of_precheck hw henv (Env.precheck_bad hb)
  case first => exact ⟨v, hv, traps_of_precheck hw henv (Env.precheck_illegalFirst hb hv)⟩
  case unguarded =>
    obtain ⟨r', hu, hr'⟩ := Env.unguarded?_of_namesPending ho hr
    exact ⟨r', hr', traps_of_precheck hw henv (Env.precheck_unguarded hb hf hl hu)⟩
  case convergence => exact traps_of_precheck hw henv (Env.precheck_converge hb hf hg hc)
  case pop =>
    have hshort := Env.emptyPop_short hn hm
    rw [← hp] at hshort
    have hpre := Env.precheck_emptyPop hb hf hg hc hshort
    refine ⟨fun ⟨a, ha, hend⟩ => traps_of_precheck hw henv ?_, fun hend => waits_of_precheck hw henv ?_⟩
    · simpa [ha, hend] using hpre
    · have : e.w.access.any (·.ended) = false := by
        cases ha : e.w.access with
        | none => rfl
        | some a => exact hend a ha
      simpa [this] using hpre

end
section
/-! The start of a clause (R189, R212, R213, R218, R414, R454). -/

namespace Sys2Proof.Machine

/-! ### The flags that WAIT names (R189) -/

theorem mem_waitFlags {m : BitVec 12} {k : Nat} : k ∈ waitFlags m ↔ k < 12 ∧ m.getLsbD k = true := by
  simp [waitFlags]

theorem waitFlags_sorted (m : BitVec 12) : (waitFlags m).Pairwise (· < ·) := List.pairwise_lt_range.filter _

/-- The first element of an ascending list for which `f` answers gives the answer. -/
theorem findSome?_eq_of_lowest {α : Type} {f : Nat → Option α} {l : List Nat} {n : Nat} {x : α} (hl : l.Pairwise (· < ·))
    (hn : n ∈ l) (hx : f n = some x) (hlow : ∀ k ∈ l, k < n → f k = none) : l.findSome? f = some x := by
  induction hl with
  | nil => cases hn
  | @cons a l ha _ ih =>
    rcases List.mem_cons.1 hn with rfl | hn
    · simp [hx]
    · simpa [hlow a (by simp) (ha n hn)] using ih hn fun k hk => hlow k (List.mem_cons_of_mem _ hk)

/-- The error that a header raises is that of the lowest named flag that has one. -/
theorem Warp.flagError_lowest {w : Warp} {m : BitVec 12} {n : Nat} {t : TrapInfo} (hn : n ∈ waitFlags m)
    (ht : (w.flag n).err = some t) (hlow : ∀ k ∈ waitFlags m, k < n → (w.flag k).err = none) : w.flagError m = some (n, t) :=
  findSome?_eq_of_lowest (waitFlags_sorted m) hn (by simp [ht]) fun k hk hkn => by simp [hlow k hk hkn]

theorem Warp.flagError_none {w : Warp} {m : BitVec 12} (h : ∀ k ∈ waitFlags m, (w.flag k).err = none) : w.flagError m = none :=
  List.findSome?_eq_none_iff.2 fun k hk => by simp [h k hk]

/-- The header's test of the flags that it names: it waits while one of them counts, unless HANG has ended the wait (R213, R449). -/
theorem waitsOn_iff {b : Sub} {w : Warp} {m : BitVec 12} :
    (b.wait != .abandoned && (waitFlags m).any (fun k => (w.flag k).count != 0)) = true ↔
      b.wait ≠ .abandoned ∧ ∃ k ∈ waitFlags m, (w.flag k).count ≠ 0 := by
  simp

theorem waitsOn_eq_false {b : Sub} {w : Warp} {m : BitVec 12}
    (h : ∀ k ∈ waitFlags m, b.wait = .abandoned ∨ (w.flag k).count = 0) :
    (b.wait != .abandoned && (waitFlags m).any (fun k => (w.flag k).count != 0)) = false := by
  refine Bool.eq_false_iff.2 fun hc => ?_
  obtain ⟨hab, k, hk, hcount⟩ := waitsOn_iff.1 hc
  exact (h k hk).elim hab hcount

/-! ### What the header and the warp say -/

theorem Header.inPage_iff {h : Header} {pc : Word} : h.inPage pc = true ↔ pc.toNat % 65536 + 8 * h.len.toNat < 65536 := by
  simp [Header.inPage]

theorem Header.accessOk_iff {h : Header} : h.accessOk = true ↔ h.wait = 0 ∧ h.seta = 15 ∧ h.setb = 15 := by
  simp [Header.accessOk, and_assoc]

/-- The access slice starts only clauses that name no flag (R218). -/
theorem refused_iff {o : Option Nat} {h : Header} :
    (o.isNone && !h.accessOk) = false ↔ (o = none → h.wait = 0 ∧ h.seta = 15 ∧ h.setb = 15) := by
  cases o <;> simp [Header.accessOk_iff]

theorem Env.savesHere_iff {e : Env} {h : Header} : e.savesHere h = true ↔ e.o.isSome = true ∧ e.w.hint.isSome = true ∧ h.pp = true ∧
    e.w.subs.length = 1 ∧ e.w.handler = none ∧ (e.y.preempting e.k).isSome = true := by
  simp [Env.savesHere, and_assoc]

/-- Outside handler mode a cause of the fetch of a clause is a trap as any other (R447). -/
theorem fetchTrap_eq_takeTrap {s : State} {w : Warp} {o : Option Nat} {b : Sub} (t : TrapInfo)
    (h : ∀ d, o.isSome = true → w.handler = some d → d.has b.id = false) : fetchTrap s w o b t = takeTrap s w o b t := by
  cases o with
  | none => rfl
  | some k =>
    cases hd : w.handler with
    | none => simp [fetchTrap, hd]
    | some d => simp [fetchTrap, hd, h d rfl hd]

/-! ### The cases of CLAUSE_START -/

section
variable {i : Instr} {s : State} {e : Env} {body : Env → Except Hold Upd} (hr : Ready i s e)
include hr

/-- What a word does whose meaning answers with another change, a trap or a wait. -/
theorem issue_change {u : Upd} (hb : body e = .error (.change u)) : issue i s body = .next (commit s u) :=
  issue_error hr.env hr.checks hb

theorem issue_trap {t : TrapInfo} (hb : body e = .error (.trap t)) :
    issue i s body = .next (commit s (takeTrap s e.w e.o e.b t)) := by
  obtain ⟨rfl, -⟩ := env?_spec hr.env
  exact issue_error hr.env hr.checks hb

theorem issue_wait {r : Wait} (hb : body e = .error (.wait r)) :
    issue i s body = .next { s with sys := s.sys.setWarp (e.w.setSub e.o (e.b.waitFor r s.sys.time.now)) } := by
  obtain ⟨rfl, -⟩ := env?_spec hr.env
  exact issue_error hr.env hr.checks hb

end

section
variable {s : State} {e : Env} {h : Header} (hr : Ready (.clauseStart h) s e)
include hr

theorem does_clauseStart_pageEnd (hp : h.inPage e.b.pc = false) :
    Does (.clauseStart h) s (fetchTrap s e.w e.o e.b (trapOf .illegal (Instr.word (.clauseStart h)))) := by
  have he := (env?_spec hr.env).1
  rw [Does, exec_clauseStart, execClauseStart]
  exact issue_change hr (by simp [hp, he])

variable (hp : h.inPage e.b.pc = true)
include hp

theorem traps_clauseStart_access (ha : (e.o.isNone && !h.accessOk) = true) :
    Traps (.clauseStart h) s e (trapOf .illegal (Instr.word (.clauseStart h))) := by
  rw [Traps, exec_clauseStart, execClauseStart]
  exact issue_trap hr (by simp [hp, ha])

variable (ha : (e.o.isNone && !h.accessOk) = false)
include ha

theorem does_clauseStart_saves (hs : e.savesHere h = true) : Does (.clauseStart h) s
    (.of (s.sys.setWarp (e.w.setSub e.o { e.b with wait := .none, under := .none, stopped := true }))) := by
  have he := (env?_spec hr.env).1
  rw [Does, exec_clauseStart, execClauseStart]
  exact issue_change hr (by simp [hp, ha, hs, Env.y, he])

variable (hs : e.savesHere h = false)
include hs

theorem waits_clauseStart (hab : e.b.wait ≠ .abandoned) (hc : ∃ k ∈ waitFlags h.wait, (e.w.flag k).count ≠ 0) :
    Waits (.clauseStart h) s e (.flags h.wait) := by
  have hw := waitsOn_iff.2 ⟨hab, hc⟩
  rw [Waits, exec_clauseStart, execClauseStart]
  exact issue_wait hr (by simp [hp, ha, hs, hw])

variable (hc : ∀ k ∈ waitFlags h.wait, e.b.wait = .abandoned ∨ (e.w.flag k).count = 0)
include hc

/-- A named flag's error is raised at the header, and lost (R189). -/
theorem does_clauseStart_error {n : Nat} {t : TrapInfo} (hf : e.w.flagError h.wait = some (n, t)) :
    let w := e.w.setFlag n { e.w.flag n with err := none }
    Does (.clauseStart h) s (takePrecise { s with sys := s.sys.setWarp w } w e.b t) := by
  have he := (env?_spec hr.env).1
  have hw := waitsOn_eq_false hc
  intro w
  rw [Does, exec_clauseStart, execClauseStart]
  exact issue_change hr (by simp [hp, ha, hs, hw, hf, Env.y, he, w])

/-- The clause starts. -/
theorem does_clauseStart_started (hf : e.w.flagError h.wait = none) {key : Nat × Nat}
    (hv : s.sys.vaBase e.asker (some e.k.core) (dieOf e.k.core) e.k.ctx e.b.pc.toNat = some key) :
    Does (.clauseStart h) s (.of ((s.sys.setWarp (e.started h key)).mark e.k.ctx)) := by
  have he := (env?_spec hr.env).1
  have hw := waitsOn_eq_false hc
  rw [Does, exec_clauseStart, execClauseStart]
  exact issue_ok hr (by simp [hp, ha, hs, hw, hf, hv, Env.y, he])

end

/-! ### The warp after the start -/

/-- The sub-warp inside the clause that it has started. -/
def Env.inClause (e : Env) (h : Header) (at_ : Nat × Nat) : Sub :=
  { e.b with pc := e.b.pc + 8, wait := .none, under := .none, came := none, set := [],
             place := .inside { addr := e.b.pc, h := h, key := at_.1, map := at_.2 } }

theorem Env.started_sub? {e : Env} (h : Header) (at_ : Nat × Nat) (hb : e.w.sub? e.o = some e.b) (k : Option Nat) :
    (e.started h at_).sub? k = if k = e.o then some (e.inClause h at_) else e.w.sub? k := by
  have hset : (e.started h at_).sub? k = (e.w.setSub e.o (e.inClause h at_)).sub? k := by
    unfold Env.started
    cases e.o <;> cases k <;> rfl
  rw [hset]
  exact Warp.sub?_setSub (b' := e.inClause h at_) hb rfl k

theorem Env.started_hint {e : Env} (h : Header) (at_ : Nat × Nat) (ho : e.o ≠ none) : (e.started h at_).hint = none := by
  unfold Env.started
  cases hoo : e.o with
  | none => exact absurd hoo ho
  | some k => rfl

/-- Starting a clause changes the slices of the warp, its hint and its handler's mark alone. -/
theorem Env.started_same (e : Env) (h : Header) (at_ : Nat × Nat) :
    { e.started h at_ with subs := e.w.subs, hint := e.w.hint, access := e.w.access, handler := e.w.handler } = e.w := by
  unfold Env.started
  cases e.o <;> rfl

theorem Env.started_id (e : Env) (h : Header) (at_ : Nat × Nat) : (e.started h at_).id = e.w.id :=
  (congrArg Warp.id (e.started_same h at_) :)

end Sys2Proof.Machine

open Sys2Proof Sys2Proof.Machine

/-- Settles O11: the checks of the header in their order, each with the case of CLAUSE_START that it decides. -/
theorem clauseStarts : Obligations.ClauseStarts := by
  unfold Obligations.ClauseStarts
  intro s e h hr i fits mayStand saves named over_
  obtain ⟨he, -, -, -, hsub, -⟩ := env?_spec hr.env
  have hfits : fits ↔ h.inPage e.b.pc = true := Header.inPage_iff.symm
  have hstand : mayStand ↔ (e.o.isNone && !h.accessOk) = false := refused_iff.symm
  have hsaves : saves ↔ e.savesHere h = true := by rw [Env.savesHere_iff, Env.y, he]
  have hnamed : ∀ k, named k ↔ k ∈ waitFlags h.wait := fun k => mem_waitFlags.symm
  refine ⟨fun hout hbad => ?illegal, fun hp ha hs => ?saves, fun hp ha hs => ⟨fun hab hcount => ?waits, fun hov n t hn ht hlow => ?error,
    fun hov hnone key map hv => ?starts⟩⟩
  case illegal =>
    cases hp : h.inPage e.b.pc with
    | false =>
      have := does_clauseStart_pageEnd hr hp
      rwa [fetchTrap_eq_takeTrap _ hout] at this
    | true =>
      have ha : ¬ mayStand := hbad.resolve_left fun hf => hf (hfits.2 hp)
      exact traps_clauseStart_access hr hp (by simpa using fun hc => ha (hstand.2 hc))
  case saves => exact does_clauseStart_saves hr (hfits.1 hp) (hstand.1 ha) (hsaves.1 hs)
  all_goals
    rw [hfits] at hp
    rw [hstand] at ha
    rw [hsaves, Bool.not_eq_true] at hs
  case waits =>
    obtain ⟨k, hk, hc⟩ := hcount
    exact waits_clauseStart hr hp ha hs hab ⟨k, (hnamed k).1 hk, hc⟩
  all_goals have hc := fun k (hk : k ∈ waitFlags h.wait) => hov k ((hnamed k).2 hk)
  case error =>
    exact does_clauseStart_error hr hp ha hs hc
      (Warp.flagError_lowest ((hnamed n).1 hn) ht fun k hk hkn => hlow k hkn ((hnamed k).2 hk))
  case starts =>
    refine ⟨_, _, does_clauseStart_started hr hp ha hs hc (Warp.flagError_none fun k hk => hnone k ((hnamed k).2 hk)) hv,
      onlyWarp_of hr.env (e.started_id h (key, map)), ?_, fun k hk => ?_, e.started_hint h (key, map), e.started_same h (key, map)⟩
    · rw [Env.started_sub? h _ hsub, if_pos rfl]; rfl
    · rw [Env.started_sub? h _ hsub, if_neg hk]

end
section
/-! Paired words (R204 to R208, R246): what each half gives, and what both leave. -/

namespace Sys2Proof.Machine

/-! ### Patterns of n bits -/

theorem low_toNat (n : Nat) (x : Word) : (low n x).toNat = x.toNat % 2 ^ n := by
  rw [low, BitVec.toNat_ofNat, Nat.mod_eq_of_lt (Nat.lt_of_le_of_lt (Nat.mod_le _ _) x.isLt)]

/-- A pattern of n bits is its own low part. -/
theorem low_of_lt {n : Nat} {x : Word} (h : x.toNat < 2 ^ n) : low n x = x :=
  BitVec.eq_of_toNat_eq (by rw [low_toNat, Nat.mod_eq_of_lt h])

/-- However a pattern is read, its low bits are those of the pattern. -/
theorem toI_emod (sg : Bool) (n : Nat) (x : Word) : toI sg n x % (2 ^ n : Int) = ((x.toNat % 2 ^ n : Nat) : Int) := by
  unfold toI
  dsimp only
  split <;> simp

/-- Wrapping forgets how a pattern was read. -/
theorem wrap_toI (n : Nat) (sg : Bool) (x : Word) : wrap n (toI sg n x) = low n x := by
  rw [wrap, toI_emod]; rfl

/-! ### The integer functions of R205 on patterns of 32 bits -/

theorem intBin_add (d v : Word) : intBin true false 32 (fun x y => x + y) d v =
    BitVec.ofNat 64 ((d.toNat + v.toNat) % 2 ^ 32) := by
  have h1 := toI_emod true 32 d
  have h2 := toI_emod true 32 v
  simp only [intBin, wrap, Bool.false_eq_true, if_false]
  congr 1
  omega

theorem intBin_sub {d v : Word} (hv : v.toNat < 2 ^ 32) : intBin true false 32 (fun x y => x - y) d v =
    BitVec.ofNat 64 ((d.toNat + 2 ^ 32 - v.toNat) % 2 ^ 32) := by
  have h1 := toI_emod true 32 d
  have h2 := toI_emod true 32 v
  simp only [intBin, wrap, Bool.false_eq_true, if_false]
  congr 1
  omega

/-- A function that chooses one of its operands gives the pattern of that one. -/
theorem intBin_choice {d v : Word} (hd : d.toNat < 2 ^ 32) (hv : v.toNat < 2 ^ 32) {f : Int → Int → Int} (p : Int → Int → Prop)
    [DecidableRel p] (hf : ∀ x y, f x y = if p x y then x else y) :
    intBin true false 32 f d v = if p (toI true 32 d) (toI true 32 v) then d else v := by
  simp only [intBin, hf, Bool.false_eq_true, if_false]
  split
  · rw [wrap_toI, low_of_lt hd]
  · rw [wrap_toI, low_of_lt hv]

theorem shlBits_eq (d v : Word) : shlBits 32 d v =
    BitVec.ofNat 64 (if v.toNat ≥ 32 then 0 else d.toNat * 2 ^ v.toNat % 2 ^ 32) := by
  unfold shlBits
  split
  · rfl
  · refine BitVec.eq_of_toNat_eq ?_
    rw [low_toNat, BitVec.toNat_shiftLeft, Nat.shiftLeft_eq, BitVec.toNat_ofNat]
    omega

theorem shrBits_eq {d : Word} (v : Word) (hd : d.toNat < 2 ^ 32) : shrBits 32 d v =
    BitVec.ofNat 64 (if v.toNat ≥ 32 then 0 else d.toNat / 2 ^ v.toNat) := by
  unfold shrBits
  split
  · rfl
  · refine BitVec.eq_of_toNat_eq ?_
    rw [low_of_lt hd, BitVec.toNat_ushiftRight, Nat.shiftRight_eq_div_pow, BitVec.toNat_ofNat]
    exact (Nat.mod_eq_of_lt (Nat.lt_of_le_of_lt (Nat.div_le_self _ _) d.isLt)).symm

/-! ### The function of a V half (R205) -/

/-- What a V half gives for the old value `d` of its destination and the source `v`, as numbers. -/
def hopGives (c : FpCtx) (op : Hop) (d v : Nat) : FpOut :=
  let i := fun z : Nat => toI true 32 (BitVec.ofNat 64 z)
  let word := fun z : Nat => BitVec.ofNat 64 z
  match op with
  | .hadd => (word ((d + v) % 2 ^ 32), 0)
  | .hsub => (word ((d + 2 ^ 32 - v) % 2 ^ 32), 0)
  | .hand => (word (d &&& v), 0)
  | .hor => (word (d ||| v), 0)
  | .hxor => (word (d ^^^ v), 0)
  | .hshl => (word (if v ≥ 32 then 0 else d * 2 ^ v % 2 ^ 32), 0)
  | .hshr => (word (if v ≥ 32 then 0 else d / 2 ^ v), 0)
  | .hmov => (word v, 0)
  | .hmin => (word (if i d ≤ i v then d else v), 0)
  | .hmax => (word (if i d ≤ i v then v else d), 0)
  | .hfadd => c.add (c.read (word d)) (c.read (word v))
  | .hfmul => c.mul (c.read (word d)) (c.read (word v))
  | .hsadd | .hsmov | .hssub | .hnop => (word d, 0)

/-- A half's function on patterns is that on the numbers that they hold. -/
theorem hopLane_eq_hopGives (c : FpCtx) (op : Hop) {d v : Word} (hd : d.toNat < 2 ^ 32) (hv : v.toNat < 2 ^ 32) :
    hopLane c op d v = hopGives c op d.toNat v.toNat := by
  have pick : ∀ (p : Prop) [Decidable p] (x y : Word), BitVec.ofNat 64 (if p then x.toNat else y.toNat) = if p then x else y :=
    fun p _ x y => by split <;> simp
  cases op <;> simp only [hopLane, hopGives, BitVec.ofNat_toNat, BitVec.setWidth_eq]
  case hadd => rw [intBin_add]
  case hsub => rw [intBin_sub hv]
  case hand => rw [← BitVec.toNat_and, BitVec.ofNat_toNat, BitVec.setWidth_eq]
  case hor => rw [← BitVec.toNat_or, BitVec.ofNat_toNat, BitVec.setWidth_eq]
  case hxor => rw [← BitVec.toNat_xor, BitVec.ofNat_toNat, BitVec.setWidth_eq]
  case hshl => rw [shlBits_eq]
  case hshr => rw [shrBits_eq v hd]
  case hmin => rw [intBin_choice hd hv (fun x y => x ≤ y) fun _ _ => rfl, pick]
  case hmax => rw [intBin_choice hd hv (fun x y => ¬ x ≤ y) fun _ _ => (ite_not ..).symm, ite_not, pick]

/-! ### The operands of a half -/

theorem Warp.lane_w32_toNat (w : Warp) (r j : Nat) : (w.lane .w32 r j).toNat = (w.vl r j).toNat := by
  have hlt := (w.vl r j).isLt
  refine (low_toNat 32 _).trans ?_
  rw [BitVec.toNat_setWidth]
  omega

theorem Env.halfSrc_v {e : Env} {h : Half} {r : BitVec 8} (hs : h.rs = .v r) (k : BitVec 2 → Nat) (j : Nat) :
    (e.halfSrc h k j).toNat = (e.w.vl r.toNat j).toNat := by
  simp only [Env.halfSrc, hs, Warp.lane_w32_toNat]

theorem Env.halfSrc_s {e : Env} {h : Half} {r : SReg} (hs : h.rs = .s r) (k : BitVec 2 → Nat) (j : Nat) :
    (e.halfSrc h k j).toNat = (e.w.s r).toNat % 2 ^ 32 := by
  simp only [Env.halfSrc, hs, low_toNat]

theorem Env.halfSrc_imm {e : Env} {h : Half} {m : BitVec 8} (hs : h.rs = .imm m) (k : BitVec 2 → Nat) (j : Nat) :
    (e.halfSrc h k j).toNat = (h.op.imm m).toNat % 2 ^ 32 := by
  simp only [Env.halfSrc, hs, low_toNat]

theorem Env.halfSrc_queue {e : Env} {h : Half} {q : BitVec 2} (hs : h.rs = .queue q) (k : BitVec 2 → Nat) (j : Nat) :
    e.halfSrc h k j = e.w.popLane .w32 q (k q) j := by
  simp only [Env.halfSrc, hs]

/-- The source of a V half is of 32 bits. -/
theorem Env.halfSrc_lt (e : Env) (h : Half) (k : BitVec 2 → Nat) (j : Nat) : (e.halfSrc h k j).toNat < 2 ^ 32 := by
  unfold Env.halfSrc
  cases h.rs with
  | v r => rw [Warp.lane_w32_toNat]; exact (e.w.vl r.toNat j).isLt
  | s | imm | queue => exact Nat.lt_of_le_of_lt (Nat.le_of_eq (low_toNat 32 _)) (Nat.mod_lt _ (by decide))

theorem Env.fpCtx_f32 (e : Env) : e.w.fpCtx .f32 .dyn = { f := f32Fmt, r := RSel.dyn.mode e.w.fpctl, flush := e.w.nbv == 1 } := by
  simp [Warp.fpCtx, FSz.fmt, Warp.v1]

/-- What a V half gives for lane `j`. -/
theorem Env.halfLane_eq (e : Env) (h : Half) (k : BitVec 2 → Nat) (j : Nat) : e.halfLane h k j =
    hopGives { f := f32Fmt, r := RSel.dyn.mode e.w.fpctl, flush := e.w.nbv == 1 } h.op (e.w.vl h.rd.toNat j).toNat
      (e.halfSrc h k j).toNat := by
  have hd := e.w.lane_w32_toNat h.rd.toNat j
  rw [Env.halfLane, hopLane_eq_hopGives _ _ (hd ▸ (e.w.vl h.rd.toNat j).isLt) (e.halfSrc_lt h k j), hd, Env.fpCtx_f32]

/-- Half Y's pops come after that of half X from the same queue. -/
theorem half_before_eq (x : Half) (q : BitVec 2) : x.before q = if x.rs = .queue q ∧ x.op ≠ .hnop then 1 else 0 := by
  unfold Half.before Half.pops
  cases hs : x.rs with
  | queue p => by_cases hop : x.op = .hnop <;> by_cases hq : p = q <;> simp [hop, hq]
  | v | s | imm => simp

/-! ### What the halves write -/

theorem ext_unsigned (x : Word) : ext false 32 x = low 32 x := by
  unfold ext wrap low toI
  refine congrArg (BitVec.ofNat 64) ?_
  simp only [Bool.false_and, Bool.false_eq_true, if_false]
  omega

theorem low_setWidth (x : Word) : (low 32 x).setWidth 32 = x.setWidth 32 := by
  refine BitVec.eq_of_toNat_eq ?_
  rw [BitVec.toNat_setWidth, BitVec.toNat_setWidth, low_toNat, Nat.mod_mod]

/-- The three kinds of half: HNOP, an S half, a V half. -/
theorem half_cases (h : Half) : (h.op == .hnop) = true ∧ h.vWrite = none ∧ h.sWrite = none ∨
    (h.op == .hnop) = false ∧ h.op.scalar = true ∧ h.vWrite = none ∧ h.sWrite = some h.rd.toNat ∨
    (h.op == .hnop) = false ∧ h.op.scalar = false ∧ h.vWrite = some h.rd.toNat ∧ h.sWrite = none := by
  unfold Half.vWrite Half.sWrite
  cases h.op <;> simp [Hop.scalar]

section
variable (e : Env) (h : Half) (k : BitVec 2 → Nat) (w : Warp)

/-- A half writes registers alone. -/
theorem Env.halfWrite_regs : RegsOnly w (e.halfWrite h k w) := by
  unfold Env.halfWrite
  split
  · exact .refl w
  · split
    · exact ⟨rfl, rfl, rfl, rfl⟩
    · exact putLanes_regs ..

/-- A V half writes its result in the active lanes of its destination. -/
theorem Env.halfWrite_vl {r j : Nat} (hr : r < 256) (hj : j < 32) : (e.halfWrite h k w).vl r j =
    if e.b.active j && h.vWrite == some r then (e.halfLane h k j).1.setWidth 32 else w.vl r j := by
  unfold Env.halfWrite
  obtain ⟨hn, hv, -⟩ | ⟨hn, hs, hv, -⟩ | ⟨hn, hs, hv, -⟩ := half_cases h
  · simp [hn, hv]
  · simp [hn, hs, hv]; rfl
  · simp [hn, hs, hv, putLanes_vl _ _ _ _ _ _ hr hj, ext_unsigned, low_setWidth, Sub.active, Sz.bits, eq_comm (a := r)]

/-- An S half writes its result once. -/
theorem Env.halfWrite_sn {r : Nat} (hr : r < 128) : (e.halfWrite h k w).sn r =
    if h.sWrite = some r then hopScalar h.op (e.w.sn h.rd.toNat) (e.halfSrcS h) else w.sn r := by
  unfold Env.halfWrite
  obtain ⟨hn, -, hw⟩ | ⟨hn, hs, -, hw⟩ | ⟨hn, hs, -, hw⟩ := half_cases h
  · simp [hn, hw]
  · by_cases hd : h.rd.toNat = r
    · simp [hn, hs, hw, hd, Warp.sn, Warp.setSn, hr]
    · simp [hn, hs, hw, hd, Warp.sn, Warp.setSn]
  · simp [hn, hs, hw, Warp.sn, (putLanes_keeps ..).1]

/-- The flags that a half raises in a lane: an S half and HNOP raise none. -/
theorem Env.halfFlags_eq (j : Nat) : e.halfFlags h k j = if h.vWrite.isSome then (e.halfLane h k j).2 else 0 := by
  unfold Env.halfFlags
  obtain ⟨hn, hv, -⟩ | ⟨hn, hs, hv, -⟩ | ⟨hn, hs, hv, -⟩ := half_cases h
  · simp [hn, hv]
  · simp [hn, hs, hv]
  · simp [hn, hs, hv]

end

/-! ### The flags of both halves (R246) -/

theorem foldl_or_or (f g : Nat → FpFlags) (l : List Nat) (a b : FpFlags) :
    l.foldl (fun m i => m ||| (f i ||| g i)) (a ||| b) = l.foldl (fun m i => m ||| f i) a ||| l.foldl (fun m i => m ||| g i) b := by
  induction l generalizing a b with
  | nil => rfl
  | cons i l ih =>
    have : a ||| b ||| (f i ||| g i) = (a ||| f i) ||| (b ||| g i) := by ac_rfl
    simp only [List.foldl_cons, this, ih]

theorem flagsOf_or (b : Sub) (f g : Nat → FpFlags) : flagsOf b (fun i => f i ||| g i) = flagsOf b f ||| flagsOf b g :=
  foldl_or_or f g _ 0 0

theorem flagsOf_zero (b : Sub) : flagsOf b (fun _ => 0) = 0 := by
  unfold flagsOf
  induction lanesOf b.exec with
  | nil => rfl
  | cons i l ih => rw [List.foldl_cons, BitVec.or_self, ih]

/-- The flags that a half raises in the active lanes. -/
theorem Env.flagsOf_half (e : Env) (h : Half) (k : BitVec 2 → Nat) : flagsOf e.b (e.halfFlags h k) =
    if h.vWrite.isSome then flagsOf e.b (fun j => (e.halfLane h k j).2) else 0 := by
  rw [funext (e.halfFlags_eq h k)]
  split
  · rfl
  · exact flagsOf_zero e.b

/-- No enabled flag raised: the flags are ORed into FPCTL. -/
theorem Env.raiseFlags_ok {e : Env} {f : Nat → FpFlags} (w : Warp) (h : flagsOf e.b f &&& fpEnabled e.w.fpctl = 0) :
    e.raiseFlags f w = .ok { w with fpctl := fpctlOr e.w.fpctl (flagsOf e.b f) } := by
  simp [Env.raiseFlags, h]

/-! ### The pairing rules (R207) -/

theorem pairRules_of_wf {x y : Half} (h : (Instr.pairedWord x y).wf = true) : pairRules x y = true :=
  (Bool.and_eq_true_iff.1 (show (x.ok && y.ok && pairRules x y) = true from h)).2

/-- The halves write different registers. -/
theorem pairRules_vWrite {x y : Half} (h : pairRules x y = true) {r : Nat} (hx : x.vWrite = some r) : y.vWrite ≠ some r := by
  intro hy
  simp [pairRules, hx, hy] at h

theorem pairRules_sWrite {x y : Half} (h : pairRules x y = true) {r : Nat} (hx : x.sWrite = some r) : y.sWrite ≠ some r := by
  intro hy
  simp [pairRules, hx, hy] at h

/-! ### The paired word -/

/-- The warp after both halves, before the pops. -/
def Env.paired (e : Env) (x y : Half) : Warp :=
  { e.halfWrite y x.before (e.halfWrite x (fun _ => 0) e.w) with
    fpctl := fpctlOr e.w.fpctl (flagsOf e.b (e.halfFlags x fun _ => 0) ||| flagsOf e.b (e.halfFlags y x.before)) }

theorem Env.paired_regs (e : Env) (x y : Half) : RegsOnly e.w (e.paired x y) := by
  obtain ⟨hsubs, hacc, hq, hsame⟩ := (e.halfWrite_regs x (fun _ => 0) e.w).trans (e.halfWrite_regs y x.before _)
  exact ⟨hsubs, hacc, hq, hsame⟩

/-- Both halves write when no flag that either raises is enabled (R208, R246). -/
theorem exec_pairedWord_next {s : State} {e : Env} {x y : Half} (hr : Ready (.pairedWord x y) s e)
    (hf : (flagsOf e.b (e.halfFlags x fun _ => 0) ||| flagsOf e.b (e.halfFlags y x.before)) &&& fpEnabled e.w.fpctl = 0) :
    exec (.pairedWord x y) s = .next { s with sys := (s.sys.setWarp (e.after (e.paired x y) e.i.pops)).mark e.k.ctx } := by
  rw [← flagsOf_or] at hf
  rw [exec_pairedWord, execPairedWord]
  refine issueReg_ok hr ((Env.raiseFlags_ok _ hf).trans ?_)
  rw [flagsOf_or, Env.paired]

section
variable {e : Env} {x y : Half} (hp : pairRules x y = true)
include hp

/-- The lanes after both halves: their destinations differ. -/
theorem Env.paired_vl {r j : Nat} (hr : r < 256) (hj : j < 32) : (e.paired x y).vl r j =
    if e.b.active j && x.vWrite == some r then (e.halfLane x (fun _ => 0) j).1.setWidth 32
    else if e.b.active j && y.vWrite == some r then (e.halfLane y x.before j).1.setWidth 32
    else e.w.vl r j := by
  have hset : (e.paired x y).vl r j = (e.halfWrite y x.before (e.halfWrite x (fun _ => 0) e.w)).vl r j := rfl
  rw [hset, Env.halfWrite_vl _ _ _ _ hr hj, Env.halfWrite_vl _ _ _ _ hr hj]
  by_cases hx : x.vWrite = some r
  · simp [hx, pairRules_vWrite hp hx]
  · simp [hx]

theorem Env.paired_sn {r : Nat} (hr : r < 128) : (e.paired x y).sn r =
    if x.sWrite = some r then hopScalar x.op (e.w.sn x.rd.toNat) (e.halfSrcS x)
    else if y.sWrite = some r then hopScalar y.op (e.w.sn y.rd.toNat) (e.halfSrcS y)
    else e.w.sn r := by
  have hset : (e.paired x y).sn r = (e.halfWrite y x.before (e.halfWrite x (fun _ => 0) e.w)).sn r := rfl
  rw [hset, Env.halfWrite_sn _ _ _ _ hr, Env.halfWrite_sn _ _ _ _ hr]
  by_cases hx : x.sWrite = some r
  · simp [hx, pairRules_sWrite hp hx]
  · simp [hx]

end

end Sys2Proof.Machine

open Sys2Proof Sys2Proof.Machine

/-- Settles O10: what each half gives is `hopGives` of its operands as they were at issue, and the pairing rules keep the destinations of the
halves apart. -/
theorem pairedWordForm : Obligations.PairedWordForm := by
  unfold Obligations.PairedWordForm
  intro s e x y hr on src srcS c out outS before flags raised hraised
  obtain ⟨-, -, -, -, hsub, -⟩ := env?_spec hr.env
  have hpair : pairRules x y = true := pairRules_of_wf hr.wf
  have hsrc : ∀ h k j, src h k j = (e.halfSrc h k j).toNat := by
    intro h k j
    cases hs : h.rs with
    | v r => simp only [src, hs, Env.halfSrc_v hs]
    | s r => simp only [src, hs, Env.halfSrc_s hs]
    | imm m => simp only [src, hs, Env.halfSrc_imm hs]
    | queue q => simp only [src, hs, Env.halfSrc_queue hs]
  have hout : ∀ h k j, out h k j = e.halfLane h k j := by
    intro h k j
    rw [Env.halfLane_eq, ← hsrc]
    simp only [out]
    cases h.op <;> rfl
  have houtS : ∀ h, outS h = hopScalar h.op (e.w.sn h.rd.toNat) (e.halfSrcS h) := by
    intro h
    have hs : srcS h = e.halfSrcS h := by
      cases hrs : h.rs <;> simp only [srcS, Env.halfSrcS, hrs]
    cases hop : h.op <;> simp only [outS, hopScalar, hop, hs]
  have hbefore : before = x.before := funext fun q => (half_before_eq x q).symm
  have hflags : ∀ h k, flags h k = flagsOf e.b (e.halfFlags h k) := by
    intro h k
    rw [Env.flagsOf_half]
    simp only [flags, hout, List.foldl_map, flagsOf, lanesOf, on]
    rfl
  have hboth : raised = flagsOf e.b (e.halfFlags x fun _ => 0) ||| flagsOf e.b (e.halfFlags y x.before) := by
    simp only [raised, hflags, hbefore]
  rw [hboth] at hraised
  have hregs := e.paired_regs x y
  refine ⟨_, _, exec_pairedWord_next hr hraised, onlyWarp_of hr.env (by rw [Env.after_id, hregs.id]), Env.after_frame hsub hregs, ?flags,
    fun r j h1 h2 => ?lanes, fun r h1 => ?scalars⟩
  case flags => rw [hboth, Env.after_fpctl]; rfl
  case lanes => rw [Env.after_vl, Env.paired_vl hpair h1 h2, hout, hout, hbefore]
  case scalars =>
    have : (e.after (e.paired x y) e.i.pops).sn r = (e.paired x y).sn r := by simp [Warp.sn]
    rw [this, Env.paired_sn hpair h1, houtS, houtS]

end
section
/-! Floating point (R243 to R248, R280): what rounding, the exact operations and the choice of the lesser or the greater give. -/

namespace Sys2Proof.Machine

/-! ### Rounding to a multiple of a unit -/

/-- A value that the unit divides is kept. -/
theorem roundAt_of_le (r : Rnd) (s : Bool) (m : Nat) {e q : Int} (h : q ≤ e) :
    roundAt r s m e q = (m * 2 ^ (e - q).toNat, true) := by
  rw [roundAt, if_pos h]

/-- The mode directs `n` units and `t` parts of `d` to the next multiple of the unit (R244, R248). -/
def Rnd.goesUp (r : Rnd) (s : Bool) (d n t : Nat) : Bool :=
  match r with
  | .ne => d < 2 * t || (2 * t = d && n % 2 = 1)
  | .tz => false
  | .up => t != 0 && !s
  | .dn => t != 0 && s
  | .away => d ≤ 2 * t

/-- Nothing left over: no mode directs up. -/
theorem Rnd.goesUp_zero (r : Rnd) (s : Bool) {d : Nat} (n : Nat) (hd : 0 < d) : r.goesUp s d n 0 = false := by
  cases r <;> simp [goesUp] <;> omega

/-- Rounding to a unit 2^j times as large, by quotient and remainder. -/
theorem roundAt_add (r : Rnd) (s : Bool) (m j : Nat) (e : Int) : roundAt r s m e (e + j) =
    (if r.goesUp s (2 ^ j) (m / 2 ^ j) (m % 2 ^ j) then m / 2 ^ j + 1 else m / 2 ^ j, decide (m % 2 ^ j = 0)) := by
  rcases Nat.eq_zero_or_pos j with rfl | hj
  · rw [roundAt_of_le r s m (by simp)]
    simp [Nat.mod_one, Rnd.goesUp_zero]
  · have hq : ¬ e + (j : Int) ≤ e := by omega
    have hd : (e + (j : Int) - e).toNat = j := by omega
    rw [roundAt, if_neg hq, hd]
    cases r <;> rfl

theorem roundAt_exact_iff (r : Rnd) (s : Bool) (m j : Nat) (e : Int) :
    (roundAt r s m e (e + j)).2 = true ↔ 2 ^ j ∣ m := by
  rw [roundAt_add, decide_eq_true_iff, Nat.dvd_iff_mod_eq_zero]

theorem roundAt_mul_of_dvd (r : Rnd) (s : Bool) {m j : Nat} (e : Int) (h : 2 ^ j ∣ m) :
    (roundAt r s m e (e + j)).1 * 2 ^ j = m := by
  rw [roundAt_add, Nat.mod_eq_zero_of_dvd h, Rnd.goesUp_zero r s _ (Nat.two_pow_pos j)]
  exact Nat.div_mul_cancel h

/-- An inexact value goes to one of the multiples next to it. -/
theorem roundAt_neighbour (r : Rnd) (s : Bool) (m j : Nat) (e : Int) :
    (roundAt r s m e (e + j)).1 = m / 2 ^ j ∨ (roundAt r s m e (e + j)).1 = m / 2 ^ j + 1 := by
  rw [roundAt_add]
  dsimp only
  split
  · exact .inr rfl
  · exact .inl rfl

/-- It goes to the lower one unless the mode directs it up. -/
theorem roundAt_low_iff (r : Rnd) (s : Bool) (m j : Nat) (e : Int) :
    (roundAt r s m e (e + j)).1 = m / 2 ^ j ↔ r.goesUp s (2 ^ j) (m / 2 ^ j) (m % 2 ^ j) = false := by
  rw [roundAt_add]
  dsimp only
  split <;> simp_all

theorem roundAt_high_iff (r : Rnd) (s : Bool) (m j : Nat) (e : Int) :
    (roundAt r s m e (e + j)).1 = m / 2 ^ j + 1 ↔ r.goesUp s (2 ^ j) (m / 2 ^ j) (m % 2 ^ j) = true := by
  rw [roundAt_add]
  dsimp only
  split <;> simp_all

/-- A tie goes to the even multiple. -/
theorem roundAt_tie_even (s : Bool) {m j : Nat} (e : Int) (h : 2 * (m % 2 ^ j) = 2 ^ j) :
    (roundAt .ne s m e (e + j)).1 % 2 = 0 := by
  rw [roundAt_add]
  dsimp only
  split
  next hup => simp [Rnd.goesUp, h] at hup; omega
  next hup => simp [Rnd.goesUp, h] at hup; omega

/-! ### Encodings and their fields (R243) -/

/-- The exponent and fraction fields of an encoding. -/
def FpFmt.expField (f : FpFmt) (x : Word) : Nat := x.toNat / 2 ^ f.fb % 2 ^ f.eb
def FpFmt.fracField (f : FpFmt) (x : Word) : Nat := x.toNat % 2 ^ f.fb

theorem FpFmt.fracField_lt (f : FpFmt) (x : Word) : f.fracField x < 2 ^ f.fb := Nat.mod_lt _ (Nat.two_pow_pos _)

theorem FpFmt.expField_le (f : FpFmt) (x : Word) : f.expField x ≤ f.ones := Nat.le_pred_of_lt (Nat.mod_lt _ (Nat.two_pow_pos _))

/-- An encoding is made of its sign, exponent and fraction. -/
theorem FpFmt.fields (f : FpFmt) {x : Word} (hx : x.toNat < 2 ^ f.width) :
    x = BitVec.ofNat 64 (f.signBit (x.getLsbD (f.width - 1)) + f.expField x * 2 ^ f.fb + f.fracField x) := by
  have hw : f.width - 1 = f.eb + f.fb := by unfold FpFmt.width; omega
  have hfrac := Nat.div_add_mod' x.toNat (2 ^ f.fb)
  have hexp := Nat.div_add_mod' (x.toNat / 2 ^ f.fb) (2 ^ f.eb)
  have htop : x.toNat / 2 ^ f.fb / 2 ^ f.eb = x.toNat / 2 ^ (f.eb + f.fb) := by
    rw [Nat.div_div_eq_div_mul, Nat.pow_add, Nat.mul_comm]
  have hlt : x.toNat / 2 ^ (f.eb + f.fb) < 2 := by
    rw [Nat.div_lt_iff_lt_mul (Nat.two_pow_pos _), ← Nat.pow_succ']
    rwa [FpFmt.width, Nat.add_assoc, Nat.add_comm] at hx
  have hsign : f.signBit (x.getLsbD (f.width - 1)) = x.toNat / 2 ^ (f.eb + f.fb) * 2 ^ (f.eb + f.fb) := by
    rw [hw, BitVec.getLsbD, Nat.testBit_eq_decide_div_mod_eq, Nat.mod_eq_of_lt hlt, FpFmt.signBit]
    rcases Nat.le_one_iff_eq_zero_or_eq_one.1 (Nat.le_of_lt_succ hlt) with h | h <;> simp [h]
  have hsum : f.signBit (x.getLsbD (f.width - 1)) + f.expField x * 2 ^ f.fb + f.fracField x = x.toNat := by
    rw [hsign, FpFmt.expField, FpFmt.fracField, ← htop, Nat.pow_add, ← Nat.mul_assoc, ← Nat.add_mul, hexp, hfrac]
  rw [hsum, BitVec.ofNat_toNat, BitVec.setWidth_eq]

theorem FpFmt.unpack_eq (f : FpFmt) (x : Word) : f.unpack x =
    if f.expField x = f.ones then
      if f.fracField x = 0 then .inf (x.getLsbD (f.width - 1)) else .nan (f.fracField x < 2 ^ (f.fb - 1))
    else if f.expField x = 0 then .fin (x.getLsbD (f.width - 1)) (f.fracField x) (f.emin - f.fb)
    else .fin (x.getLsbD (f.width - 1)) (2 ^ f.fb + f.fracField x) ((f.expField x : Int) - f.bias - f.fb) := rfl

/-- The encoding of an infinity. -/
theorem FpFmt.infinity_of_unpack (f : FpFmt) {x : Word} {s : Bool} (hx : x.toNat < 2 ^ f.width) (h : f.unpack x = .inf s) :
    f.infinity s = x := by
  have hfields := f.fields hx
  rw [unpack_eq] at h
  split at h
  next hones =>
    split at h
    next hzero =>
      cases h
      rw [hones, hzero, Nat.add_zero] at hfields
      exact hfields.symm
    next => cases h
  next => split at h <;> cases h

/-! ### Rounding what the format can hold -/

/-- A normal number: its lowest bit is the unit that rounding takes. -/
theorem FpFmt.round_normal (f : FpFmt) (r : Rnd) (s : Bool) {n E : Nat} (hn : n < 2 ^ f.fb) (hpos : E ≠ 0) (hE : E < f.ones) :
    f.round r false s (2 ^ f.fb + n) ((E : Int) - f.bias - f.fb) = (BitVec.ofNat 64 (f.signBit s + E * 2 ^ f.fb + n), 0) := by
  have h0 : 2 ^ f.fb + n ≠ 0 := by have := Nat.two_pow_pos f.fb; omega
  have hlog : (2 ^ f.fb + n).log2 = f.fb := (Nat.log2_eq_iff h0).2 ⟨by omega, by rw [Nat.pow_succ]; omega⟩
  have hmin : ¬ (E : Int) - f.bias - f.fb < f.emin - f.fb := by unfold emin; omega
  have htop : ¬ 2 ^ f.fb + n ≥ 2 ^ (f.fb + 1) := by rw [Nat.pow_succ]; omega
  have hones : ¬ (E : Int) ≥ f.ones := by omega
  have hfrac : ¬ 2 ^ f.fb + n < 2 ^ f.fb := by omega
  simp [round, hlog, hmin, roundAt_of_le, htop, hones, hfrac]

/-- A nonzero subnormal number: it is exact at the least unit, so that no flag is raised though it is tiny. -/
theorem FpFmt.round_subnormal (f : FpFmt) (r : Rnd) (s : Bool) {n : Nat} (h0 : n ≠ 0) (hn : n < 2 ^ f.fb) :
    f.round r false s n (f.emin - f.fb) = (BitVec.ofNat 64 (f.signBit s + n), 0) := by
  have hlog : n.log2 < f.fb := (Nat.log2_lt h0).2 hn
  have hmin : f.emin - f.fb + n.log2 - f.fb < f.emin - f.fb := by omega
  have htop : ¬ n ≥ 2 ^ (f.fb + 1) := by rw [Nat.pow_succ]; omega
  simp [round, h0, hmin, roundAt_of_le, htop, hn]

/-- Rounding the value of an encoding gives the encoding (R245). -/
theorem FpFmt.round_of_unpack (f : FpFmt) (r : Rnd) {x : Word} {s : Bool} {m : Nat} {q : Int} (hx : x.toNat < 2 ^ f.width)
    (h : f.unpack x = .fin s m q) : f.round r false s m q = (x, 0) := by
  have hfields := f.fields hx
  have hfrac := f.fracField_lt x
  rw [unpack_eq] at h
  split at h
  next => split at h <;> cases h
  next hones =>
    split at h
    next hexp =>
      cases h
      rw [hexp, Nat.zero_mul, Nat.add_zero] at hfields
      by_cases hzero : f.fracField x = 0
      · rw [hzero] at hfields ⊢
        exact congrArg (·, 0) hfields.symm
      · rw [f.round_subnormal r _ hzero hfrac, ← hfields]
    next hexp =>
      cases h
      rw [f.round_normal r _ hfrac hexp (Nat.lt_of_le_of_ne (f.expField_le x) hones), ← hfields]

/-- Delivering the value of an encoding that is not a NaN gives the encoding. -/
theorem FpCtx.give_unpack (c : FpCtx) {x : Word} (hflush : c.flush = false) (hx : x.toNat < 2 ^ c.f.width)
    (hnan : (c.f.unpack x).isNan = false) : (c.give (c.f.unpack x)).1 = x := by
  cases h : c.f.unpack x with
  | nan b => rw [h] at hnan; cases hnan
  | inf s => exact c.f.infinity_of_unpack hx h
  | fin s m e => rw [give, rnd, hflush, c.f.round_of_unpack c.r hx h]

/-! ### The exact operations, rounded once (R280) -/

/-- (−1)^s · v · 2^e in units of 2^k, for k ≤ e. -/
def inUnits (s : Bool) (v : Nat) (e k : Int) : Int :=
  if s then -((v * 2 ^ (e - k).toNat : Nat) : Int) else (v * 2 ^ (e - k).toNat : Nat)

/-- `out` is the sum of (−1)^s · v · 2^e and (−1)^t · w · 2^h rounded once, a zero sum taking the sign of IEEE 754. -/
def FpCtx.IsSum (c : FpCtx) (out : FpOut) (s t : Bool) (v w : Nat) (e h : Int) : Prop :=
  let k := min e h
  let z := inUnits s v e k + inUnits t w h k
  (z ≠ 0 → out = c.f.round c.r c.flush (decide (z < 0)) z.natAbs k) ∧
  (z = 0 → out = (c.f.zero (if s = t then s else decide (c.r = .dn)), 0))

theorem FpCtx.sum_fin (c : FpCtx) (s t : Bool) (v w : Nat) (e h : Int) :
    c.IsSum (c.sum (.fin s v e) (.fin t w h)) s t v w e h := by
  have hk : (if e < h then e else h) = min e h := by omega
  have hsum : c.sum (.fin s v e) (.fin t w h) =
      let z := inUnits s v e (min e h) + inUnits t w h (min e h)
      if z = 0 then (c.f.zero (if s = t then s else c.r == .dn), 0)
      else c.rnd (decide (z < 0)) z.natAbs (min e h) := by
    rw [← hk]; rfl
  rw [hsum]
  exact ⟨fun hz => if_neg hz, fun hz => if_pos hz⟩

/-- The quotient: fb + 4 bits more than the divisor's, whose last one stands for what is left over. -/
theorem FpCtx.div_fin (c : FpCtx) (s t : Bool) {m n : Nat} (p q : Int) (hm : m ≠ 0) (hn : n ≠ 0) :
    ∃ j : Nat, c.f.fb + 3 ≤ j - n.log2 ∧ c.div (.fin s m p) (.fin t n q) =
      c.f.round c.r c.flush (s != t) (2 * (m * 2 ^ j / n) + (if n ∣ m * 2 ^ j then 0 else 1)) (p - q - j - 1) :=
  ⟨c.f.fb + 4 + n.log2, by omega, by simp only [div, quotient, rnd, hm, hn, if_false, Nat.dvd_iff_mod_eq_zero]⟩

theorem FpCtx.div_zero_num (c : FpCtx) (s t : Bool) {m n : Nat} (p q : Int) (hm : m = 0) (hn : n ≠ 0) :
    c.div (.fin s m p) (.fin t n q) = (c.f.zero (s != t), 0) := by
  simp [div, hm, hn]

/-- The bits below bit k decide between r and r + 2^k: with the root in between, the search finds its floor. -/
theorem isqrtFrom_floor (n : Nat) : ∀ (k r : Nat), r * r ≤ n → n < (r + 2 ^ k) * (r + 2 ^ k) →
    isqrtFrom n r k * isqrtFrom n r k ≤ n ∧ n < (isqrtFrom n r k + 1) * (isqrtFrom n r k + 1)
  | 0, r, hlow, hhigh => ⟨hlow, hhigh⟩
  | k + 1, r, hlow, hhigh => by
    rw [isqrtFrom]
    by_cases h : (r + 2 ^ k) * (r + 2 ^ k) ≤ n
    · rw [if_pos h]
      refine isqrtFrom_floor n k _ h ?_
      rwa [Nat.add_assoc, ← Nat.two_mul, ← Nat.pow_succ']
    · rw [if_neg h]
      exact isqrtFrom_floor n k r hlow (Nat.lt_of_not_le h)

theorem isqrt_floor (n : Nat) : isqrt n * isqrt n ≤ n ∧ n < (isqrt n + 1) * (isqrt n + 1) := by
  refine isqrtFrom_floor n _ 0 (Nat.zero_le n) ?_
  rw [Nat.zero_add, ← Nat.pow_add]
  exact Nat.lt_of_lt_of_le Nat.lt_log2_self (Nat.pow_le_pow_right (by omega) (by omega))

/-- The root: an even exponent, and fb + 3 bits more, whose last one stands for what is left over. -/
theorem FpCtx.sqrt_fin (c : FpCtx) {m : Nat} (p : Int) (hm : m ≠ 0) :
    ∃ (j : Nat) (h : Int) (r : Nat), 2 * (c.f.fb + 3) ≤ j ∧ 2 * h = p - j ∧
      r * r ≤ m * 2 ^ j ∧ m * 2 ^ j < (r + 1) * (r + 1) ∧ c.sqrt (.fin false m p) =
        c.f.round c.r c.flush false (2 * r + (if r * r = m * 2 ^ j then 0 else 1)) (h - 1) := by
  obtain ⟨j, hj⟩ : ∃ j, j = 2 * (c.f.fb + 3) + (if p % 2 = 0 then 0 else 1) := ⟨_, rfl⟩
  refine ⟨j, (p - j) / 2, isqrt (m * 2 ^ j), ?bits, ?even, (isqrt_floor _).1, (isqrt_floor _).2, ?root⟩
  case bits => omega
  case even => split at hj <;> omega
  case root => simp [sqrt, rnd, hm, hj]

/-! ### NaN operands (R247) -/

@[simp] theorem FpVal.isNan_nan (k : Bool) : (FpVal.nan k).isNan = true := rfl
@[simp] theorem FpVal.isSNan_nan (k : Bool) : (FpVal.nan k).isSNan = k := rfl

theorem FpVal.isNan_iff {v : FpVal} : v.isNan = true ↔ ∃ k, v = .nan k := by
  cases v <;> simp [isNan]

theorem FpVal.isSNan_iff {v : FpVal} : v.isSNan = true ↔ v = .nan true := by
  cases v <;> simp [isSNan]

theorem FpVal.isSNan_of_not_isNan {v : FpVal} (h : v.isNan = false) : v.isSNan = false := by
  cases v
  case nan => cases h
  all_goals rfl

theorem snanFlag_pair (v w : FpVal) : snanFlag [v, w] = if v = .nan true ∨ w = .nan true then fNV else 0 := by
  simp [snanFlag, FpVal.isSNan_iff]

section

variable (c : FpCtx) {a b : FpVal} (h : a.isNan = true ∨ b.isNan = true)
include h

theorem FpCtx.add_nan : c.add a b = (c.f.qnan, snanFlag [a, b]) := if_pos (Bool.or_eq_true _ _ ▸ h)

theorem FpCtx.sub_nan : c.sub a b = (c.f.qnan, snanFlag [a, b]) := if_pos (Bool.or_eq_true _ _ ▸ h)

theorem FpCtx.mul_nan : c.mul a b = (c.f.qnan, snanFlag [a, b]) := if_pos (Bool.or_eq_true _ _ ▸ h)

theorem FpCtx.fma_nan (d : FpVal) : c.fma a b d = (c.f.qnan, snanFlag [a, b, d]) := if_pos (Bool.or_eq_true _ _ ▸ h)

theorem FpCtx.div_nan : c.div a b = (c.f.qnan, snanFlag [a, b]) := by
  rcases h with h | h
  · obtain ⟨k, rfl⟩ := FpVal.isNan_iff.1 h
    rfl
  · obtain ⟨k, rfl⟩ := FpVal.isNan_iff.1 h
    cases a <;> rfl

end

/-! ### Infinities and zeros (R280) -/

section

variable (c : FpCtx) (s t : Bool)

theorem FpCtx.add_inf_inf : c.add (.inf s) (.inf t) = if s = t then (c.f.infinity s, 0) else (c.f.qnan, fNV) := rfl

theorem FpCtx.sub_inf_inf : c.sub (.inf s) (.inf t) = if s = !t then (c.f.infinity s, 0) else (c.f.qnan, fNV) := rfl

theorem FpCtx.add_inf_fin (m : Nat) (p : Int) : c.add (.inf s) (.fin t m p) = (c.f.infinity s, 0) := rfl

theorem FpCtx.mul_fin_inf (m : Nat) (p : Int) :
    c.mul (.fin s m p) (.inf t) = if m = 0 then (c.f.qnan, fNV) else (c.f.infinity (s != t), 0) := by
  by_cases h : m = 0 <;> simp [mul, mulExact, FpVal.isNan, h, nan, give]

/-- 0 × ∞ raises NV whatever is added to it. -/
theorem FpCtx.fma_zero_inf (p : Int) (d : FpVal) : c.fma (.fin s 0 p) (.inf t) d = (c.f.qnan, fNV) := rfl

/-- A number over zero: 0 / 0, or a division by zero. -/
theorem FpCtx.div_fin_zero (m : Nat) (p q : Int) :
    c.div (.fin s m p) (.fin t 0 q) = if m = 0 then (c.f.qnan, fNV) else (c.f.infinity (s != t), fDZ) := rfl

theorem FpCtx.div_inf_inf : c.div (.inf s) (.inf t) = (c.f.qnan, fNV) := rfl

theorem FpCtx.div_fin_inf (m : Nat) (p : Int) : c.div (.fin s m p) (.inf t) = (c.f.zero (s != t), 0) := rfl

theorem FpCtx.div_inf_fin (m : Nat) (p : Int) : c.div (.inf s) (.fin t m p) = (c.f.infinity (s != t), 0) := rfl

theorem FpCtx.sqrt_nan (k : Bool) : c.sqrt (.nan k) = (c.f.qnan, if k then fNV else 0) := rfl

theorem FpCtx.sqrt_zero (p : Int) : c.sqrt (.fin s 0 p) = (c.f.zero s, 0) := rfl

theorem FpCtx.sqrt_neg {m : Nat} (p : Int) (hm : m ≠ 0) : c.sqrt (.fin true m p) = (c.f.qnan, fNV) := by
  rw [sqrt, if_neg hm]; rfl

theorem FpCtx.sqrt_inf : c.sqrt (.inf s) = if s then (c.f.qnan, fNV) else (c.f.infinity false, 0) := rfl

end

/-! ### The lesser and the greater (R280) -/

/-- Of two values each less than the other there is none. -/
theorem fpLt_asymm {a b : FpVal} (h : fpLt a b = true) : fpLt b a = false := by
  cases a <;> cases b
  case fin.fin s m e t n g =>
    have hq : (if g < e then g else e) = if e < g then e else g := by omega
    simp only [fpLt, hq, decide_eq_true_eq, decide_eq_false_iff_not] at h ⊢
    omega
  all_goals simp_all [fpLt]

/-- `a` goes before `b`: it is less, or they are −0 and +0. -/
def fpBefore (a b : FpVal) : Bool := fpLt a b || (!fpLt b a && a.sign && !b.sign)

theorem fpBefore_asymm {a b : FpVal} (h : fpBefore a b = true) : fpBefore b a = false := by
  cases hab : fpLt a b with
  | true => simp [fpBefore, hab, fpLt_asymm hab]
  | false => simp_all [fpBefore]

theorem FpCtx.pick_nan_left (c : FpCtx) (mx k : Bool) {a : FpVal} (ha : a.isNan = false) :
    c.pick mx (.nan k) a = ((c.give a).1, if k then fNV else 0) := by
  simp [pick, ha, snanFlag, FpVal.isSNan_of_not_isNan ha]

theorem FpCtx.pick_nan_right (c : FpCtx) (mx k : Bool) {a : FpVal} (ha : a.isNan = false) :
    c.pick mx a (.nan k) = ((c.give a).1, if k then fNV else 0) := by
  simp [pick, ha, snanFlag, FpVal.isSNan_of_not_isNan ha]

theorem FpCtx.pick_nan_nan (c : FpCtx) (mx : Bool) {a b : FpVal} (ha : a.isNan = true) (hb : b.isNan = true) :
    c.pick mx a b = (c.f.qnan, snanFlag [a, b]) := by
  simp [pick, ha, hb, nan]

/-- Of two numbers the one that goes first is the lesser, and no flag is raised. -/
theorem FpCtx.pick_numbers (c : FpCtx) (mx : Bool) {a b : FpVal} (ha : a.isNan = false) (hb : b.isNan = false) :
    c.pick mx a b = ((c.give (if fpBefore a b != mx then a else b)).1, 0) := by
  simp [pick, ha, hb, snanFlag, FpVal.isSNan_of_not_isNan, fpBefore]

end Sys2Proof.Machine

open Sys2Proof Sys2Proof.Machine

/-- Settles O9: a rounding is its quotient, remainder and direction; the exact operations round what `FpCtx.IsSum`, `FpCtx.div_fin` and
`FpCtx.sqrt_fin` name; an operand that the format holds is delivered as its own encoding. -/
theorem roundingAndSpecialValues : Obligations.RoundingAndSpecialValues := by
  unfold Obligations.RoundingAndSpecialValues
  refine ⟨?ownEncoding, ?nextMultiple, ?exactOperations, ?specialValues, ?lesserGreater⟩
  case ownEncoding => exact fun f r x neg m q _ hx h => f.round_of_unpack r hx h
  case nextMultiple =>
    intro r neg m j e d k
    refine ⟨roundAt_exact_iff r neg m j e, roundAt_mul_of_dvd r neg e, fun hnot => ⟨roundAt_neighbour r neg m j e, ?_⟩⟩
    have hrest : m % 2 ^ j ≠ 0 := fun h => hnot (Nat.dvd_of_mod_eq_zero h)
    have hlow : k = m / d ↔ _ := roundAt_low_iff r neg m j e
    have hhigh : k = m / d + 1 ↔ _ := roundAt_high_iff r neg m j e
    cases r with
    | ne =>
      refine ⟨fun h => hlow.2 ?_, fun h => hhigh.2 ?_, roundAt_tie_even neg e⟩
      · simp only [Rnd.goesUp, Bool.or_eq_false_iff, Bool.and_eq_false_iff, decide_eq_false_iff_not]
        exact ⟨Nat.lt_asymm h, .inl (Nat.ne_of_lt h)⟩
      · simp only [Rnd.goesUp, Bool.or_eq_true, decide_eq_true_eq]
        exact .inl h
    | tz => exact hlow.2 rfl
    | up => simpa [Rnd.goesUp, hrest] using hlow
    | dn => simpa [Rnd.goesUp, hrest] using hlow
    | away => simpa [Rnd.goesUp] using hlow
  case exactOperations =>
    intro x neg neg2 neg3 m n l p q g a b signed summed
    exact ⟨x.sum_fin neg neg2 m n p q, x.sum_fin neg (!neg2) m n p q, rfl, x.sum_fin (neg != neg2) neg3 (m * n) l (p + q) g,
      x.div_fin neg neg2 p q, x.div_zero_num neg neg2 p q, x.sqrt_fin p⟩
  case specialValues =>
    intro x a b c neg neg2 m p q isNan nv nan
    refine ⟨fun h => ?operands, x.sqrt_nan, ?_, ?_, ?_, x.add_inf_fin neg neg2 m p, x.mul_fin_inf neg neg2 0 p, x.fma_zero_inf neg neg2 p c,
      fun hm => (x.mul_fin_inf neg neg2 m p).trans (if_neg hm), x.div_fin_zero neg neg2 0 p q, x.div_inf_inf neg neg2,
      x.div_fin_inf neg neg2 m p, x.div_inf_fin neg neg2 m p,
      fun hm => ⟨x.sqrt_neg p hm, (x.div_fin_zero neg neg2 m p q).trans (if_neg hm)⟩, x.sqrt_zero neg p, x.sqrt_inf false, x.sqrt_inf true,
      fun ha hb mx => ?both⟩
    case operands =>
      have hnan : a.isNan = true ∨ b.isNan = true := h.imp FpVal.isNan_iff.2 FpVal.isNan_iff.2
      have hnv : nv a b = snanFlag [a, b] := (snanFlag_pair a b).symm
      rw [hnv]
      exact ⟨x.add_nan hnan, x.sub_nan hnan, x.mul_nan hnan, x.div_nan hnan, congrArg Prod.fst (x.fma_nan hnan c)⟩
    case both =>
      exact (x.pick_nan_nan mx (FpVal.isNan_iff.2 ha) (FpVal.isNan_iff.2 hb)).trans (congrArg _ (snanFlag_pair a b))
    all_goals simp [FpCtx.add_inf_inf, FpCtx.sub_inf_inf, nan]
  case lesserGreater =>
    intro x mx k v w _ hflush hv hw a b ha hb
    have hgiveV : (x.give a).1 = v := x.give_unpack hflush hv ha
    have hgiveW : (x.give b).1 = w := x.give_unpack hflush hw hb
    refine ⟨by rw [x.pick_nan_left mx k ha, hgiveV], by rw [x.pick_nan_right mx k ha, hgiveV], ?oneOfThem, fun h => ?inOrder⟩
    case oneOfThem =>
      rw [x.pick_numbers mx ha hb]
      split
      · exact .inl (by rw [hgiveV])
      · exact .inr (by rw [hgiveW])
    case inOrder =>
      have hbefore : fpBefore a b = true := by simpa [fpBefore, and_assoc] using h
      rw [x.pick_numbers mx ha hb, x.pick_numbers mx hb ha, hbefore, fpBefore_asymm hbefore]
      cases mx <;> simp [hgiveV, hgiveW]

end

section
/-! The issue of the memory forms (R289, R290, R293, R294, R298, R310): their elements, and what an issue whose checks pass sends. -/

namespace Sys2Proof.Machine

/-! ### Elements (R285, R293) -/

/-- The base of an address: S[base], or zero where the form names none. -/
def Warp.base (w : Warp) (r : OptS) : Int := match r with | some r => ((w.s r).toNat : Int) | none => 0

theorem Env.optS_toNat (e : Env) (r : OptS) : ((e.optS r).toNat : Int) = e.w.base r := by
  cases r <;> rfl

theorem Env.uniElem_eq (e : Env) (base : OptS) (off : Int) :
    e.uniElem base off = [{ lane := 32, idx := 1024, ea := e.w.base base + off }] := by
  simp only [Env.uniElem, e.optS_toNat]

theorem Env.blockElems_eq (e : Env) (o : MemK) : e.blockElems o = (List.range (o.k.toNat + 1)).flatMap (fun r => e.b.on.map (fun i =>
    { lane := i, idx := 32 * r + i, ea := e.w.base o.base + o.off.toInt + ((32 * r + i) * o.sz.bytes : Nat) })) := by
  simp only [Env.blockElems, e.optS_toNat]
  rfl

theorem Env.laneElems_lane {e : Env} {base : OptS} {index : Option (BitVec 8)} {sc : BitVec 2} {off : Int} :
    ∀ x ∈ e.laneElems base index sc off, x.lane ≤ 32 := by
  intro x hx
  obtain ⟨i, hi, rfl⟩ := List.mem_map.1 hx
  exact Nat.le_of_lt (List.mem_range.1 (List.mem_filter.1 hi).1)

theorem Env.uniElem_lane {e : Env} {base : OptS} {off : Int} : ∀ x ∈ e.uniElem base off, x.lane ≤ 32 := by
  intro x hx
  obtain rfl := List.mem_singleton.1 hx
  exact Nat.le_refl 32

/-- Every located element of a scratchpad form names memory (R12, R16). -/
theorem Env.locate_key {e : Env} {size : Nat} {es : List Elem} {l : List Located} (h : e.locate size es = .ok l) :
    ∀ x ∈ l, x.key.isSome = true := by
  unfold Env.locate at h
  dsimp only at h
  split at h
  · cases h
  · cases h
    intro x hx
    obtain ⟨a, -, rfl⟩ := List.mem_map.1 hx
    rfl

/-! ### Issue (R189, R214, R290) -/

/-- The operation that a memory form sends: the elements of pages that read as zero have their results already (R27). -/
def Env.memOp (e : Env) (f : MemForm) (l : List Located) : Op :=
  { e.op f.second with
    pendV := f.pendV, pendS := f.pendS, stage := .running
    results := (l.filter (fun x => x.key.isNone)).flatMap (fun x => e.i.place x.idx 0) }

/-- The warp at the issue of a memory form: a form that writes returns the witness of its writes. -/
def Env.memWarp (e : Env) (f : MemForm) (l : List Located) : Warp :=
  if f.writes then e.w.witOut f.w (writeWit (.part e.k.core e.w.part) (e.op f.second).tick l) else e.w

/-- The requests of a memory form. -/
def Env.memReqs (e : Env) (f : MemForm) (main : Bool) (l : List Located) : List Req :=
  requestsFrom (e.memOp f l) (.part e.k.core e.w.part) f.size main f.kind ((e.memOp f l).id + 1) (groupLocated f.atomic l)

theorem Env.memOp_local {e : Env} {f : MemForm} {l : List Located} (h : ∀ x ∈ l, x.key.isSome = true) :
    e.memOp f l = { e.op f.second with pendV := f.pendV, pendS := f.pendS, stage := .running } := by
  have hnone : l.filter (fun x => x.key.isNone) = [] := by
    rw [List.filter_eq_nil_iff]
    intro x hx
    simp [Option.isSome_iff_ne_none.1 (h x hx)]
  rw [Env.memOp, hnone]
  rfl

/-- No request waits for the domain's clock: the form is a scratchpad form, the clock is in step, or no element lies in another package whose
path is up (R468). -/
def Sys.mayIssue (y : Sys) (main : Bool) (l : List Located) : Prop :=
  main = false ∨ y.inStep = true ∨ ∀ x ∈ l, ∀ k, x.key = some k → keyKind k ≠ 3 ∨ y.peerDown (keyPA k) = true

theorem Sys.mayIssue.not_waiting {y : Sys} {main : Bool} {l : List Located} (h : y.mayIssue main l) :
    (main && !y.inStep && l.any (fun x => x.key.any (fun k => keyKind k == 3 && !y.peerDown (keyPA k)))) = false := by
  rcases h with h | h | h
  · simp [h]
  · simp [h]
  · have hany : l.any (fun x => x.key.any (fun k => keyKind k == 3 && !y.peerDown (keyPA k))) = false := by
      rw [List.any_eq_false]
      intro x hx
      cases hk : x.key with
      | none => simp
      | some k => rcases h x hx k hk with h3 | hd <;> simp [*]
    simp [hany]

section
variable {e : Env} {f : MemForm} (main : Bool) (y : Sys) (hfull : e.flagFull (e.op f.second) = false)
include hfull

theorem Env.issueMem_nil : e.issueMem f main y [] = .ok (e.finish y (f.pendV.foldl Warp.unshape (e.w.witOut f.w 0))) := by
  simp [Env.issueMem, hfull]

/-- An issue that need not wait for the clock sends the form's operation. -/
theorem Env.issueMem_cons {l : List Located} (hwit : e.witF f.w = .ok ()) (hl : l ≠ []) (hclock : y.mayIssue main l) :
    e.issueMem f main y l = .ok (e.finish { y with
        ops := y.ops ++ [e.memOp f l], reqs := y.reqs ++ e.memReqs f main l, nextId := y.nextId + 1 + (e.memReqs f main l).length }
      ((e.memWarp f l).countUp (e.memOp f l).flag)) := by
  have hne : l.isEmpty = false := by simpa using hl
  simp only [Env.issueMem, hfull, hclock.not_waiting, hne, hwit]
  rfl

end

section
variable {i : Instr} {s : State} {e : Env} (hr : Ready i s e)
include hr

theorem Ready.commit_finish (y : Sys) (v : Warp) : commit s (e.finish y v) = e.next y v := by
  obtain ⟨rfl, -⟩ := env?_spec hr.env
  rfl

variable {f : MemForm} {body : Env → Except Hold Upd} (hx : exec i s = issue i s body)
include hx

/-- A word whose meaning issues a memory form with these elements sends its operation. -/
theorem sends_of_issueMem {main : Bool} {y : Sys} {l : List Located} (hb : ∀ u, e.issueMem f main y l = .ok u → body e = .ok u)
    (hfull : e.flagFull (e.op f.second) = false) (hwit : e.witF f.w = .ok ()) (hl : l ≠ []) (hclock : y.mayIssue main l) :
    Sends i s e y (e.memWarp f l) (e.memOp f l) (e.memReqs f main l) := by
  rw [Sends, hx, issue_ok hr (hb _ (Env.issueMem_cons main y hfull hwit hl hclock)), hr.commit_finish]

/-- A word whose meaning issues a memory form with no element sends nothing. -/
theorem exec_of_issueMem_nil {main : Bool} {y : Sys} (hb : body e = e.issueMem f main y [])
    (hfull : e.flagFull (e.op f.second) = false) :
    exec i s = .next (e.next y (f.pendV.foldl Warp.unshape (e.w.witOut f.w 0))) := by
  rw [hx, issue_ok hr (hb.trans (Env.issueMem_nil main y hfull)), hr.commit_finish]

end

/-! ### The scratchpad forms (R289) -/

theorem Env.localForm_located {e : Env} {f : MemForm} {es : List Elem} {l : List Located} (hw : e.checkWit f.w = .ok ())
    (hl : e.locate f.size es = .ok l) : e.localForm f es = e.issueMem f false e.y l := by
  simp only [Env.localForm, hw, hl]

/-- The word means the scratchpad form `f` with the elements `es`. -/
def MeansLocal (i : Instr) (s : State) (e : Env) (f : MemForm) (es : List Elem) : Prop :=
  ∃ body, exec i s = issue i s body ∧ body e = e.localForm f es

end Sys2Proof.Machine

open Sys2Proof Sys2Proof.Machine

/-- Settles O12: each of the eight words means its form (`MeansLocal`), and a form whose elements are located issues them. -/
theorem scratchFormsIssue : Obligations.ScratchFormsIssue := by
  unfold Obligations.ScratchFormsIssue
  intro s e o u m a b base lanes one pair wide load store rmw block forms i f es l hmem hr hw hl hfull hwit
  have hlanes : ∀ r x sc off, lanes r x sc off = e.laneElems r x sc off := fun r x sc off => by
    cases r <;> cases x <;> rfl
  have hats : a.form e = rmw a.w a.aop a.wide (pair (wide a.wide) a.d) [] (e.atomLane a.d a.wide) := by
    simp only [AtV.form, rmw, wide]
    cases a.wide <;> rfl
  have hatsu : b.form e = rmw b.w b.aop b.wide [] [b.d.toNat]
      (fun i => { lane := i, val := e.w.s b.d, cmp := e.w.sn (b.d.toNat + 1) }) := by
    simp only [AtU.form, rmw, wide]
    cases b.wide <;> rfl
  have hmeans : MeansLocal i s e f es := by
    simp only [forms, List.mem_cons, List.not_mem_nil, or_false, Prod.mk.injEq] at hmem
    rcases hmem with ⟨rfl, rfl, rfl⟩ | ⟨rfl, rfl, rfl⟩ | ⟨rfl, rfl, rfl⟩ | ⟨rfl, rfl, rfl⟩ | ⟨rfl, rfl, rfl⟩ | ⟨rfl, rfl, rfl⟩ |
      ⟨rfl, rfl, rfl⟩ | ⟨rfl, rfl, rfl⟩
    · exact ⟨_, rfl, by rw [hlanes]; rfl⟩
    · exact ⟨_, rfl, by rw [hlanes]; rfl⟩
    · exact ⟨_, rfl, by rw [Env.uniElem_eq]; rfl⟩
    · exact ⟨_, rfl, by rw [Env.uniElem_eq]; rfl⟩
    · exact ⟨_, rfl, by rw [Env.blockElems_eq]; rfl⟩
    · exact ⟨_, rfl, by rw [Env.blockElems_eq]; rfl⟩
    · exact ⟨_, rfl, by rw [hlanes, hats]; rfl⟩
    · exact ⟨_, rfl, by rw [Env.uniElem_eq, hatsu]; rfl⟩
  obtain ⟨body, hx, hb⟩ := hmeans
  obtain ⟨rfl, -⟩ := env?_spec hr.env
  rw [Env.localForm_located hw hl] at hb
  refine ⟨fun hnil => ?_, fun hne => ?_⟩
  · subst hnil
    exact exec_of_issueMem_nil hr hx hb hfull
  · have hsends := sends_of_issueMem hr hx (fun _ h => hb.trans h) hfull hwit hne (.inl rfl)
    simp only [Env.memReqs, Env.memOp_local (Env.locate_key hl)] at hsends
    exact hsends

end

section
/-! The translation set of a main-memory form (R30, R35, R36): its misses, what it refuses, and what it faults on. -/

namespace Sys2Proof.Machine

/-! ### Whom a set's outcome names (R36, R446) -/

theorem foldl_or_getLsbD {α : Type} (f : α → LaneMask) (j : Nat) (l : List α) (m : LaneMask) :
    (l.foldl (fun m a => m ||| f a) m).getLsbD j = true ↔ m.getLsbD j = true ∨ ∃ a ∈ l, (f a).getLsbD j = true := by
  induction l generalizing m with
  | nil => simp
  | cons a l ih => simp [ih, or_assoc]

theorem laneBit_getLsbD (n : Nat) {j : Nat} (hj : j < 32) : (laneBit n).getLsbD j = true ↔ n = j ∨ 32 ≤ n := by
  unfold laneBit
  split
  · simp [hj]; omega
  · rw [allLanes, BitVec.getLsbD_allOnes, decide_eq_true_eq]
    omega

/-- The lanes of some touches; a uniform one counts as all of them. -/
theorem touchLanes_getLsbD (l : List (Touch × PageFate)) {j : Nat} (hj : j < 32) :
    (touchLanes l).getLsbD j = true ↔ ∃ p ∈ l, p.1.lane = j ∨ 32 ≤ p.1.lane := by
  rw [show touchLanes l = l.foldl (fun m p => m ||| laneBit p.1.lane) 0 from rfl,
    foldl_or_getLsbD (fun p : Touch × PageFate => laneBit p.1.lane)]
  simp [laneBit_getLsbD _ hj]

/-- Of two touches, the one whose address a trap names. -/
def lowerTouch (engine : Bool) (a q : Touch × PageFate) : Touch × PageFate :=
  if (if engine then q.1.va < a.1.va else q.1.lane < a.1.lane) then q else a

theorem lowerTouch_cases (engine : Bool) (a q : Touch × PageFate) : lowerTouch engine a q = a ∨ lowerTouch engine a q = q := by
  by_cases h : if engine then q.1.va < a.1.va else q.1.lane < a.1.lane
  · exact .inr (if_pos h)
  · exact .inl (if_neg h)

theorem lowerTouch_lane_le (a q : Touch × PageFate) :
    (lowerTouch false a q).1.lane ≤ a.1.lane ∧ (lowerTouch false a q).1.lane ≤ q.1.lane := by
  simp only [lowerTouch, Bool.false_eq_true, if_false]
  split <;> omega

theorem lowerTouch_foldl (engine : Bool) (r : List (Touch × PageFate)) (p : Touch × PageFate) :
    r.foldl (lowerTouch engine) p ∈ p :: r ∧
      (engine = false → ∀ q ∈ p :: r, (r.foldl (lowerTouch engine) p).1.lane ≤ q.1.lane) := by
  induction r generalizing p with
  | nil => simp
  | cons a r ih =>
    obtain ⟨hmem, hle⟩ := ih (lowerTouch engine p a)
    rw [List.foldl_cons]
    refine ⟨?_, fun he q hq => ?_⟩
    · rcases List.mem_cons.1 hmem with h | h
      · rw [h]
        rcases lowerTouch_cases engine p a with h | h <;> simp [h]
      · simp [h]
    · subst he
      have hfirst := hle rfl _ List.mem_cons_self
      obtain ⟨hp, ha⟩ := lowerTouch_lane_le p a
      rcases List.mem_cons.1 hq with rfl | hq
      · exact Nat.le_trans hfirst hp
      · rcases List.mem_cons.1 hq with rfl | hq
        · exact Nat.le_trans hfirst ha
        · exact hle rfl q (List.mem_cons_of_mem _ hq)

/-- A trap names the address of one of its touches: of a lane form's, that of the lowest lane. -/
theorem touchVA_lowest (engine : Bool) {l : List (Touch × PageFate)} (h : l ≠ []) :
    ∃ p ∈ l, touchVA engine l = p.1.va ∧ (engine = false → ∀ q ∈ l, p.1.lane ≤ q.1.lane) := by
  cases l with
  | nil => exact absurd rfl h
  | cons p r =>
    obtain ⟨hmem, hle⟩ := lowerTouch_foldl engine r p
    exact ⟨_, hmem, rfl, hle⟩

/-- The page that an element touches, and how. -/
def Elem.touch (size : Nat) (acc : Access3) (x : Elem) : Touch := { lane := x.lane, va := x.ea.toNat, len := size, acc }

/-- The trap has the lanes of the elements `hit`, a uniform one standing for every lane, and the address of the one in the lowest lane. -/
def Blames (es : List Elem) (z : TrapInfo) (hit : Elem → Prop) : Prop :=
  (∀ j, j < 32 → (z.tlanes.getLsbD j = true ↔ ∃ x ∈ es, (x.lane = j ∨ x.lane = 32) ∧ hit x)) ∧
  (∃ x ∈ es, hit x ∧ z.tval = wrap 64 x.ea ∧ ∀ v ∈ es, hit v → x.lane ≤ v.lane)

theorem wrap_of_nonneg {a : Int} (h : 0 ≤ a) : wrap 64 a = BitVec.ofNat 64 a.toNat := by
  obtain ⟨n, rfl⟩ := Int.eq_ofNat_of_zero_le h
  apply BitVec.eq_of_toNat_eq
  simp only [wrap, BitVec.toNat_ofNat, Int.toNat_natCast]
  omega

/-- A trap that has the lanes and the address of the touches of some elements blames those. -/
theorem blames_of {es : List Elem} {size : Nat} {acc : Access3} {hit : Elem → Prop} {l : List (Touch × PageFate)} {z : TrapInfo}
    (hlane : ∀ x ∈ es, x.lane ≤ 32) (hpos : ∀ x ∈ es, 0 ≤ x.ea)
    (hl : ∀ t, (∃ f, (t, f) ∈ l) ↔ ∃ x ∈ es, hit x ∧ t = x.touch size acc) (hsome : ∃ x ∈ es, hit x)
    (ht : z.tlanes = touchLanes l)
    (hv : z.tval = BitVec.ofNat 64 (touchVA ((es.map (Elem.touch size acc)).all (fun t => t.lane == 32)) l)) : Blames es z hit := by
  constructor
  · intro j hj
    rw [ht, touchLanes_getLsbD l hj]
    constructor
    · rintro ⟨⟨t, f⟩, hp, hlj⟩
      obtain ⟨x, hx, hh, rfl⟩ := (hl t).1 ⟨f, hp⟩
      exact ⟨x, hx, hlj.imp id (fun h => Nat.le_antisymm (hlane x hx) h), hh⟩
    · rintro ⟨x, hx, hlj, hh⟩
      obtain ⟨f, hf⟩ := (hl _).2 ⟨x, hx, hh, rfl⟩
      exact ⟨_, hf, hlj.imp id fun h => Nat.le_of_eq h.symm⟩
  · have hne : l ≠ [] := by
      obtain ⟨x, hx, hh⟩ := hsome
      obtain ⟨f, hf⟩ := (hl _).2 ⟨x, hx, hh, rfl⟩
      exact List.ne_nil_of_mem hf
    obtain ⟨⟨t, f⟩, hp, hva, hlow⟩ := touchVA_lowest ((es.map (Elem.touch size acc)).all (fun t => t.lane == 32)) hne
    obtain ⟨x, hx, hh, rfl⟩ := (hl t).1 ⟨f, hp⟩
    refine ⟨x, hx, hh, by rw [hv, hva, wrap_of_nonneg (hpos x hx)]; rfl, fun v hvm hhv => ?_⟩
    cases he : (es.map (Elem.touch size acc)).all (fun t => t.lane == 32) with
    | true =>
      have hall : ∀ y ∈ es, y.lane = 32 := by simpa [Elem.touch] using he
      exact Nat.le_of_eq ((hall x hx).trans (hall v hvm).symm)
    | false =>
      obtain ⟨g, hg⟩ := (hl _).2 ⟨v, hvm, hhv, rfl⟩
      exact hlow he _ hg

/-! ### The outcome of a set whose fates are known (R36) -/

def PageFate.refusedFor (r : Reason) : PageFate → Bool
  | .refuse q _ _ => q == r
  | _ => false

def PageFate.faulting : PageFate → Bool
  | .fault _ _ _ => true
  | _ => false

theorem PageFate.refusedFor_iff {r : Reason} {f : PageFate} : f.refusedFor r = true ↔ ∃ key wr, f = .refuse r key wr := by
  cases f <;> simp [PageFate.refusedFor]

/-- The touches that are refused for a reason. -/
def refusals (r : Reason) (l : List (Touch × PageFate)) : List (Touch × PageFate) := l.filter (fun p => p.2.refusedFor r)

/-- The touches that fault replayably. -/
def faultings (l : List (Touch × PageFate)) : List (Touch × PageFate) := l.filter (fun p => p.2.faulting)

/-- A set is refused for the first reason, in the order of R36, for which one of its touches is. -/
theorem setFate_refuse {engine : Bool} {l : List (Touch × PageFate)} {r : Reason}
    (h : reasonOrder.find? (fun r => !(refusals r l).isEmpty) = some r) :
    ∃ keys, setFate engine l = .refuse r (touchLanes (refusals r l)) (touchVA engine (refusals r l)) keys := by
  unfold setFate
  dsimp only
  split
  · next q hq =>
    have hqr : some q = some r := hq.symm.trans h
    cases hqr
    exact ⟨_, rfl⟩
  · next hq =>
    have hqr : none = some r := hq.symm.trans h
    cases hqr

/-- What a set's outcome says of a touch that faults: its page and how it is used, and what the walk met. -/
def faultPage (p : Touch × PageFate) : Option (Nat × Access3 × Nat × Bool × Nat) :=
  match p.2 with
  | .fault lv np sp => some (p.1.page, p.1.acc, lv, np, sp)
  | _ => none

theorem filterMap_eq_replicate {α β : Type} {f : α → Option β} {b : β} {l : List α} (h : ∀ a ∈ l, f a = some b) :
    l.filterMap f = List.replicate l.length b := by
  induction l with
  | nil => rfl
  | cons a l ih =>
    rw [List.filterMap_cons_some (h a List.mem_cons_self), ih fun c hc => h c (List.mem_cons_of_mem _ hc)]
    rfl

theorem lowestPage_replicate (k : Nat) (p : Nat × Access3 × Nat × Bool × Nat) : lowestPage (List.replicate (k + 1) p) = p.1 := by
  have hmin : ∀ m, (List.replicate m p).foldl (fun m p => Nat.min m p.1) p.1 = p.1 := by
    intro m
    induction m with
    | zero => rfl
    | succ m ih => simpa [List.replicate_succ] using ih
  exact hmin (k + 1)

/-- The reasons of PROTECTION that come before the firewall's, in their order (R36). -/
theorem reasonOrder_first {l : List (Touch × PageFate)} {n : Nat} {r : Reason} (hn : ([Reason.malformed, .write, .fetch])[n]? = some r)
    (hsome : refusals r l ≠ []) (hbefore : ∀ m q, m < n → ([Reason.malformed, .write, .fetch])[m]? = some q → refusals q l = []) :
    reasonOrder.find? (fun r => !(refusals r l).isEmpty) = some r ∧ r ≠ .firewall := by
  have hne : (refusals r l).isEmpty = false := by simpa using hsome
  match n, hn with
  | 0, rfl => simp [reasonOrder, hne]
  | 1, rfl => simp [reasonOrder, hne, hbefore 0 _ (by omega) rfl]
  | 2, rfl => simp [reasonOrder, hne, hbefore 0 _ (by omega) rfl, hbefore 1 _ (by omega) rfl]

/-- A set of which one page faults replayably, and every other is fine, faults on that page. -/
theorem setFate_fault {engine : Bool} {l : List (Touch × PageFate)} {n level sparse : Nat} {np : Bool} {acc : Access3}
    (h : ∀ p ∈ l, p.2 = .fine ∨ p.1.page = n ∧ p.1.acc = acc ∧ p.2 = .fault level np sparse) (hsome : faultings l ≠ []) :
    ∃ k, setFate engine l = .fault (List.replicate (k + 1) (n, acc, level, np, sparse)) (touchLanes (faultings l))
      (touchVA engine (faultings l)) := by
  have hfind : reasonOrder.find? (fun r => !(refusals r l).isEmpty) = none := by
    rw [List.find?_eq_none]
    intro r _
    have : refusals r l = [] := by
      rw [refusals, List.filter_eq_nil_iff]
      intro p hp
      rcases h p hp with hf | ⟨-, -, hf⟩ <;> simp [hf, PageFate.refusedFor]
    simp [this]
  have hpages : ∀ q ∈ faultings l, q.1.page = n ∧ q.1.acc = acc ∧ q.2 = .fault level np sparse := by
    intro q hq
    obtain ⟨hql, hqf⟩ := List.mem_filter.1 hq
    rcases h q hql with hf | hf
    · simp [hf, PageFate.faulting] at hqf
    · exact hf
  unfold setFate
  dsimp only
  split
  · next q hq =>
    have hqr : some q = none := hq.symm.trans hfind
    cases hqr
  · split
    · next t r rest hq =>
      have hmem := (List.mem_filter.1 (hq ▸ List.mem_cons_self : (t, PageFate.broken r) ∈ List.filter _ l)).1
      rcases h _ hmem with hf | ⟨-, -, hf⟩ <;> cases hf
    · split
      · next hq => exact absurd hq hsome
      · obtain ⟨k, hk⟩ := Nat.exists_eq_succ_of_ne_zero (mt List.length_eq_zero_iff.1 hsome)
        have hrep : (faultings l).filterMap faultPage = List.replicate (k + 1) (n, acc, level, np, sparse) := by
          rw [show k + 1 = (faultings l).length from hk.symm]
          refine filterMap_eq_replicate fun q hq => ?_
          obtain ⟨hp, ha, hf⟩ := hpages q hq
          simp only [faultPage, hp, ha, hf]
        have hlow : (faultings l).filter (fun p => p.1.page == n) = faultings l :=
          List.filter_eq_self.2 fun q hq => by simp [(hpages q hq).1]
        have hall : (faultings l).filter (fun p => p.1.page == lowestPage ((faultings l).filterMap faultPage)) = faultings l := by
          rw [hrep, lowestPage_replicate, hlow]
        exact ⟨k, congr (congr (congrArg SetFate.fault hrep) (congrArg touchLanes hall)) (congrArg (touchVA engine) hall)⟩

/-! ### The set of a main-memory form (R30, R35, R310) -/

/-- What the issuing word's set knows of a page. -/
def Env.knows (e : Env) (n : Nat) : Option Walk := e.y.known e.asker (some e.k.core) (dieOf e.k.core) e.k.ctx n

/-- What becomes of an element, once its page is known. -/
def Env.fateOf (e : Env) (size : Nat) (acc : Access3) (x : Elem) : Option PageFate :=
  (e.knows (x.ea.toNat / 65536)).map (e.y.fate .core e.k.ctx (x.touch size acc))

/-- The fates of a form's touches. -/
def Env.fates (e : Env) (size : Nat) (acc : Access3) (es : List Elem) : List (Touch × PageFate) :=
  e.y.fates e.asker .core (some e.k.core) (dieOf e.k.core) e.k.ctx (es.map (Elem.touch size acc))

theorem Env.mem_fates {e : Env} {size : Nat} {acc : Access3} {es : List Elem}
    (hk : ∀ x ∈ es, e.knows (x.ea.toNat / 65536) ≠ none) {p : Touch × PageFate} :
    p ∈ e.fates size acc es ↔ ∃ x ∈ es, ∃ f, e.fateOf size acc x = some f ∧ p = (x.touch size acc, f) := by
  have hfate : ∀ x ∈ es, ∃ f, e.fateOf size acc x = some f ∧ (match e.knows (x.ea.toNat / 65536) with
      | some w => e.y.fate .core e.k.ctx (x.touch size acc) w
      | none => .fault 0 true 0) = f := by
    intro x hx
    cases h : e.knows (x.ea.toNat / 65536) with
    | none => exact absurd h (hk x hx)
    | some w => exact ⟨_, by rw [Env.fateOf, h]; rfl, rfl⟩
  simp only [Env.fates, Sys.fates, List.map_map, List.mem_map]
  constructor
  · rintro ⟨x, hx, rfl⟩
    obtain ⟨f, hf, hm⟩ := hfate x hx
    exact ⟨x, hx, f, hf, Prod.ext rfl hm⟩
  · rintro ⟨x, hx, f, hf, rfl⟩
    obtain ⟨g, hg, hm⟩ := hfate x hx
    obtain rfl : f = g := Option.some.inj (hf.symm.trans hg)
    exact ⟨x, hx, Prod.ext rfl hm⟩

theorem Env.unknown_nil {e : Env} {size : Nat} {acc : Access3} {es : List Elem}
    (hk : ∀ x ∈ es, e.knows (x.ea.toNat / 65536) ≠ none) :
    e.y.unknown e.asker (some e.k.core) (dieOf e.k.core) e.k.ctx (es.map (Elem.touch size acc)) = [] := by
  rw [Sys.unknown, List.filter_eq_nil_iff]
  intro n hn
  obtain ⟨t, ht, rfl⟩ := List.mem_map.1 (List.mem_eraseDups.1 hn)
  obtain ⟨x, hx, rfl⟩ := List.mem_map.1 ht
  have := hk x hx
  simpa [Elem.touch, Touch.page, Env.knows] using this

/-- The elements that a set refuses for a reason. -/
def Env.refusedFor (e : Env) (size : Nat) (acc : Access3) (r : Reason) (x : Elem) : Prop :=
  ∃ key wr, e.fateOf size acc x = some (.refuse r key wr)

theorem Env.mem_refusals {e : Env} {size : Nat} {acc : Access3} {es : List Elem} {r : Reason}
    (hk : ∀ x ∈ es, e.knows (x.ea.toNat / 65536) ≠ none) (t : Touch) :
    (∃ f, (t, f) ∈ refusals r (e.fates size acc es)) ↔ ∃ x ∈ es, e.refusedFor size acc r x ∧ t = x.touch size acc := by
  simp only [refusals, List.mem_filter, Env.mem_fates hk, PageFate.refusedFor_iff, Prod.mk.injEq]
  constructor
  · rintro ⟨_, ⟨x, hx, f, hf, rfl, rfl⟩, key, wr, rfl⟩
    exact ⟨x, hx, ⟨key, wr, hf⟩, rfl⟩
  · rintro ⟨x, hx, ⟨key, wr, hf⟩, rfl⟩
    exact ⟨_, ⟨x, hx, _, hf, rfl, rfl⟩, key, wr, rfl⟩

theorem Env.refusals_nil_iff {e : Env} {size : Nat} {acc : Access3} {es : List Elem} {r : Reason}
    (hk : ∀ x ∈ es, e.knows (x.ea.toNat / 65536) ≠ none) :
    refusals r (e.fates size acc es) = [] ↔ ∀ x ∈ es, ¬ e.refusedFor size acc r x := by
  constructor
  · intro h x hx hr
    obtain ⟨f, hf⟩ := (Env.mem_refusals hk _).2 ⟨x, hx, hr, rfl⟩
    rw [h] at hf
    cases hf
  · intro h
    refine List.eq_nil_iff_forall_not_mem.2 fun p hp => ?_
    obtain ⟨x, hx, hr, -⟩ := (Env.mem_refusals hk p.1).1 ⟨p.2, hp⟩
    exact h x hx hr

/-- The elements of a page that fault in one way. -/
def Env.faultsOn (e : Env) (size : Nat) (acc : Access3) (n level sparse : Nat) (np : Bool) (x : Elem) : Prop :=
  x.ea.toNat / 65536 = n ∧ e.fateOf size acc x = some (.fault level np sparse)

theorem Env.mem_faultings {e : Env} {size : Nat} {acc : Access3} {es : List Elem} {n level sparse : Nat} {np : Bool}
    (hk : ∀ x ∈ es, e.knows (x.ea.toNat / 65536) ≠ none)
    (h : ∀ x ∈ es, e.fateOf size acc x = some .fine ∨ e.faultsOn size acc n level sparse np x) (t : Touch) :
    (∃ f, (t, f) ∈ faultings (e.fates size acc es)) ↔ ∃ x ∈ es, e.faultsOn size acc n level sparse np x ∧ t = x.touch size acc := by
  simp only [faultings, List.mem_filter, Env.mem_fates hk, Prod.mk.injEq]
  constructor
  · rintro ⟨_, ⟨x, hx, f, hf, rfl, rfl⟩, hfault⟩
    rcases h x hx with hfine | hon
    · rw [Option.some.inj (hf.symm.trans hfine)] at hfault
      cases hfault
    · exact ⟨x, hx, hon, rfl⟩
  · rintro ⟨x, hx, hon, rfl⟩
    exact ⟨_, ⟨x, hx, _, hon.2, rfl, rfl⟩, rfl⟩

section
variable {e : Env} {size : Nat} {acc : Access3} {es : List Elem} (hset : e.b.set = [])
include hset

theorem Env.keepsSet_empty (l : List Touch) : e.keepsSet l = false := by simp [Env.keepsSet, hset]

/-- A page of which nothing is known enters the miss table, and the sub-warp waits for the set (R30, R35). -/
theorem Env.translate_misses (h : ∃ x ∈ es, e.knows (x.ea.toNat / 65536) = none) :
    let pages := (es.map (fun x => x.ea.toNat / 65536)).eraseDups
    e.translate (es.map (Elem.touch size acc)) = .error (.change (.of
      (((pages.filter (fun n => (e.knows n).isNone)).foldl (fun y n => y.miss e.asker (dieOf e.k.core) e.k.ctx n) e.y).setWarp
        (e.w.setSub e.o (e.b.missing pages))))) := by
  intro pages
  have hpages : ((es.map (Elem.touch size acc)).map (·.page)).eraseDups = pages := by
    rw [List.map_map]
    rfl
  have hmiss : e.y.unknown e.asker (some e.k.core) (dieOf e.k.core) e.k.ctx (es.map (Elem.touch size acc)) =
      pages.filter (fun n => (e.knows n).isNone) := by
    rw [Sys.unknown, hpages]
    rfl
  have hne : pages.filter (fun n => (e.knows n).isNone) ≠ [] := by
    obtain ⟨x, hx, hk⟩ := h
    refine List.ne_nil_of_mem (a := x.ea.toNat / 65536) (List.mem_filter.2 ⟨?_, by rw [hk]; rfl⟩)
    exact List.mem_eraseDups.2 (List.mem_map_of_mem hx)
  unfold Env.translate Env.translateWith
  dsimp only
  rw [if_neg (by simp [Env.keepsSet_empty hset]), hmiss, hpages]
  split
  · next hq => exact absurd hq hne
  · rfl

variable (hk : ∀ x ∈ es, e.knows (x.ea.toNat / 65536) ≠ none)
include hk

/-- A refused set takes PROTECTION, but for a refusal of the firewall (R36). -/
theorem Env.translate_refused {r : Reason} {lanes : LaneMask} {va : Nat} {keys : List (Nat × Bool)} (hr : r ≠ .firewall)
    (h : setFate ((es.map (Elem.touch size acc)).all (fun t => t.lane == 32)) (e.fates size acc es) = .refuse r lanes va keys) :
    e.translate (es.map (Elem.touch size acc)) = .error (.change (takeTrap { e.s with sys := e.y.forget e.asker } e.w e.o e.b
      { trapOf .protection (BitVec.ofNat 64 va) with tlanes := lanes, reason := r })) := by
  unfold Env.translate Env.translateWith
  dsimp only
  rw [if_neg (by simp [Env.keepsSet_empty hset]), Env.unknown_nil hk]
  dsimp only
  rw [show setFate _ (e.y.fates e.asker .core (some e.k.core) (dieOf e.k.core) e.k.ctx (es.map (Elem.touch size acc))) = _ from h]
  exact if_neg hr

/-- A set that faults replayably parks the sub-warp, or raises PAGE (R36, R42). -/
theorem Env.translate_faulted {ps : List (Nat × Access3 × Nat × Bool × Nat)} {lanes : LaneMask} {va : Nat}
    (h : setFate ((es.map (Elem.touch size acc)).all (fun t => t.lane == 32)) (e.fates size acc es) = .fault ps lanes va) :
    e.translate (es.map (Elem.touch size acc)) = .error (.change
      (e.faulted (fun s t => takeTrap s e.w e.o e.b t) { e.s with sys := e.y.forget e.asker } ps lanes va e.b.pc)) := by
  unfold Env.translate Env.translateWith
  dsimp only
  rw [if_neg (by simp [Env.keepsSet_empty hset]), Env.unknown_nil hk]
  dsimp only
  rw [show setFate _ (e.y.fates e.asker .core (some e.k.core) (dieOf e.k.core) e.k.ctx (es.map (Elem.touch size acc))) = _ from h]

end

/-! ### The main-memory forms (R310) -/

/-- Canonical, aligned addresses pass the checks of R289 and R310. -/
theorem mainTrap_none {size : Nat} {es : List Elem} (h : ∀ x ∈ es, 0 ≤ x.ea ∧ x.ea < 2 ^ 56 ∧ x.ea % (size : Int) = 0) :
    mainTrap size es = none := by
  have hcanon : es.filter (fun x => noncanon x.ea) = [] := by
    rw [List.filter_eq_nil_iff]
    intro x hx
    obtain ⟨h0, h1, -⟩ := h x hx
    simp only [noncanon, Bool.or_eq_true, decide_eq_true_eq]
    omega
  have halign : es.filter (fun x => x.ea % (size : Int) != 0) = [] := by
    rw [List.filter_eq_nil_iff]
    intro x hx
    simp [(h x hx).2.2]
  simp only [mainTrap, hcanon, halign]

theorem Env.locateMain_ne_nil {e : Env} {size : Nat} {acc : Access3} {es : List Elem} {y : Sys} {l : List Located} (hne : es ≠ [])
    (h : e.locateMain size acc es = .ok (y, l)) : l ≠ [] := by
  unfold Env.locateMain at h
  split at h
  · cases h
  · split at h
    · cases h
    · cases h
      simpa using hne

/-- The outcome of a form's set in which one page faults in one way, and every other element is fine. -/
theorem Env.setFate_fates {e : Env} {size : Nat} {acc : Access3} {es : List Elem} {n level sparse : Nat} {np engine : Bool}
    (hk : ∀ x ∈ es, e.knows (x.ea.toNat / 65536) ≠ none)
    (h : ∀ x ∈ es, e.fateOf size acc x = some .fine ∨ e.faultsOn size acc n level sparse np x)
    (hsome : ∃ x ∈ es, e.faultsOn size acc n level sparse np x) :
    ∃ k, setFate engine (e.fates size acc es) = .fault (List.replicate (k + 1) (n, acc, level, np, sparse))
      (touchLanes (faultings (e.fates size acc es))) (touchVA engine (faultings (e.fates size acc es))) := by
  refine setFate_fault (fun p hp => ?_) ?_
  · obtain ⟨x, hx, f, hf, rfl⟩ := (Env.mem_fates hk).1 hp
    rcases h x hx with hfine | ⟨hpage, hfault⟩
    · exact .inl (Option.some.inj (hf.symm.trans hfine))
    · exact .inr ⟨hpage, rfl, Option.some.inj (hf.symm.trans hfault)⟩
  · obtain ⟨x, hx, hon⟩ := hsome
    obtain ⟨f, hf⟩ := (Env.mem_faultings hk h _).2 ⟨x, hx, hon, rfl⟩
    exact List.ne_nil_of_mem hf

theorem Env.knows_of_fateOf {e : Env} {size : Nat} {acc : Access3} {x : Elem} {f : PageFate} (h : e.fateOf size acc x = some f) :
    e.knows (x.ea.toNat / 65536) ≠ none := by
  intro hk
  rw [Env.fateOf, hk] at h
  cases h

section
variable {e : Env} {f : MemForm} {acc : Access3} {es : List Elem} (hw : e.checkWit f.w = .ok ())
include hw

theorem Env.mainForm_nil : e.mainForm f acc [] = e.issueMem f true e.y [] := by
  simp only [Env.mainForm, hw]
  rfl

variable (hne : es ≠ [])
include hne

theorem Env.mainForm_located {y : Sys} {l : List Located} {u : Upd} (hl : e.locateMain f.size acc es = .ok (y, l))
    (hu : e.issueMem f true y l = .ok u) : e.mainForm f acc es = .ok u := by
  have hemp : es.isEmpty = false := by simpa using hne
  simp only [Env.mainForm, hw, hemp, hl, hu]
  rfl

/-- A form whose set comes to another change makes that change. -/
theorem Env.mainForm_change {u : Upd} (hc : ∀ x ∈ es, 0 ≤ x.ea ∧ x.ea < 2 ^ 56 ∧ x.ea % (f.size : Int) = 0)
    (ht : e.translate (es.map (Elem.touch f.size acc)) = .error (.change u)) : e.mainForm f acc es = .error (.change u) := by
  have hemp : es.isEmpty = false := by simpa using hne
  have hloc : e.locateMain f.size acc es = .error (.change u) := by
    unfold Env.locateMain
    rw [mainTrap_none hc]
    dsimp only
    rw [show e.translate (es.map (fun x => { lane := x.lane, va := x.ea.toNat, len := f.size, acc })) = _ from ht]
  simp only [Env.mainForm, hw, hemp, hloc]
  rfl

end

/-- The word means the main-memory form `f` with the elements `es`. -/
def MeansMain (i : Instr) (s : State) (e : Env) (f : MemForm) (acc : Access3) (es : List Elem) : Prop :=
  ∃ body, exec i s = issue i s body ∧ body e = e.mainForm f acc es

/-- A word whose set comes to another change makes that change. -/
theorem MeansMain.exec_change {i : Instr} {s : State} {e : Env} {f : MemForm} {acc : Access3} {es : List Elem} {u : Upd}
    (h : MeansMain i s e f acc es) (hr : Ready i s e) (hw : e.checkWit f.w = .ok ()) (hne : es ≠ [])
    (hc : ∀ x ∈ es, 0 ≤ x.ea ∧ x.ea < 2 ^ 56 ∧ x.ea % (f.size : Int) = 0)
    (ht : e.translate (es.map (Elem.touch f.size acc)) = .error (.change u)) : exec i s = .next (commit s u) := by
  obtain ⟨body, hx, hb⟩ := h
  rw [hx, issue_change hr (hb.trans (Env.mainForm_change hw hne hc ht))]

end Sys2Proof.Machine
end

section
/-! Replayable faults (R36, R41, R42, R44): the ticket that a page arms, and where its record goes. -/

namespace Sys2Proof.Machine

/-! ### Bins (R174, R175) -/

theorem Sys.bins?_setBins {y : Sys} {ctx die : Nat} {b v : Bins} (h : y.bins? ctx die = some b) (hc : v.ctx = ctx) (hd : v.die = die) :
    (y.setBins v).bins? ctx die = some v := by
  have hkeep : ∀ u : Bins, ((if u.ctx == v.ctx && u.die == v.die then v else u).ctx == ctx &&
      (if u.ctx == v.ctx && u.die == v.die then v else u).die == die) = (u.ctx == ctx && u.die == die) := by
    intro u
    split
    · next hu =>
      rw [hc, hd] at hu
      simp [hc, hd, hu]
    · rfl
  have hb : (b.ctx == ctx && b.die == die) = true := by simpa using List.find?_some h
  simp only [Sys.bins?, Sys.setBins, List.find?_map, Function.comp_def, hkeep]
  rw [show y.bins.find? (fun u => u.ctx == ctx && u.die == die) = some b from h, Option.map_some,
    if_pos (by rw [hc, hd]; exact hb)]

theorem Sys.bin?_setBin {y : Sys} {ctx die n : Nat} {x : Bin} (f : Bin → Bin) (h : y.bin? ctx die n = some x) :
    (y.setBin ctx die n f).bin? ctx die n = some ((f x).noted y.time.cycle) := by
  obtain ⟨b, hb, hx⟩ := Option.bind_eq_some_iff.1 h
  obtain ⟨hctx, hdie⟩ : b.ctx = ctx ∧ b.die = die := by simpa using List.find?_some hb
  obtain ⟨hn, -⟩ := Vector.getElem?_eq_some_iff.1 hx
  simp only [Sys.setBin, hb, hx]
  rw [Sys.bin?, Sys.bins?_setBins (v := { b with bins := b.bins.setIfInBounds n ((f x).noted y.time.cycle) }) hb hctx hdie]
  simp [hn]

/-- A post changes a bin, or the posts that wait for room, and marks an event of its context. -/
theorem Sys.post_rest (y : Sys) (ctx die n : Nat) (record : List Word) (addr : Option Word) (op : Option Nat) :
    (y.post ctx die n record addr op).warps = y.warps ∧
      ((y.post ctx die n record addr op).context ctx).tickets = (y.context ctx).tickets := by
  unfold Sys.post
  split
  · split
    · have hbin : ∀ f, (y.setBin ctx die n f).warps = y.warps ∧ (y.setBin ctx die n f).contexts = y.contexts := fun f => by
        unfold Sys.setBin
        split
        · split <;> exact ⟨rfl, rfl⟩
        · exact ⟨rfl, rfl⟩
      refine ⟨(hbin _).1, ?_⟩
      rw [Sys.mark, Sys.setContext_context]
      exact congrArg (fun t => (Table.getD t ctx Context.reset).tickets) (hbin _).2
    · exact ⟨rfl, rfl⟩
  · exact ⟨rfl, rfl⟩

/-- The record waits: its bin has no room, or others wait for it. -/
def Sys.postWaits (y : Sys) (ctx die n : Nat) (x : Bin) : Prop :=
  x.room = false ∨ y.posts.any (fun q => q.ctx == ctx && q.die == die && q.bin == n) = true

section
variable {y : Sys} {ctx die n : Nat} {x : Bin} (record : List Word) (addr : Option Word) (op : Option Nat)
  (h : y.bin? ctx die n = some x)
include h

theorem Sys.post_accepts (hw : ¬ y.postWaits ctx die n x) :
    (y.post ctx die n record addr op).bin? ctx die n = some ((x.accept record addr y.time.now).noted y.time.cycle) ∧
      (y.post ctx die n record addr op).posts = y.posts := by
  obtain ⟨hroom, hposts⟩ := not_or.1 hw
  have hgo : (x.room && !y.posts.any (fun p => p.ctx == ctx && p.die == die && p.bin == n)) = true := by
    rw [Bool.not_eq_false] at hroom
    rw [Bool.not_eq_true] at hposts
    simp only [hroom, hposts, Bool.not_false, Bool.and_self]
  simp only [Sys.post, h]
  rw [if_pos hgo]
  refine ⟨Sys.bin?_setBin (fun v => v.accept record addr y.time.now) h, ?_⟩
  rw [Sys.mark_posts]
  unfold Sys.setBin
  split
  · split <;> rfl
  · rfl

theorem Sys.post_waits (hw : y.postWaits ctx die n x) :
    (y.post ctx die n record addr op).posts = y.posts ++ [{ ctx, die, bin := n, record, addr, op }] := by
  have hstop : ¬ (x.room && !y.posts.any (fun p => p.ctx == ctx && p.die == die && p.bin == n)) = true := by
    rcases hw with hw | hw
    · simp [hw]
    · rw [hw]
      simp
  simp only [Sys.post, h]
  rw [if_neg hstop]

end

/-! ### Tickets (R41, R44) -/

/-- The context with one more ticket armed. -/
def Context.arming (c : Context) (no vpage : Nat) : Context := { c with tickets := c.tickets ++ [{ no, vpage }] }

/-- The resume record that an armed ticket holds. -/
def resumeBytes (ctx no : Nat) : List Byte := wordBytes ((List.range 8).map (Config.resumeWord ctx no))

theorem wordBytes_length (l : List Word) : (wordBytes l).length = 8 * l.length := by
  induction l with
  | nil => rfl
  | cons w l ih =>
    have hword : (leBytes 8 w.toNat).length = 8 := by rw [leBytes, List.length_map, List.length_range]
    rw [wordBytes, List.flatMap_cons, List.length_append, hword, List.length_cons]
    rw [wordBytes] at ih
    omega

theorem resumeBytes_length (ctx no : Nat) : (resumeBytes ctx no).length = 64 := by
  rw [resumeBytes, wordBytes_length, List.length_map, List.length_range]

/-- The state with one more ticket armed, before its words are written. -/
def State.arming (s : State) (ctx no vpage : Nat) : State :=
  { s with sys := s.sys.setContext ctx ((s.sys.context ctx).arming no vpage) }

section
variable {s : State} {ctx no : Nat} (vpage : Nat)

theorem armTicket_eq : armTicket s ctx vpage no = Upd.andThen (s.arming ctx no vpage)
    (commandPut 0 (mainKey 0 (s.sys.ticketPA ctx no)) (leBytes 8 0x8000000000000001) (s.arming ctx no vpage))
    (commandPut 0 (mainKey 0 (s.sys.ticketPA ctx no) + 64) (resumeBytes ctx no)) := rfl

/-- Arming changes the context's tickets, and what two writes of the control die change. -/
theorem armTicket_written : (s.arming ctx no vpage).sys.Written (armTicket s ctx vpage no).sys := by
  rw [armTicket_eq]
  exact (Sys.Written.commandPut 0 _ _ (s.arming ctx no vpage)).trans (Sys.Written.commandPut 0 _ _ (commit _ _))

/-- Where the ticket's words can be written, arming stores its word 0 and its resume record. -/
theorem armTicket_stores (h0 : s.sys.accessFails (mainKey 0 (s.sys.ticketPA ctx no)) 8 false = none)
    (h8 : s.sys.accessFails (mainKey 0 (s.sys.ticketPA ctx no) + 64) 64 false = none) :
    (armTicket s ctx vpage no).stores = [.bytes (mainKey 0 (s.sys.ticketPA ctx no)) (leBytes 8 0x8000000000000001),
      .bytes (mainKey 0 (s.sys.ticketPA ctx no) + 64) (resumeBytes ctx no)] := by
  have hkeep := (Sys.Written.commandPut 0 (mainKey 0 (s.sys.ticketPA ctx no)) (leBytes 8 0x8000000000000001)
    (s.arming ctx no vpage)).accessFails (mainKey 0 (s.sys.ticketPA ctx no) + 64) 64
  rw [armTicket_eq, Upd.andThen_stores, commandPut_stores (s := s.arming ctx no vpage) 0 _ h0,
    commandPut_stores (s := commit _ _) 0 _ (hkeep.trans h8)]
  rfl

end

/-- The record of a page whose ticket has been armed goes to the context's bin or ring. -/
def reportFault (ctx die : Nat) (record : Sys → List Word) (t : State) : Upd :=
  match t.sys.faultDest ctx die with
  | .bin b => .of (t.sys.post ctx die b (record t.sys) none none)
  | .ring => .of { t.sys with heldFaults := t.sys.heldFaults ++ [{ ctx, die, record := record t.sys }] }
  | .none => .of t.sys

theorem reportFault_bin {ctx die b : Nat} (record : Sys → List Word) {t : State} (h : t.sys.faultDest ctx die = .bin b) :
    reportFault ctx die record t = .of (t.sys.post ctx die b (record t.sys) none none) := by
  rw [reportFault, h]

theorem reportFault_ring {ctx die : Nat} (record : Sys → List Word) {t : State} (h : t.sys.faultDest ctx die = .ring) :
    reportFault ctx die record t = .of { t.sys with heldFaults := t.sys.heldFaults ++ [{ ctx, die, record := record t.sys }] } := by
  rw [reportFault, h]

theorem reportFault_stores (ctx die : Nat) (record : Sys → List Word) (t : State) : (reportFault ctx die record t).stores = [] := by
  unfold reportFault
  split <;> rfl

theorem reportFault_rest (ctx die : Nat) (record : Sys → List Word) (t : State) :
    (reportFault ctx die record t).sys.warps = t.sys.warps ∧
      ((reportFault ctx die record t).sys.context ctx).tickets = (t.sys.context ctx).tickets := by
  unfold reportFault
  split
  · exact Sys.post_rest ..
  · exact ⟨rfl, rfl⟩
  · exact ⟨rfl, rfl⟩

/-! ### The records of a set's faults (R36, R42, R44) -/

theorem Upd.each_idle {α : Type} {s : State} {f : α → State → Upd} {l : List α} (h : ∀ x ∈ l, f x s = .of s.sys) :
    Upd.each s f l = .of s.sys := by
  induction l with
  | nil => rfl
  | cons x l ih =>
    have hl := ih fun z hz => h z (List.mem_cons_of_mem _ hz)
    rw [Upd.each_cons, h x List.mem_cons_self]
    exact hl

/-- Where the later ones change nothing, the first makes the change. -/
theorem Upd.each_first {α : Type} {s : State} {f : α → State → Upd} {x : α} {l : List α} {u : Upd} (hu : f x s = u)
    (h : ∀ z ∈ l, f z (commit s u) = .of u.sys) : Upd.each s f (x :: l) = u := by
  have hl : Upd.each (commit s u) f l = .of u.sys := Upd.each_idle (s := commit s u) h
  rw [Upd.each_cons, hu, hl]
  simp [Upd.of]

/-- Faults on pages whose tickets are armed post nothing. -/
theorem postFaults_armed {s : State} {ctx die : Nat} (r : Requester) {ps : List (Nat × Access3 × Nat × Bool × Nat)}
    (h : ∀ p ∈ ps, (s.sys.armed? ctx p.1).isSome = true) : postFaults s ctx die r ps = .of s.sys := by
  refine Upd.each_idle fun p hp => ?_
  obtain ⟨t, ht⟩ := Option.isSome_iff_exists.1 (h p hp)
  dsimp only
  rw [ht]

section
variable {s : State} {ctx die no : Nat} {r : Requester} {n level sparse : Nat} {acc : Access3} {np : Bool}

/-- What a faulting page posts when its ticket is not armed: it arms the ticket `no`, and its record is reported. -/
def postOne (s : State) (ctx die no : Nat) (r : Requester) (n : Nat) (acc : Access3) (level : Nat) (np : Bool) (sparse : Nat) : Upd :=
  Upd.andThen s (armTicket s ctx n no) (reportFault ctx die (fun y => faultRecord y ctx n level np sparse acc.code no r))

theorem postOne_tickets : ((postOne s ctx die no r n acc level np sparse).sys.context ctx).tickets =
    (s.sys.context ctx).tickets ++ [{ no, vpage := n }] := by
  rw [postOne, Upd.andThen_sys, (reportFault_rest ..).2]
  exact (congrArg Context.tickets ((armTicket_written n).context ctx)).trans (congrArg Context.tickets (Sys.setContext_context ..))

theorem postOne_warps : (postOne s ctx die no r n acc level np sparse).sys.warps = s.sys.warps := by
  rw [postOne, Upd.andThen_sys, (reportFault_rest ..).1]
  exact (armTicket_written n).keeps Sys.warps fun _ _ _ _ _ _ => rfl

/-- The faults of one page arm one ticket, and report one record (R36, R44). -/
theorem postFaults_page (k : Nat) (ha : s.sys.armed? ctx n = none) (hf : s.sys.freeTicket? ctx = some no)
    (ho : s.sys.opens ctx (mainKey 0 (s.sys.ticketPA ctx no)) 128 true = true) :
    postFaults s ctx die r (List.replicate (k + 1) (n, acc, level, np, sparse)) = postOne s ctx die no r n acc level np sparse := by
  have harmed : ((commit s (postOne s ctx die no r n acc level np sparse)).sys.armed? ctx n).isSome = true := by
    simp [commit, Sys.armed?, postOne_tickets]
  refine Upd.each_first ?_ fun p hp => ?_
  · dsimp only
    rw [ha, hf]
    exact if_neg (by simp [ho])
  · obtain ⟨t, ht⟩ := Option.isSome_iff_exists.1 harmed
    obtain ⟨-, rfl⟩ := List.mem_replicate.1 hp
    dsimp only
    rw [ht]
    rfl

/-- Where the ticket can be written, its word 0 and its resume record are all that is stored. -/
theorem postOne_stores (h0 : s.sys.accessFails (mainKey 0 (s.sys.ticketPA ctx no)) 8 false = none)
    (h8 : s.sys.accessFails (mainKey 0 (s.sys.ticketPA ctx no) + 64) 64 false = none) :
    (postOne s ctx die no r n acc level np sparse).stores =
      [.bytes (mainKey 0 (s.sys.ticketPA ctx no)) (leBytes 8 0x8000000000000001),
        .bytes (mainKey 0 (s.sys.ticketPA ctx no) + 64) (resumeBytes ctx no)] := by
  rw [postOne, Upd.andThen_stores, armTicket_stores n h0 h8, reportFault_stores]
  rfl

/-- Arming a ticket leaves what its record says of the context, and where records go. -/
theorem arming_record : faultRecord (commit s (armTicket s ctx n no)).sys ctx n level np sparse acc.code no r =
    faultRecord s.sys ctx n level np sparse acc.code no r := by
  have hctx : (commit s (armTicket s ctx n no)).sys.context ctx = (s.sys.context ctx).arming no n :=
    ((armTicket_written n).context ctx).trans (Sys.setContext_context ..)
  simp only [faultRecord, Sys.ticketPA, hctx]
  rfl

theorem arming_faultDest : (commit s (armTicket s ctx n no)).sys.faultDest ctx die = s.sys.faultDest ctx die := by
  have hdest : (s.arming ctx no n).sys.faultDest ctx die = s.sys.faultDest ctx die := by
    have hctx : (s.arming ctx no n).sys.context ctx = (s.sys.context ctx).arming no n := Sys.setContext_context ..
    simp only [Sys.faultDest, hctx]
    rfl
  exact ((armTicket_written n).keeps (·.faultDest ctx die) fun _ _ _ _ _ _ => rfl).trans hdest

theorem arming_time : (commit s (armTicket s ctx n no)).sys.time = s.sys.time := (armTicket_written n).time

theorem arming_posts : (commit s (armTicket s ctx n no)).sys.posts = s.sys.posts :=
  (armTicket_written n).keeps Sys.posts fun _ _ _ _ _ _ => rfl

theorem arming_bin? {b : Nat} : (commit s (armTicket s ctx n no)).sys.bin? ctx die b = s.sys.bin? ctx die b :=
  (armTicket_written n).keeps (·.bin? ctx die b) fun _ _ _ _ _ _ => rfl

/-- A record of a context with a ring joins those held for it. -/
theorem postOne_ring (hd : s.sys.faultDest ctx die = .ring) : (postOne s ctx die no r n acc level np sparse).sys.heldFaults =
    s.sys.heldFaults ++ [{ ctx, die, record := faultRecord s.sys ctx n level np sparse acc.code no r }] := by
  rw [postOne, Upd.andThen_sys, reportFault_ring _ (arming_faultDest.trans hd), arming_record]
  exact congrArg (· ++ _) (armTicket_written n).heldFaults

/-- A record of a context with a bin is posted to it. -/
theorem postOne_bin {b : Nat} (hd : s.sys.faultDest ctx die = .bin b) :
    (postOne s ctx die no r n acc level np sparse).sys = (commit s (armTicket s ctx n no)).sys.post ctx die b
      (faultRecord s.sys ctx n level np sparse acc.code no r) none none := by
  rw [postOne, Upd.andThen_sys, reportFault_bin _ (arming_faultDest.trans hd), arming_record]
  rfl

section
variable {b : Nat} {x : Bin} (hd : s.sys.faultDest ctx die = .bin b) (hx : s.sys.bin? ctx die b = some x)
include hd hx

theorem postOne_bin_accepts (hw : ¬ s.sys.postWaits ctx die b x) :
    (postOne s ctx die no r n acc level np sparse).sys.bin? ctx die b =
        some ((x.accept (faultRecord s.sys ctx n level np sparse acc.code no r) none s.sys.time.now).noted s.sys.time.cycle) ∧
      (postOne s ctx die no r n acc level np sparse).sys.posts = s.sys.posts := by
  have hwait : ¬ (commit s (armTicket s ctx n no)).sys.postWaits ctx die b x := by rwa [Sys.postWaits, arming_posts]
  obtain ⟨hacc, hsame⟩ := Sys.post_accepts (faultRecord s.sys ctx n level np sparse acc.code no r) none none (arming_bin?.trans hx) hwait
  rw [arming_time] at hacc
  rw [postOne_bin hd]
  exact ⟨hacc, hsame.trans arming_posts⟩

theorem postOne_bin_waits (hw : s.sys.postWaits ctx die b x) : (postOne s ctx die no r n acc level np sparse).sys.posts =
    s.sys.posts ++ [{ ctx, die, bin := b, record := faultRecord s.sys ctx n level np sparse acc.code no r, addr := none, op := none }] := by
  have hwait : (commit s (armTicket s ctx n no)).sys.postWaits ctx die b x := by rwa [Sys.postWaits, arming_posts]
  rw [postOne_bin hd, Sys.post_waits _ none none (arming_bin?.trans hx) hwait, arming_posts]

end

end

/-! ### The sub-warp of a set that faults (R36, R42) -/

/-- The warp whose sub-warp waits on the ticket of page `n`. -/
def Env.parked (e : Env) (n : Nat) (ring : Bool) : Warp :=
  e.w.setSub e.o { e.b with wait := .ticket n ring, under := .none, since := e.y.time.now, set := [] }

/-- The state in which the set is over, and the sub-warp waits on the ticket of page `n`. -/
def Env.parkedState (e : Env) (n : Nat) : State :=
  { e.s with sys := (e.y.forget e.asker).setWarp (e.parked n (decide (e.y.faultDest e.k.ctx (dieOf e.k.core) = .ring))) }

theorem Env.parkedState_warp? {e : Env} (n : Nat) (h : e.y.warp? e.w.id = some e.w) : (e.parkedState n).sys.warp? e.w.id =
    some (e.parked n (decide (e.y.faultDest e.k.ctx (dieOf e.k.core) = .ring))) := by
  have hid : ∀ ring, (e.parked n ring).id = e.w.id := fun ring => Warp.setSub_id ..
  have hold : (e.y.forget e.asker).warp? (e.parked n (decide (e.y.faultDest e.k.ctx (dieOf e.k.core) = .ring))).id = some e.w := by
    rw [hid]
    exact h
  rw [Env.parkedState, Sys.warp?_setWarp _ hold, if_pos (hid _).symm]

/-- Who faults, as the records of the word say. -/
def Env.requester (e : Env) : Requester := { kind := 0, slot := e.w.slot, part := e.w.part, unit := e.k.core, pc := e.b.pc }

section
variable {e : Env} (raise : State → TrapInfo → Upd) (s : State) (k : Nat) {n level sparse : Nat} {np : Bool} {acc : Access3}
  (lanes : LaneMask) (va : Nat)

/-- A page with no ticket, whose record has nowhere to go, raises PAGE. -/
theorem Env.faulted_nowhere (ha : e.y.armed? e.k.ctx n = none) (hd : e.y.faultDest e.k.ctx (dieOf e.k.core) = .none) :
    e.faulted raise s (List.replicate (k + 1) (n, acc, level, np, sparse)) lanes va e.b.pc =
      raise s { trapOf .page (BitVec.ofNat 64 va) with tlanes := lanes } := by
  have hno : e.y.noDest e.k.ctx (dieOf e.k.core) (List.replicate (k + 1) (n, acc, level, np, sparse)) = true := by
    simp [Sys.noDest, hd, ha]
  exact if_pos hno

/-- Else the sub-warp parks, and the faults are posted. -/
theorem Env.faulted_parks (h : (e.y.armed? e.k.ctx n).isSome = true ∨ e.y.faultDest e.k.ctx (dieOf e.k.core) ≠ .none) :
    e.faulted raise { e.s with sys := e.y.forget e.asker } (List.replicate (k + 1) (n, acc, level, np, sparse)) lanes va e.b.pc =
      recallFirst e.s (postFaults (e.parkedState n) e.k.ctx (dieOf e.k.core) e.requester
        (List.replicate (k + 1) (n, acc, level, np, sparse))) := by
  have hno : ¬ e.y.noDest e.k.ctx (dieOf e.k.core) (List.replicate (k + 1) (n, acc, level, np, sparse)) = true := by
    rcases h with h | h
    · simp [Sys.noDest, Option.isSome_iff_ne_none.1 h]
    · simp [Sys.noDest, h]
  unfold Env.faulted
  dsimp only
  rw [if_neg hno, lowestPage_replicate]
  rfl

/-- A page whose ticket is armed posts nothing. -/
theorem Env.faulted_armed (h : (e.y.armed? e.k.ctx n).isSome = true) :
    e.faulted raise { e.s with sys := e.y.forget e.asker } (List.replicate (k + 1) (n, acc, level, np, sparse)) lanes va e.b.pc =
      .of (e.parkedState n).sys := by
  rw [Env.faulted_parks raise k lanes va (.inl h), postFaults_armed _ fun p hp => by rw [(List.mem_replicate.1 hp).2]; exact h]
  exact recallFirst_noStores _ _ rfl

/-- A page with no ticket arms one, and its record is posted, where nothing stands before the control die's writes. -/
theorem Env.faulted_arms {no : Nat} (ha : e.y.armed? e.k.ctx n = none) (hd : e.y.faultDest e.k.ctx (dieOf e.k.core) ≠ .none)
    (hf : e.y.freeTicket? e.k.ctx = some no) (hheld : e.y.NothingHeld)
    (ho : e.y.opens e.k.ctx (mainKey 0 (e.y.ticketPA e.k.ctx no)) 128 true = true) :
    e.faulted raise { e.s with sys := e.y.forget e.asker } (List.replicate (k + 1) (n, acc, level, np, sparse)) lanes va e.b.pc =
      postOne (e.parkedState n) e.k.ctx (dieOf e.k.core) no e.requester n acc level np sparse := by
  rw [Env.faulted_parks raise k lanes va (.inr hd), postFaults_page (s := e.parkedState n) k ha hf ho]
  exact recallFirst_nothingHeld _ _ hheld

end

end Sys2Proof.Machine

open Sys2Proof Sys2Proof.Machine

/-- Settles O13: each of the four words means its form (`MeansMain`); the fates of its elements are the fates of its set, whose outcome is the
first refusal's (`setFate_refuse`), or the fault's (`setFate_fault`); a fault parks the sub-warp and arms a ticket (`Env.faulted_arms`). -/
theorem mainMemoryFormsIssue : Obligations.MainMemoryFormsIssue := by
  unfold Obligations.MainMemoryFormsIssue
  intro s e o u a forms i f acc es y l hmem hr hw
  obtain ⟨rfl, hi, -, hwarp, -⟩ := env?_spec hr.env
  obtain ⟨hmeans, hlane, hacc⟩ : MeansMain i e.s e f acc es ∧ (∀ x ∈ es, x.lane ≤ 32) ∧ (acc = .read ∨ acc = .write) := by
    simp only [forms, List.mem_cons, List.not_mem_nil, or_false, Prod.mk.injEq] at hmem
    rcases hmem with ⟨rfl, rfl, rfl, rfl⟩ | ⟨rfl, rfl, rfl, rfl⟩ | ⟨rfl, rfl, rfl, rfl⟩ | ⟨rfl, rfl, rfl, rfl⟩
    · exact ⟨⟨_, rfl, rfl⟩, Env.laneElems_lane, .inl rfl⟩
    · exact ⟨⟨_, rfl, rfl⟩, Env.laneElems_lane, .inr rfl⟩
    · exact ⟨⟨_, rfl, rfl⟩, Env.uniElem_lane, .inl rfl⟩
    · exact ⟨⟨_, rfl, rfl⟩, Env.laneElems_lane, .inr rfl⟩
  refine ⟨fun hfull hwit => ⟨?noElement, ?translated⟩, fun hne hc hset => ?builds⟩
  case noElement =>
    rintro rfl
    obtain ⟨body, hx, hb⟩ := hmeans
    exact exec_of_issueMem_nil hr hx (hb.trans (Env.mainForm_nil hw)) hfull
  case translated =>
    intro hne hloc hclock p from_
    obtain ⟨body, hx, hb⟩ := hmeans
    have hsends := sends_of_issueMem hr hx (fun _ h => hb.trans (Env.mainForm_located hw hne hloc h)) hfull hwit
      (Env.locateMain_ne_nil hne hloc) (.inr hclock)
    subst hi
    exact hsends
  case builds =>
    have hpos : ∀ x ∈ es, 0 ≤ x.ea := fun x hx => (hc x hx).1
    intro die ctx pageOf known touch fate over_ blames
    refine ⟨?misses, ?refuses, ?faults⟩
    case misses =>
      intro hmiss pages missed
      exact hmeans.exec_change hr hw hne hc (Env.translate_misses hset hmiss)
    case refuses =>
      intro n r hn hk refused hsome hbefore
      obtain ⟨hfind, hfire⟩ := reasonOrder_first (l := e.fates f.size acc es) hn
        (fun h => hsome.elim fun x hx => (Env.refusals_nil_iff hk).1 h x hx.1 hx.2)
        (fun m q hm hq => (Env.refusals_nil_iff hk).2 (hbefore m q hm hq))
      obtain ⟨keys, hfate⟩ := setFate_refuse (engine := (es.map (Elem.touch f.size acc)).all (fun t => t.lane == 32)) hfind
      refine ⟨_, rfl, rfl, ?_, hmeans.exec_change hr hw hne hc (Env.translate_refused hset hk hfire hfate)⟩
      exact blames_of hlane hpos (Env.mem_refusals hk) hsome rfl rfl
    case faults =>
      intro n level sparse np faults hall hsome dest parked
      have hk : ∀ x ∈ es, e.knows (x.ea.toNat / 65536) ≠ none := fun x hx =>
        (hall x hx).elim Env.knows_of_fateOf fun h => Env.knows_of_fateOf h.2
      obtain ⟨k, hfate⟩ := Env.setFate_fates (engine := (es.map (Elem.touch f.size acc)).all (fun t => t.lane == 32)) hk hall hsome
      have hexec := hmeans.exec_change hr hw hne hc (Env.translate_faulted hset hk hfate)
      refine ⟨?armed, ?nowhere, ?arms⟩
      case armed =>
        intro ha
        rw [Env.faulted_armed _ k _ _ ha] at hexec
        exact hexec
      case nowhere =>
        intro ha hd
        rw [Env.faulted_nowhere _ _ k _ _ ha hd] at hexec
        exact ⟨_, rfl, blames_of hlane hpos (Env.mem_faultings hk hall) hsome rfl rfl, hexec⟩
      case arms =>
        intro no ha hd hf hheld pa key ho h0 h8 record
        rw [Env.faulted_arms _ k _ _ ha hd hf hheld ho] at hexec
        have hrecord : faultRecord (e.parkedState n).sys ctx n level np sparse acc.code no e.requester = record := by
          have hcode : acc.code = if acc = .write then 1 else 0 := by rcases hacc with rfl | rfl <;> rfl
          simp only [faultRecord, Env.requester, hcode, Nat.zero_mul, Nat.zero_add]
          rfl
        refine ⟨_, resumeBytes ctx no, hexec, resumeBytes_length ctx no, postOne_stores h0 h8, ?_, postOne_tickets, fun hring => ?_,
          fun b x hbin hx => ⟨fun hw => ?_, fun hw => ?_⟩⟩
        · exact (congrArg (List.find? _) postOne_warps).trans (Env.parkedState_warp? n hwarp)
        · rw [← hrecord]; exact postOne_ring (s := e.parkedState n) hring
        · rw [← hrecord]; exact postOne_bin_accepts (s := e.parkedState n) hbin hx hw
        · rw [← hrecord]; exact postOne_bin_waits (s := e.parkedState n) hbin hx hw

end

section
/-! Words that issue a long-latency operation (R189, R214, R215): what their meaning answers, and what the machine does then. -/

namespace Sys2Proof.Machine

section
variable {i : Instr} {s : State} {e : Env} (hr : Ready i s e)
include hr

/-- A word of the plain kind goes past itself with its warp changed. -/
theorem Ready.exec_issueReg {body : Env → Except Hold Warp} {w : Warp} (hx : exec i s = issueReg i s body) (hb : body e = .ok w) :
    exec i s = .next (e.next s.sys w) := by
  obtain ⟨rfl, -⟩ := env?_spec hr.env
  exact hx.trans (issueReg_ok hr hb)

variable {body : Env → Except Hold Upd} (hx : exec i s = issue i s body)
include hx

/-- A word whose meaning adds an operation, and counts it on its flag, sends it. -/
theorem sends_of_addOp {y : Sys} {v : Warp} {p : Op} (hb : body e = .ok (e.finish (y.addOp p) (v.countUp p.flag))) :
    Sends i s e y v p [] := by
  rw [Sends, hx, issue_ok hr hb, hr.commit_finish, List.append_nil]
  rfl

/-- A word that finishes, and leaves the machine's other parts as `y`. -/
theorem Ready.exec_finish {y : Sys} {v : Warp} (hb : body e = .ok (e.finish y v)) : exec i s = .next (e.next y v) := by
  rw [hx, issue_ok hr hb, hr.commit_finish]

theorem traps_of_error {t : TrapInfo} (hb : body e = .error (.trap t)) : Traps i s e t := by
  obtain ⟨rfl, -⟩ := env?_spec hr.env
  exact hx.trans (issue_error hr.env hr.checks hb)

theorem does_of_change {u : Upd} (hb : body e = .error (.change u)) : Does i s u :=
  hx.trans (issue_error hr.env hr.checks hb)

theorem waits_of_error {r : Wait} (hb : body e = .error (.wait r)) : Waits i s e r := by
  obtain ⟨rfl, -⟩ := env?_spec hr.env
  exact hx.trans (issue_error hr.env hr.checks hb)

end

/-! ### Witnesses and flags at issue (R102, R189) -/

theorem Env.witnessOk_good {e : Env} {w : Word} (h : witBad e.y.clk w = false) : e.witnessOk w = .ok () := by
  simp [Env.witnessOk, h]

theorem Env.witnessOk_bad {e : Env} {w : Word} (h : witBad e.y.clk w = true) : e.witnessOk w = .error (.trap (trapOf .witness w)) := by
  simp [Env.witnessOk, h, trapping]

theorem Env.send_ok {e : Env} (y : Sys) (v : Warp) {p : Op} (h : e.flagFull p = false) :
    e.send y v p = .ok (e.finish (y.addOp p) (v.countUp p.flag)) := by
  simp [Env.send, h]

theorem Env.send_full {e : Env} (y : Sys) (v : Warp) {p : Op} (h : e.flagFull p = true) :
    e.send y v p = .error (.wait (.flagFull (p.flag.getD 0))) := by
  simp [Env.send, h]

end Sys2Proof.Machine
end

section
/-! Copies and batches (R313 to R315, R318, R319): the common issue of CPL and CPB, and what CPWAIT takes. -/

namespace Sys2Proof.Machine

/-! ### The issue of a copy (R318, R506) -/

/-- The issue of a copy of `n` lane copies that touches `ts`, once its operands have passed their checks. -/
def Env.issueCopy (e : Env) (tag : BitVec 3) (n : Nat) (ts : List Touch) (p : Op) : Except Hold Upd :=
  if ts.isEmpty then e.sendCopy e.y tag n p
  else match e.translate ts with
    | .error h => .error h
    | .ok y => e.behindSet y (ts.map (·.va))
        (e.sendCopy y tag n { p with set := y.keep e.asker (some e.k.core) (dieOf e.k.core) e.k.ctx ts })

/-- The translations that a copy keeps: those of the pages that it touches. -/
def Env.copySet (e : Env) (y : Sys) (ts : List Touch) : List PageLeaf :=
  if ts = [] then [] else y.keep e.asker (some e.k.core) (dieOf e.k.core) e.k.ctx ts

/-- The operation of a copy, in the open batch of its tag. -/
def Env.copyOp (e : Env) (y : Sys) (tag : BitVec 3) (ts : List Touch) (p : Op) : Op :=
  { p with set := e.copySet y ts, batch := some (e.w.joinBatch tag).2, stage := .running }

section
variable {e : Env} {tag : BitVec 3} {n : Nat} {p : Op} (hfull : e.flagFull p = false) (hn : 0 < n)
  (hroom : e.y.copies e.w tag + n ≤ 255)
include hfull hn hroom

/-- A copy that finds room joins the open batch of its tag. -/
theorem Env.sendCopy_joins (y : Sys) : e.sendCopy y tag n p = .ok (e.finish
    (y.addOp { p with batch := some (e.w.joinBatch tag).2, stage := .running }) ((e.w.joinBatch tag).1.countUp p.flag)) := by
  simp [Env.sendCopy, hfull, Nat.ne_of_gt hn, Nat.not_lt.2 hroom]

/-- A copy whose pages are translated joins it too, and keeps their translations. -/
theorem Env.issueCopy_joins {y : Sys} {ts : List Touch} (hset : p.set = []) (hy : if ts = [] then y = e.y else e.translate ts = .ok y) :
    e.issueCopy tag n ts p = .ok (e.finish (y.addOp (e.copyOp y tag ts p)) ((e.w.joinBatch tag).1.countUp p.flag)) := by
  by_cases hts : ts = []
  · obtain rfl : y = e.y := by simpa [hts] using hy
    rw [Env.copyOp, Env.copySet, if_pos hts, ← hset]
    simpa [Env.issueCopy, hts] using Env.sendCopy_joins hfull hn hroom e.y
  · rw [if_neg hts] at hy
    have hne : ts.isEmpty = false := by simpa using hts
    rw [Env.copyOp, Env.copySet, if_neg hts]
    have hjoins := Env.sendCopy_joins (p := { p with set := y.keep e.asker (some e.k.core) (dieOf e.k.core) e.k.ctx ts }) hfull hn hroom y
    simp only [Env.issueCopy, hne, hy, hjoins]
    rfl

end

/-- The word means the issue of this copy. -/
def MeansCopy (i : Instr) (s : State) (e : Env) (tag : BitVec 3) (n : Nat) (ts : List Touch) (p : Op) : Prop :=
  ∃ body, exec i s = issue i s body ∧ body e = e.issueCopy tag n ts p

theorem MeansCopy.sends {i : Instr} {s : State} {e : Env} {tag : BitVec 3} {n : Nat} {ts : List Touch} {p : Op} {y : Sys}
    (h : MeansCopy i s e tag n ts p) (hr : Ready i s e) (hfull : e.flagFull p = false) (hn : 0 < n)
    (hroom : s.sys.copies e.w tag + n ≤ 255) (hset : p.set = []) (hy : if ts = [] then y = s.sys else e.translate ts = .ok y) :
    Sends i s e y (e.w.joinBatch tag).1 (e.copyOp y tag ts p) [] := by
  obtain ⟨body, hx, hb⟩ := h
  obtain ⟨rfl, -⟩ := env?_spec hr.env
  exact sends_of_addOp hr hx (hb.trans (Env.issueCopy_joins hfull hn hroom hset hy))

/-- CPL means the copy of its lanes where the checks of R506 pass. -/
theorem meansCopy_cpl {s : State} {e : Env} {o : CopyL} (hw : e.witnessOk (e.optS o.w) = .ok ())
    (ht : laneCopyTrap (e.y.windows e.k none) (e.laneCopies o) = none) :
    MeansCopy (.cpl o) s e o.tag (e.laneCopies o).length
      ((e.laneCopies o).flatMap (fun x => rangeTouches x.lane (if o.st then .write else .read) x.m.toNat (if o.st then 32 else x.v)))
      { e.op true with wit := e.optS o.w, args := (e.laneCopies o).flatMap LaneCopy.words } := by
  refine ⟨_, exec_cpl o s, ?_⟩
  simp only [hw, ht]
  rfl

/-- CPB means the copy of its rows where the checks of R506 pass. -/
theorem meansCopy_cpb {s : State} {e : Env} {o : CopyB} {src : Int} {sides : List Side}
    (hsrc : ((e.optS o.base).toNat : Int) + o.off.toInt = src) (hsides : copySides src (e.w.s o.d) (e.w.sn (o.d.toNat + 1)) .write = sides)
    (hw : e.witnessOk (e.optS o.w) = .ok ())
    (ht : blockCopyTrap (e.y.windows e.k none) src (e.w.s o.d) (e.w.sn (o.d.toNat + 1)) sides = none) :
    MeansCopy (.cpb o) s e o.tag 1 (blockTouches (e.w.sn (o.d.toNat + 1)) sides)
      { e.op true with wit := e.optS o.w, args := [wrap 64 src, e.w.s o.d, e.w.sn (o.d.toNat + 1)] } := by
  subst hsrc hsides
  refine ⟨_, exec_cpb o s, ?_⟩
  simp only [hw, ht]
  rfl

/-! ### Batches (R318, R319) -/

/-- A closed batch of a tag that no CPWAIT has taken. -/
def Batch.isClosed (tag : BitVec 3) (b : Batch) : Bool := b.tag == tag && b.closed && !b.taken

/-- The operation of a CPWAIT. -/
def Env.waitOp (e : Env) (d : SReg) (tag : BitVec 3) : Op :=
  { e.op false with
    pendS := [d.toNat], stage := .running, args := (e.w.batches.filter (Batch.isClosed tag)).map (fun b => BitVec.ofNat 64 b.no) }

/-- The warp once its closed batches of a tag are taken. -/
def Warp.takeBatches (w : Warp) (tag : BitVec 3) : Warp :=
  { w with batches := w.batches.map (fun b => if b.isClosed tag then { b with taken := true } else b) }

/-- What CPWAIT means where its flag has room. -/
theorem cpwait_means {s : State} {e : Env} {d : SReg} {tag : BitVec 3} (hfull : e.flagFull (e.waitOp d tag) = false) :
    ∃ body, exec (.cpwait d tag) s = issue (.cpwait d tag) s body ∧
      body e = if (e.waitOp d tag).args.isEmpty then .ok (e.finish e.y (e.w.setS d 0))
        else .ok (e.finish (e.y.addOp (e.waitOp d tag)) ((e.w.takeBatches tag).countUp (e.waitOp d tag).flag)) := by
  refine ⟨_, exec_cpwait d tag s, ?_⟩
  change (if e.flagFull (e.waitOp d tag) then _ else _) = _
  rw [hfull]
  rfl

/-- CPQRY completes in a warp slice alone: the access slice does not accept it (R223). -/
theorem Ready.cpqry_o {s : State} {e : Env} {d : SReg} {tag : BitVec 3} (hr : Ready (.cpqry d tag) s e) : e.o ≠ none := by
  intro ho
  obtain ⟨-, he, -⟩ := env?_spec hr.env
  have hm : e.misplaced = true := by
    rw [Env.misplaced, he, ho]
    cases e.b.place <;> rfl
  have hp := Env.precheck_bad (.inl hm)
  rw [hr.checks] at hp
  cases hp

/-- The operation of CPWAIT names no batch where none is closed. -/
theorem Env.waitOp_args_isEmpty {e : Env} {d : SReg} {tag : BitVec 3} :
    (e.waitOp d tag).args.isEmpty = true ↔ ∀ b ∈ e.w.batches, b.isClosed tag = false := by
  simp [Env.waitOp]

end Sys2Proof.Machine

open Sys2Proof Sys2Proof.Machine

/-- Settles O16: CPL and CPB mean one issue (`MeansCopy`), which joins the open batch; CPSEAL and CPQRY act on their warp alone, and CPWAIT
by whether it finds a closed batch. -/
theorem copyFormsIssue : Obligations.CopyFormsIssue := by
  unfold Obligations.CopyFormsIssue
  refine ⟨fun s e o q y => ?copies, fun s e d tag => ?batches⟩
  case copies =>
    intro die go
    refine ⟨?cpl, ?cpb⟩
    case cpl =>
      intro hr hw l ht hfull hn hroom hy
      obtain ⟨rfl, -⟩ := env?_spec hr.env
      exact (meansCopy_cpl (Env.witnessOk_good hw) ht).sends hr hfull hn hroom rfl hy
    case cpb =>
      intro hr hw src dst shape sides ht hfull hn hroom hy
      obtain ⟨rfl, -⟩ := env?_spec hr.env
      exact (meansCopy_cpb rfl rfl (Env.witnessOk_good hw) ht).sends hr hfull hn hroom rfl hy
  case batches =>
    intro closed of_ p
    refine ⟨fun hr => hr.exec_issueReg (exec_cpseal tag s) rfl, fun hr hfull => ?cpwait, fun hr => ?cpqry⟩
    case cpwait =>
      obtain ⟨body, hx, hb⟩ := cpwait_means (s := s) hfull
      obtain ⟨rfl, -⟩ := env?_spec hr.env
      refine ⟨fun hnone => ?none, fun hsome => ?some⟩
      case none =>
        rw [if_pos (Env.waitOp_args_isEmpty.2 hnone)] at hb
        exact hr.exec_finish hx hb
      case some =>
        obtain ⟨b, hmem, hc⟩ := hsome
        rw [if_neg fun h => Bool.false_ne_true ((Env.waitOp_args_isEmpty.1 h b hmem).symm.trans hc)] at hb
        exact sends_of_addOp hr hx hb
    case cpqry =>
      refine writesScalar_of (exec_cpqry d tag s) hr (List.mem_singleton_self (Use.sw d.toNat)) ?_
      obtain ⟨k, ho⟩ := Option.ne_none_iff_exists'.1 hr.cpqry_o
      obtain ⟨rfl, -⟩ := env?_spec hr.env
      rw [ho]
      rfl

end

section
/-! Commands and task forms (R321, R354, R381, R391, R407 to R411): each sends one operation, whose operands and witness it has read. -/

namespace Sys2Proof.Machine

/-- The null witness is never bad (R102). -/
theorem witBad_zero (clk : Nat) : witBad clk 0 = false := by
  simp [witBad, witMalformed, witTooFar]

/-- A word whose meaning sends an operation of its own, where the flag has room. -/
theorem sends_of_send {i : Instr} {s : State} {e : Env} {body : Env → Except Hold Upd} {y : Sys} {p : Op} (hr : Ready i s e)
    (hx : exec i s = issue i s body) (hb : body e = e.send y e.w p) (hfull : e.flagFull p = false) : Sends i s e y e.w p [] :=
  sends_of_addOp hr hx (hb.trans (Env.send_ok y e.w hfull))

/-! ### Commands of the agents and engines -/

/-- The issue of a command: its witness is checked, then its operation is sent. -/
def Env.issueCommand (e : Env) (p : Op) : Except Hold Upd :=
  match e.witnessOk p.wit with
  | .error h => .error h
  | .ok () => e.send e.y e.w p

theorem Env.issueCommand_good {e : Env} {p : Op} (h : witBad e.y.clk p.wit = false) : e.issueCommand p = e.send e.y e.w p := by
  rw [Env.issueCommand, Env.witnessOk_good h]

theorem Env.issueCommand_bad {e : Env} {p : Op} (h : witBad e.y.clk p.wit = true) :
    e.issueCommand p = .error (.trap (trapOf .witness p.wit)) := by
  rw [Env.issueCommand, Env.witnessOk_bad h]

/-- The word means the command `p`. -/
def MeansCommand (i : Instr) (s : State) (e : Env) (p : Op) : Prop :=
  ∃ body, exec i s = issue i s body ∧ body e = e.issueCommand p

/-- A form without a witness means its command too. -/
theorem meansCommand_of_send {i : Instr} {s : State} {e : Env} {p : Op} {body : Env → Except Hold Upd} (hx : exec i s = issue i s body)
    (hwit : p.wit = 0) (hb : body e = e.send e.y e.w p) : MeansCommand i s e p :=
  ⟨body, hx, hb.trans (Env.issueCommand_good (by rw [hwit]; exact witBad_zero _)).symm⟩

section
variable {i : Instr} {s : State} {e : Env} {p : Op} (h : MeansCommand i s e p) (hr : Ready i s e)
include h hr

theorem MeansCommand.traps (hw : witBad s.sys.clk p.wit = true) : Traps i s e (trapOf .witness p.wit) := by
  obtain ⟨body, hx, hb⟩ := h
  obtain ⟨rfl, -⟩ := env?_spec hr.env
  exact traps_of_error hr hx (hb.trans (Env.issueCommand_bad hw))

variable (hw : witBad s.sys.clk p.wit = false)
include hw

theorem MeansCommand.sends (hfull : e.flagFull p = false) : Sends i s e s.sys e.w p [] := by
  obtain ⟨body, hx, hb⟩ := h
  obtain ⟨rfl, -⟩ := env?_spec hr.env
  exact sends_of_send hr hx (hb.trans (Env.issueCommand_good hw)) hfull

theorem MeansCommand.waits (hfull : e.flagFull p = true) : Waits i s e (.flagFull (p.flag.getD 0)) := by
  obtain ⟨body, hx, hb⟩ := h
  obtain ⟨rfl, -⟩ := env?_spec hr.env
  exact waits_of_error hr hx (hb.trans ((Env.issueCommand_good hw).trans (Env.send_full e.y e.w hfull)))

end

/-! ### Task forms (R407 to R411) -/

/-- Word 0 of a record is the first of its registers. -/
theorem Env.recordAt_head (e : Env) (r : SReg) : (e.recordAt r).getD 0 0 = e.w.s r := by
  change e.w.sregs[r.toNat]?.getD 0 = e.w.s r
  rw [Vector.getElem?_eq_getElem (show r.toNat < 128 from r.isLt)]
  rfl

section
variable {s : State} {e : Env} {od w : OptS} {a : SReg} {dev fs : Bool} (hr : Ready (.qpost od a w dev fs) s e)
  (hw : witBad s.sys.clk (e.optS w) = false)
include hr hw

/-- QPOST of a record that no bin takes (R408). -/
theorem qpost_traps (hbin : s.sys.recordBin e.k.ctx (dieOf e.k.core) (e.recordAt a) = none) :
    Traps (.qpost od a w dev fs) s e (trapOf .noBin (e.w.s a)) := by
  obtain ⟨rfl, -⟩ := env?_spec hr.env
  refine traps_of_error hr (exec_qpost od a w dev fs e.s) ?_
  have hbin' : e.y.recordBin e.k.ctx (dieOf e.k.core) (e.recordAt a) = none := hbin
  simp only [Env.witnessOk_good hw, hbin', trapping, Env.recordAt_head]

/-- QPOST of a record whose bin has room reserves it. -/
theorem qpost_sends {die n : Nat} {x : Bin} {p : Op}
    (hp : p = { e.op fs with
      wit := e.taskWit dev w, pendS := (od.map (fun r : SReg => r.toNat)).toList
      args := e.recordAt a ++ [BitVec.ofNat 64 die, BitVec.ofNat 64 n] })
    (hbin : s.sys.recordBin e.k.ctx (dieOf e.k.core) (e.recordAt a) = some (die, n)) (hx : s.sys.bin? e.k.ctx die n = some x)
    (hroom : x.room = true) (hfull : e.flagFull p = false) :
    Sends (.qpost od a w dev fs) s e (s.sys.setBin e.k.ctx die n (fun z => { z with reserved := z.reserved + 1 })) e.w p [] := by
  subst hp
  obtain ⟨rfl, -⟩ := env?_spec hr.env
  refine sends_of_send hr (exec_qpost od a w dev fs e.s) ?_ hfull
  have hbin' : e.y.recordBin e.k.ctx (dieOf e.k.core) (e.recordAt a) = some (die, n) := hbin
  have hx' : e.y.bin? e.k.ctx die n = some x := hx
  simp only [Env.witnessOk_good hw, hbin', hx', Option.map_some, Option.getD_some, hroom, hfull, Bool.not_true, Bool.false_eq_true, if_false]
  rfl

end

section
variable {s : State} {e : Env} {a : SReg} {w : OptS} {dev fs : Bool} (hr : Ready (.dsig a w dev true fs) s e)
  (ht : s.sys.isTicket e.k.ctx (e.w.s a) = true) (hw : witBad s.sys.clk (e.optS w) = false)
include hr ht hw

/-- DSIG of a ticket that the context's regions open to it (R54, R410). -/
theorem dsig_ticket_sends {p : Op} (hp : p = { e.op fs with wit := e.taskWit dev w, args := [e.w.s a] })
    (hopen : s.sys.opens e.k.ctx (mainKey 0 (e.w.s a).toNat) 128 true = true) (hfull : e.flagFull p = false) :
    Sends (.dsig a w dev true fs) s e s.sys e.w p [] := by
  subst hp
  obtain ⟨rfl, -⟩ := env?_spec hr.env
  refine sends_of_send hr (exec_dsig a w dev true fs e.s) ?_ hfull
  have ht' : e.y.isTicket e.k.ctx (e.w.s a) = true := ht
  have hopen' : e.y.opens e.k.ctx (mainKey 0 (e.w.s a).toNat) 128 true = true := hopen
  simp only [ht', Env.witnessOk_good hw, hopen', if_true, Bool.not_true, Bool.false_eq_true, if_false]
  rfl

/-- DSIG of a ticket that they do not open traps, and the context freezes. -/
theorem dsig_ticket_freezes (hshut : s.sys.opens e.k.ctx (mainKey 0 (e.w.s a).toNat) 128 true = false) :
    Does (.dsig a w dev true fs) s (Upd.andThen s
      (takeTrap s e.w e.o e.b { trapOf .protection (e.w.s a) with reason := .firewall })
      (fun t => freezeContext t (.part e.k.core e.w.part) e.k.ctx (mainKey 0 (e.w.s a).toNat, true))) := by
  obtain ⟨rfl, -⟩ := env?_spec hr.env
  have ht' : e.y.isTicket e.k.ctx (e.w.s a) = true := ht
  have hshut' : e.y.opens e.k.ctx (mainKey 0 (e.w.s a).toNat) 128 true = false := hshut
  refine does_of_change hr (exec_dsig a w dev true fs e.s) ?_
  simp only [ht', Env.witnessOk_good hw, hshut', if_true, Bool.not_true, Bool.false_eq_true, if_false]

end

end Sys2Proof.Machine

open Sys2Proof Sys2Proof.Machine

/-- Settles O20: each of the thirteen commands means its operation (`MeansCommand`); a task form sends its own once its bin, its page or its
ticket lets it. -/
theorem engineAndTaskFormsIssue : Obligations.EngineAndTaskFormsIssue := by
  unfold Obligations.EngineAndTaskFormsIssue
  refine ⟨fun s e d a b c w x y fs => ?commands, fun s e d a b od w dev fs => ?tasks⟩
  case commands =>
    intro one two heap plain engine forms i p hmem hr
    have hmeans : MeansCommand i s e p := by
      simp only [forms, List.mem_cons, List.not_mem_nil, or_false, Prod.mk.injEq] at hmem
      rcases hmem with ⟨rfl, rfl⟩ | ⟨rfl, rfl⟩ | ⟨rfl, rfl⟩ | ⟨rfl, rfl⟩ | ⟨rfl, rfl⟩ | ⟨rfl, rfl⟩ | ⟨rfl, rfl⟩ | ⟨rfl, rfl⟩ |
        ⟨rfl, rfl⟩ | ⟨rfl, rfl⟩ | ⟨rfl, rfl⟩ | ⟨rfl, rfl⟩ | ⟨rfl, rfl⟩
      · exact ⟨_, exec_halloc .., rfl⟩
      · exact ⟨_, exec_hfree .., rfl⟩
      · exact ⟨_, exec_hqry .., rfl⟩
      · exact ⟨_, exec_pcommit .., rfl⟩
      · exact ⟨_, exec_pdecommit .., rfl⟩
      · exact ⟨_, exec_pqry .., rfl⟩
      · exact ⟨_, exec_lmul .., rfl⟩
      · exact ⟨_, exec_ladd .., rfl⟩
      · exact ⟨_, exec_nttf .., rfl⟩
      · exact ⟨_, exec_ntti .., rfl⟩
      · exact ⟨_, exec_accrun .., rfl⟩
      · exact meansCommand_of_send (exec_accstat ..) rfl rfl
      · exact meansCommand_of_send (exec_qinfo ..) rfl rfl
    exact ⟨hmeans.traps hr, fun hw => ⟨hmeans.sends hr hw, hmeans.waits hr hw⟩⟩
  case tasks =>
    intro wit rec_ go post
    refine ⟨fun hr hw => ⟨fun hbin => qpost_traps hr hw hbin, fun die n x hbin hx hroom hfull => ?qpost⟩, fun y hr hy hfull => ?dpub,
      fun y hr hy hfull => ?dsig, fun hr ht hw => ?ticket, fun y hr hy hfull => ?launch⟩
    all_goals obtain ⟨rfl, -⟩ := env?_spec hr.env
    case qpost => exact qpost_sends hr hw rfl hbin hx hroom hfull
    case dpub => exact sends_of_send hr (exec_dpub ..) (by simp only [hy]; rfl) hfull
    case dsig => exact sends_of_send hr (exec_dsig ..) (by simp only [hy]; rfl) hfull
    case launch => exact sends_of_send hr (exec_launch ..) (by simp only [hy]) hfull
    case ticket => exact ⟨fun hopen hfull => dsig_ticket_sends hr ht hw rfl hopen hfull, fun hshut => dsig_ticket_freezes hr ht hw hshut⟩

end

section
/-! The streams and markers of the access slice (R77, R332 to R335): their words, the room that a stalled word leaves, and the pushes. -/

namespace Sys2Proof.Machine

/-- A word of the plain kind that its meaning makes wait. -/
theorem waits_of_issueReg {i : Instr} {s : State} {e : Env} {body : Env → Except Hold Warp} {r : Wait} (hr : Ready i s e)
    (hx : exec i s = issueReg i s body) (hb : body e = .error (.wait r)) : Waits i s e r :=
  waits_of_error hr hx (by simp only [hb])

/-! ### Jobs (R332, R333) -/

/-- A stream of queue number `n` still pushes. -/
def Warp.HasStream (w : Warp) (n : Nat) : Prop := ∃ z j, w.access = some z ∧ .stream j ∈ z.jobs[n]?.getD []

theorem QJob.isStream_iff {j : QJob} : j.isStream = true ↔ ∃ t, j = .stream t := by
  cases j <;> simp [QJob.isStream]

theorem Warp.streaming_iff {w : Warp} {q : BitVec 2} : w.streaming q = true ↔ w.HasStream q.toNat := by
  cases ha : w.access with
  | none => simp [Warp.streaming, Warp.HasStream, ha]
  | some z =>
    simp only [Warp.streaming, Warp.HasStream, ha, List.any_eq_true, QJob.isStream_iff, Access.jobsOf]
    constructor
    · rintro ⟨j, hj, t, rfl⟩
      exact ⟨z, t, rfl, hj⟩
    · rintro ⟨z', t, hz, ht⟩
      cases hz
      exact ⟨_, ht, t, rfl⟩

theorem Warp.streamingAny_iff {w : Warp} {mask : BitVec 4} :
    w.streamingAny mask = true ↔ ∃ n, n < 4 ∧ mask.getLsbD n = true ∧ w.HasStream n := by
  simp only [Warp.streamingAny, List.any_eq_true, List.mem_range, Bool.and_eq_true, Warp.streaming_iff, BitVec.toNat_ofNat]
  refine exists_congr fun n => and_congr_right fun hn => ?_
  rw [Nat.mod_eq_of_lt hn]

/-! ### QDISC (R335) -/

theorem firstMarker_of_marker {front more : List QEntry} {v : BitVec 16} (h : ∀ z ∈ front, ∀ n, z ≠ .marker n) :
    firstMarker (front ++ .marker v :: more) = some (v, more) := by
  induction front with
  | nil => rfl
  | cons z front ih =>
    cases z with
    | marker n => exact absurd rfl (h _ (List.mem_cons_self ..) n)
    | data | failed => exact ih fun y hy => h y (List.mem_cons_of_mem _ hy)

theorem firstMarker_none {l : List QEntry} (h : ∀ z ∈ l, ∀ n, z ≠ .marker n) : firstMarker l = none := by
  induction l with
  | nil => rfl
  | cons z l ih =>
    cases z with
    | marker n => exact absurd rfl (h _ (List.mem_cons_self ..) n)
    | data | failed => exact ih fun y hy => h y (List.mem_cons_of_mem _ hy)

section
variable {s : State} {e : Env} {d : SReg} {q : BitVec 2} (hr : Ready (.qdisc d q) s e)
include hr

/-- QDISC discards up to the first marker. -/
theorem exec_qdisc_marker {v : BitVec 16} {rest : List QEntry} (h : firstMarker (e.w.queue q) = some (v, rest)) :
    exec (.qdisc d q) s = .next (e.next s.sys ((e.w.setQueue q rest).setS d (BitVec.ofNat 64 (2 ^ 63 + v.toNat)))) := by
  obtain ⟨rfl, -⟩ := env?_spec hr.env
  refine hr.exec_finish (exec_qdisc d q e.s) ?_
  simp only [h]
  rfl

/-- QDISC finds no marker, and none can come any more. -/
theorem exec_qdisc_ended (h : firstMarker (e.w.queue q) = none) (ha : ∃ z, e.w.access = some z ∧ z.ended = true) :
    exec (.qdisc d q) s = .next (e.next s.sys ((e.w.setQueue q []).setS d 0)) := by
  obtain ⟨rfl, -⟩ := env?_spec hr.env
  obtain ⟨z, hz, hended⟩ := ha
  refine hr.exec_finish (exec_qdisc d q e.s) ?_
  simp only [h, hz, Option.map_some, Option.getD_some, hended, if_true]
  rfl

end

/-! ### Room of a queue (R77, R79; log 125) -/

/-- The entries of a queue that one sub-warp's word has taken. -/
def Warp.takenBy (w : Warp) (q : BitVec 2) (b : Sub) : Nat :=
  match b.wait with
  | .queue p n => if p = q then min n (w.queue q).length else 0
  | _ => 0

theorem Warp.takenAhead_eq (w : Warp) (q : BitVec 2) : w.takenAhead q = (w.subs.map (w.takenBy q)).foldl max 0 := by
  rw [List.foldl_map, Warp.takenAhead]
  congr 1
  funext m b
  rw [Warp.takenBy]
  cases b.wait with
  | queue p n =>
    by_cases hp : p = q
    · simp only [if_pos hp]
    · simp only [if_neg hp, Nat.max_zero]
  | _ => exact (Nat.max_zero m).symm

theorem Warp.takenBy_of_wait {w : Warp} {q : BitVec 2} {b : Sub} {n : Nat} (h : b.wait = .queue q n) :
    w.takenBy q b = min n (w.queue q).length := by
  simp [Warp.takenBy, h]

theorem Warp.takenBy_of_not_wait {w : Warp} {q : BitVec 2} {b : Sub} (h : ∀ n, b.wait ≠ .queue q n) : w.takenBy q b = 0 := by
  rw [Warp.takenBy]
  split
  · next p n hw => exact if_neg (fun hp : p = q => h n (hp ▸ hw))
  · rfl

theorem le_foldl_max {l : List Nat} {a : Nat} (m : Nat) (h : a = m ∨ a ∈ l) : a ≤ l.foldl max m := by
  induction l generalizing m a with
  | nil => simpa using h.elim Nat.le_of_eq (by simp)
  | cons b l ih =>
    rw [List.foldl_cons]
    rcases h with rfl | h
    · exact Nat.le_trans (Nat.le_max_left a b) (ih _ (.inl rfl))
    · rcases List.mem_cons.1 h with rfl | h
      · exact Nat.le_trans (Nat.le_max_right m a) (ih _ (.inl rfl))
      · exact ih _ (.inr h)

theorem foldl_max_zero {l : List Nat} (h : ∀ a ∈ l, a = 0) : l.foldl max 0 = 0 := by
  induction l with
  | nil => rfl
  | cons b l ih =>
    rw [List.foldl_cons, h b (List.mem_cons_self ..), Nat.max_self]
    exact ih fun a ha => h a (List.mem_cons_of_mem _ ha)

/-- A queue has room for an entry: it is not full, or a stalled word of the warp has taken what makes room. -/
def Warp.HasRoom (w : Warp) (q : BitVec 2) : Prop :=
  (w.queue q).length < 16 ∨ ∃ b ∈ w.subs, ∃ n, b.wait = .queue q n ∧ (w.queue q).length < 16 + min n (w.queue q).length

theorem Warp.HasRoom.lt {w : Warp} {q : BitVec 2} (h : w.HasRoom q) : (w.queue q).length < 16 + w.takenAhead q := by
  rcases h with h | ⟨b, hb, n, hw, h⟩
  · exact Nat.lt_add_right _ h
  · refine Nat.lt_of_lt_of_le h (Nat.add_le_add_left ?_ 16)
    rw [Warp.takenAhead_eq, ← Warp.takenBy_of_wait hw]
    exact le_foldl_max 0 (.inr (List.mem_map_of_mem hb))

theorem Warp.takenAhead_zero {w : Warp} {q : BitVec 2} (h : ∀ b ∈ w.subs, ∀ n, b.wait ≠ .queue q n) : w.takenAhead q = 0 := by
  rw [Warp.takenAhead_eq]
  refine foldl_max_zero fun a ha => ?_
  obtain ⟨b, hb, rfl⟩ := List.mem_map.1 ha
  exact Warp.takenBy_of_not_wait (h b hb)

/-! ### Pushes (R333) -/

/-- The warp after an entry has been pushed and the jobs of the queue are `jobs`. -/
def Warp.pushed (w : Warp) (x : Access) (q : BitVec 2) (jobs : List QJob) (z : QEntry) : Warp :=
  ({ w with access := some (x.setJobs q jobs) } : Warp).setQueue q (w.queue q ++ [z])

theorem Warp.pushed_queue (w : Warp) (x : Access) (q : BitVec 2) (jobs : List QJob) (z : QEntry) :
    (w.pushed x q jobs z).queue q = w.queue q ++ [z] := by
  have hq : q.toNat < 4 := q.isLt
  simp [Warp.pushed, Warp.queue, Warp.setQueue, hq]

theorem Warp.pushed_jobs (w : Warp) (x : Access) (q : BitVec 2) (jobs : List QJob) (z : QEntry) :
    (w.pushed x q jobs z).access.map (fun p => p.jobs[q.toNat]?.getD []) = some jobs := by
  have hq : q.toNat < 4 := q.isLt
  simp [Warp.pushed, Warp.setQueue, Access.setJobs, hq]

/-- After the change `u` the queue of warp `w` has taken the entry, and its jobs are `jobs`. -/
def Pushes (w : Warp) (q : BitVec 2) (u : Upd) (jobs : List QJob) (l : List QEntry) : Prop :=
  u.stores = [] ∧ ∃ z, u.sys.warp? w.id = some z ∧
    z.queue q = w.queue q ++ l ∧ z.access.map (fun p => p.jobs[q.toNat]?.getD []) = some jobs

theorem pushes_setWarp {y : Sys} {w : Warp} {x : Access} {q : BitVec 2} {jobs : List QJob} {z : QEntry} (h : y.warp? w.id = some w) :
    Pushes w q (.of (y.setWarp (w.pushed x q jobs z))) jobs [z] := by
  refine ⟨rfl, w.pushed x q jobs z, ?_, w.pushed_queue x q jobs z, w.pushed_jobs x q jobs z⟩
  have hid : (w.pushed x q jobs z).id = w.id := rfl
  rw [Upd.of_sys, Sys.warp?_setWarp (w := w) w.id (by rw [hid]; exact h), if_pos hid.symm]

/-- The reads of a group fill home caches alone. -/
theorem Sys.Filled.runsRead (y : Sys) (ctx : Nat) (rs : List Run) : y.Filled (y.runsRead ctx rs) := by
  refine Sys.Filled.foldl _ (fun y r => ?_) rs y
  cases r.key with
  | none => exact .refl y
  | some k => exact .fillFor y k r.len false ctx _

/-- Asking for lines outside the package, once they have been answered, changes no warp. -/
theorem Sys.asks_warps {y z : Sys} {a : Asker} {o : Origin} {ctx : Nat} {l : List (Nat × Nat)} {lost : List (Nat × Reason)}
    (h : y.asks a o ctx l = .ok (z, lost)) : z.warps = y.warps := by
  unfold Sys.asks at h
  dsimp only at h
  split at h
  · cases h; rfl
  · split at h
    · cases h; rfl
    · split at h <;> cases h

section
variable {s : State} {w : Warp} {k : Block} {x : Access} {q : BitVec 2}

theorem pushJob_full (h : 16 + w.takenAhead q ≤ (w.queue q).length) : pushJob w k x q s = .of s.sys := by
  simp only [pushJob, if_pos h]
  rfl

variable (hroom : (w.queue q).length < 16 + w.takenAhead q) {rest : List QJob}
include hroom

theorem pushJob_mark {v : BitVec 16} (hj : x.jobsOf q = .mark v :: rest) :
    pushJob w k x q s = .of (s.sys.setWarp (w.pushed x q rest (.marker v))) := by
  simp only [pushJob, if_neg (Nat.not_le.2 hroom), hj]
  rfl

theorem pushJob_high {t : Stream} {z : QEntry} (hj : x.jobsOf q = .stream t :: rest) (hz : t.high = some z) :
    pushJob w k x q s = .of (s.sys.setWarp (w.pushed x q (t.next ++ rest) z)) := by
  simp only [pushJob, if_neg (Nat.not_le.2 hroom), hj, hz]
  rfl

/-- The jobs of a queue after the low entry of a group: the high one is still to come, or the next group. -/
def Stream.after (t : Stream) (high : Option QEntry) (rest : List QJob) : List QJob :=
  match high with
  | some z => .stream { t with high := some z } :: rest
  | none => t.next ++ rest

theorem pushJob_group {t : Stream} {y z : Sys} {runs : List (List Run)} {lost : List (Nat × Reason)}
    (hj : x.jobsOf q = .stream t :: rest) (hz : t.high = none) (hl : streamLocate s w k x t = .go y runs)
    (hq : runs.all y.runsQuiet = true)
    (ha : y.asks (.stream w.id q.toNat) (.part k.core w.part) k.ctx (runLines runs) = .ok (z, lost)) :
    pushJob w k x q s = .of (((runs.foldl (fun z rs => z.runsRead k.ctx rs) z).mark k.ctx).setWarp
      (w.pushed x q (t.after (t.entries z s.mem lost runs).2 rest) (t.entries z s.mem lost runs).1)) := by
  simp only [pushJob, if_neg (Nat.not_le.2 hroom), hj, hz, hl, hq, ha]
  rfl

end

/-- The access slice of warp `w` may push: neither it nor its context is stopped. -/
structure MayPush (s : State) (w : Warp) (k : Block) (x : Access) : Prop where
  here : s.sys.warp? w.id = some w
  block : s.sys.block? w.block = some k
  access : w.access = some x
  slice : x.ended = false ∧ x.parked = false
  context : (s.sys.context k.ctx).frozen = false ∧ s.sys.ctl.held = false ∧ (s.sys.preempting k).isSome = false

section
variable {s : State} {w : Warp} {k : Block} {x : Access} {q : BitVec 2} (h : MayPush s w k x)
include h

theorem MayPush.does : Does (.streamPush w.id q.toNat) s (pushJob w k x q s) := by
  obtain ⟨hw, hk, ha, ⟨he, hp⟩, hf, hh, hpre⟩ := h
  refine does_of_eq (exec_streamPush w.id q.toNat s) ?_
  simp [hw, hk, ha, he, hp, hf, hh, hpre]

theorem MayPush.pushes {jobs : List QJob} {z : QEntry} {y : Sys} (hp : pushJob w k x q s = .of (y.setWarp (w.pushed x q jobs z)))
    (hy : y.warps = s.sys.warps) : ∃ u, Does (.streamPush w.id q.toNat) s u ∧ Pushes w q u jobs [z] := by
  refine ⟨_, hp ▸ h.does, pushes_setWarp ?_⟩
  rw [← h.here, Sys.warp?, Sys.warp?, hy]

end

/-! ### The end of the slice (R333) -/

theorem does_accessSliceEnd {s : State} {w : Warp} {x : Access} (hw : s.sys.warp? w.id = some w) (ha : w.access = some x)
    (hwait : x.sub.wait = .exiting) (he : x.ended = false) (hj : ∀ j, j < 4 → x.jobs[j]?.getD [] = []) :
    Does (.accessSliceEnd w.id) s (.of (s.sys.setWarp { w with access := some { x with ended := true } })) := by
  have hall : x.jobs.toList.all (·.isEmpty) = true := by
    rw [List.all_eq_true]
    intro l hl
    obtain ⟨j, hlt, rfl⟩ := List.mem_iff_getElem.1 hl
    have h4 : j < 4 := by simpa using hlt
    have := hj j h4
    simpa [h4] using this
  refine does_of_eq (exec_accessSliceEnd w.id s) ?_
  simp [hw, ha, hwait, he, hall]

end Sys2Proof.Machine

open Sys2Proof Sys2Proof.Machine

/-- Settles O42: the words go by whether a stream still pushes and by the first marker; a push goes by the job at the front, where the room
of the queue counts what a stalled word has taken (`Warp.takenAhead_eq`). -/
theorem streamForms : Obligations.StreamForms := by
  unfold Obligations.StreamForms
  intro s e q a b c sz sext locl m v d w k x rest t y z0 runs lost more front streaming job streams strm next runsHere pushed
  have hmay : runsHere → MayPush s w k x := fun ⟨hw, hk, ha, he, hp, hf, hh, hpre⟩ => ⟨hw, hk, ha, ⟨he, hp⟩, hf, hh, hpre⟩
  refine ⟨fun hn hr => ?strm, fun hy hr => ?strmWaits, fun hr => ?qmark, fun hr => ⟨fun hn => ?strmend, fun hy => ?strmendWaits⟩,
    fun hr => ⟨fun hq hf => ?disc, fun hq ha => ?discEnded⟩, ?pushes⟩
  case strm =>
    refine hr.exec_issueReg (exec_strm ..) ?_
    simp only [Bool.not_eq_true _ ▸ mt Warp.streaming_iff.1 hn]
    rfl
  case strmWaits => exact waits_of_issueReg hr (exec_strm ..) (if_pos (Warp.streaming_iff.2 hy))
  case qmark => exact hr.exec_issueReg (exec_qmark ..) rfl
  case strmend => exact hr.exec_issueReg (exec_strmend ..) (if_neg (mt Warp.streamingAny_iff.1 hn))
  case strmendWaits => exact waits_of_issueReg hr (exec_strmend ..) (if_pos (Warp.streamingAny_iff.2 hy))
  case disc => exact exec_qdisc_marker hr (hq ▸ firstMarker_of_marker hf)
  case discEnded => exact exec_qdisc_ended hr (firstMarker_none hq) ha
  case pushes =>
    intro room
    have hlt : room → (w.queue q).length < 16 + w.takenAhead q := Warp.HasRoom.lt
    refine ⟨fun hh hj hroom => ?mark, fun hh hfull hno => ?full, fun hh hj hroom => ⟨fun hz hl hq ha hy => ?group, fun z hz => ?high⟩,
      fun hw ha hwait he hj => does_accessSliceEnd hw ha hwait he hj⟩
    case mark => exact (hmay hh).pushes (pushJob_mark (hlt hroom) hj) rfl
    case full =>
      have hp := pushJob_full (s := s) (k := k) (x := x) (by rw [Warp.takenAhead_zero hno]; exact hfull)
      exact hp ▸ (hmay hh).does
    case group =>
      have hfill := Sys.Filled.foldl (fun z rs => z.runsRead k.ctx rs) (fun z rs => .runsRead z k.ctx rs) runs z0
      exact (hmay hh).pushes (pushJob_group (hlt hroom) hj hz hl hq ha) (hfill.warps.trans ((Sys.asks_warps ha).trans hy))
    case high => exact (hmay hh).pushes (pushJob_high (hlt hroom) hj hz) rfl

end

section
/-! A HALLOC that zeroes its block, on a memory that is not listed in its canonical form (`Memory.wf`, log 7; R326). -/

namespace Sys2Proof.Machine

/-! ### Writes of zero to a list whose first key lies above them -/

/-- A zero byte below the first listed key changes nothing, whatever is listed behind that key. -/
theorem Memory.put_zero_of_lt {a k : Nat} (b : Byte) (r : Memory) (h : k < a) : Memory.put ((a, b) :: r) k 0 = (a, b) :: r := by
  simp [Memory.put, h]

theorem Memory.putAll_zeros_of_le {a : Nat} (b : Byte) (r : Memory) {n k : Nat} (h : k + n ≤ a) :
    Memory.putAll ((a, b) :: r) k (List.replicate n 0) = (a, b) :: r := by
  induction n generalizing k with
  | zero => rfl
  | succ n ih => rw [List.replicate_succ, Memory.putAll, Memory.put_zero_of_lt b r (by omega), ih (by omega)]

theorem applyStores_zeros_of_le {a : Nat} (b : Byte) (r : Memory) {n k : Nat} (h : k + n ≤ a) :
    applyStores ((a, b) :: r) [.bytes k (List.replicate n 0)] = (a, b) :: r :=
  Memory.putAll_zeros_of_le b r h

/-! ### What an engine stores (R126) -/

theorem runStores_zeros {r : Run} {k n : Nat} (h : r.key = some k) :
    runStores [r] (List.replicate n 0) = [.bytes k (List.replicate (min r.len n) 0)] := by
  simp [runStores, h, List.take_replicate]

theorem runsWrite_stores (o : Origin) (op ctx : Nat) (rs : List Run) (bs : List Byte) (s : State) :
    (runsWrite o op ctx rs bs s).stores = runStores rs bs := by
  induction rs generalizing bs s with
  | nil => rfl
  | cons r rs ih =>
    rw [runsWrite, Upd.andThen_stores, ih, runStores]
    cases r.key <;> rfl

theorem engineWrite_stores {op : Nat} {s : State} {p : Op} (o : Origin) (rs : List Run) (bs : List Byte) (h : s.sys.op? op = some p) :
    (engineWrite o op rs bs s).stores = runStores rs bs := by
  simp only [engineWrite, h, runsWrite_stores]

/-! ### HALLOC at its agent (R325, R326) -/

/-- A command without a task's word 2 whose pages are known goes on where no page stops it. -/
theorem engineSet_proceeds {s : State} {p : Op} {die : Nat} {ts : List Touch} (h : s.sys.wordTwo p = none) (r : Requester) (o : Origin)
    (hk : s.sys.unknown (.op p.id) none die p.ctx ts = [])
    (hf : setFate true (s.sys.fates (.op p.id) .engine none die p.ctx ts) = .proceed) : engineSet s p r o die ts = .go s.sys := by
  have hkeep : s.sys.keepWordTwo p die = s.sys := by simp [Sys.keepWordTwo, h]
  simp only [engineSet, h, hkeep, List.append_nil, hk, hf]
  rfl

/-- The agent of a die takes up a HALLOC that is served. -/
theorem exec_heapCommandServe_halloc {s : State} {p : Op} {d a : SReg} {w : OptS} {tr zero fs : Bool} (hi : p.instr = .halloc d a w tr zero fs)
    (hop : s.sys.op? p.id = some p) (hmay : s.sys.mayServe p (.flacon (dieOf p.core)) = true)
    (hdie : p.pos = 0 → (s.sys.die (dieOf p.core)).halted = false) (hwit : s.sys.satisfied (dieReader (dieOf p.core)) p.wit = .yes)
    (htask : s.sys.wordTwo p = none) : exec (.heapCommandServe p.id) s = machineStep s (serveHalloc p tr zero s) := by
  have hd : s.sys.heapDie p = dieOf p.core := by simp only [Sys.heapDie, hi]
  have hgo : (!s.sys.mayServe p (.flacon (dieOf p.core)) || (decide (p.pos = 0) && (s.sys.die (dieOf p.core)).halted)) = false := by
    by_cases h0 : p.pos = 0 <;> simp [hmay, h0, hdie]
  have hw : s.sys.commandWit (dieReader (dieOf p.core)) p = .yes := hwit
  simp only [exec_heapCommandServe, execHeapCommandServe, hop, hd, hgo, hw, hi, engineSet_empty htask]
  rfl

/-- What a HALLOC stores that takes the block `b` and zeroes it. -/
theorem serveHalloc_stores {s : State} {p : Op} {tr : Bool} {b : HeapBlock} {y z : Sys}
    (ha : (s.sys.context p.ctx).arena ≠ none) (h0 : (p.args.getD 0 0).toNat ≠ 0) (h1 : (p.args.getD 0 0).toNat ≤ 2 ^ 24)
    (ht : (s.sys.context p.ctx).take (dieOf p.core) (heapClass (p.args.getD 0 0).toNat) (s.sys.freeAt 0) = some b)
    (hs : engineSet s p (p.requester 4 (dieOf p.core)) (.flacon (dieOf p.core)) (dieOf p.core)
      (engineTouches .engineWrite b.addr b.size) = .go y)
    (hp : y.pass p (.flacon (dieOf p.core)) [] (y.engineRuns p.id (dieOf p.core) p.ctx b.addr b.size) = .ok z)
    (hf : z.writeFails p (y.engineRuns p.id (dieOf p.core) p.ctx b.addr b.size) = none) (hop : z.op? p.id = some p) :
    (serveHalloc p tr true s).stores =
      runStores (y.engineRuns p.id (dieOf p.core) p.ctx b.addr b.size) (List.replicate b.size 0) := by
  have ha' : (s.sys.context p.ctx).arena.isNone = false := by simpa [Option.isSome_iff_ne_none] using ha
  have hn : (decide ((p.args.getD 0 0).toNat = 0) || decide ((p.args.getD 0 0).toNat > 2 ^ 24)) = false := by
    simp only [h0, Nat.not_lt.2 h1, decide_false, Bool.or_self]
  simp only [serveHalloc, ha', hn, ht, if_true, hs, hp, hf, Bool.false_eq_true, if_false]
  exact engineWrite_stores _ _ _ hop

/-! ### The counterexample -/

/-- A free block of 256 bytes on page 1, of die 0. -/
def pageBlock : HeapBlock := { addr := 0x10000, cls := 0, owner := 0, state := .free, wit := 0, mark := 0 }

/-- A HALLOC of one byte with `.Z`, of warp 0 of core 0. -/
def zeroAlloc : Op := { procOp Sys.reset (.halloc 0 0 none false true false) 0 0 0 0 [1] with warp := some 0 }

/-- The machine after reset with every region online, this command, context 0 with the block and the first region open to it, and page 1
at frame 3. Its memory lists the key 0x40000 ahead of the key 0x30000: it is not in the canonical form of `Memory.wf` (log 7). -/
def unsortedState : State where
  mem := [(0x40000, 1), (0x30000, 1)]
  sys := { Sys.reset with
    dies := Vector.replicate 6 { Die.reset with regionAll := { Die.reset.regionAll with state := 1 } }
    contexts := [(0, { Context.reset with
      desc := Context.reset.desc.set 5 1, arena := some (0x10000, 256), heap := [pageBlock] })]
    tlb := [{ place := .die 0, ctx := 0, base := 1, level := 0, pte := 0x8000000000030003 }]
    ops := [zeroAlloc] }

/-- The block's memory: the 256 bytes of frame 3 from its first on. -/
def blockRun : Run := { va := 0x10000, len := 256, key := some 0x30000, scope := 0 }

theorem unsortedState_take (v : Word) : (unsortedState.sys.context 0).take 0 (heapClass 1) v = some pageBlock := by
  have hmine : ((unsortedState.sys.context 0).heap.filter (fun b => b.cls == heapClass 1 && b.state == .free)).filter
      (fun b => b.owner == 0) = [pageBlock] := by decide
  simp only [Context.take, hmine, pickFree, List.length_singleton, Nat.mod_one]
  rfl

theorem unsortedState_served : zeroAlloc.warp.isSome = true ∧ unsortedState.sys.op? zeroAlloc.id = some zeroAlloc ∧
    unsortedState.sys.mayServe zeroAlloc (.flacon 0) = true ∧ (zeroAlloc.pos = 0 → (unsortedState.sys.die 0).halted = false) ∧
    unsortedState.sys.satisfied (dieReader 0) zeroAlloc.wit = .yes :=
  ⟨rfl, rfl, by decide, fun _ => rfl, rfl⟩

theorem unsortedState_engineSet (r : Requester) : engineSet unsortedState zeroAlloc r (.flacon 0) 0
    (engineTouches .engineWrite pageBlock.addr pageBlock.size) = .go unsortedState.sys :=
  engineSet_proceeds rfl r _ (by decide) (by decide)

theorem unsortedState_runs : unsortedState.sys.engineRuns zeroAlloc.id 0 0 pageBlock.addr pageBlock.size = [blockRun] := by decide

/-- The machine's other parts once the agent's write may be made. -/
def passedSys : Sys := (unsortedState.sys.dropRuns zeroAlloc.id false []).runsServed zeroAlloc.id []

theorem unsortedState_pass : unsortedState.sys.pass zeroAlloc (.flacon 0) [] [blockRun] = .ok passedSys := rfl

theorem passedSys_writeFails : passedSys.writeFails zeroAlloc [blockRun] = none := by decide

/-- The step that serves the command leaves the block's first byte as it was. -/
theorem unsortedState_byte {u : Upd} (h : Does (.heapCommandServe zeroAlloc.id) unsortedState u) :
    (commit unsortedState u).mem.byte 0x30000 = 1 := by
  obtain ⟨-, hop, hmay, hdie, hwit⟩ := unsortedState_served
  have hexec := exec_heapCommandServe_halloc rfl hop hmay hdie hwit rfl
  have hst := serveHalloc_stores (s := unsortedState) (p := zeroAlloc) (tr := false) (b := pageBlock) (by decide) (by decide) (by decide)
    (unsortedState_take _) (unsortedState_engineSet _) (unsortedState_runs ▸ unsortedState_pass)
    (unsortedState_runs ▸ passedSys_writeFails) rfl
  rw [show dieOf zeroAlloc.core = 0 from rfl, show zeroAlloc.ctx = 0 from rfl, unsortedState_runs] at hst
  have heq : Host.Outcome.next (commit unsortedState u) =
      (.next (commit unsortedState (serveHalloc zeroAlloc false true unsortedState)) : Host.Outcome State Fault Refusal) :=
    h.symm.trans hexec
  injection heq with heq
  rw [heq, commit, hst, runStores_zeros (k := 0x30000) rfl, unsortedState, applyStores_zeros_of_le 1 [(0x30000, 1)] (by decide)]
  rfl

end Sys2Proof.Machine

open Sys2Proof Sys2Proof.Machine

/-- Refutes O21: the statement quantifies over states whose memory is not in the canonical form of `Memory.wf` (log 7), and there the zero fill of HALLOC
leaves a byte as it was: a zero byte is written by taking its entry from the list, which is looked for among rising keys only. -/
theorem not_heapCommandsServed : ¬ Obligations.HeapCommandsServed := by
  unfold Obligations.HeapCommandsServed
  intro h
  obtain ⟨halloc, -⟩ := h unsortedState zeroAlloc 0 0 none false true false 0 0 pageBlock
  obtain ⟨-, -, hserves⟩ := halloc unsortedState_served rfl
  obtain ⟨-, htakes⟩ := hserves (by decide) (by decide) (by decide)
  obtain ⟨-, -, -, hends⟩ := htakes pageBlock unsortedState.sys (unsortedState_take _)
  obtain ⟨u, q, hdoes, ⟨-, hzero⟩, -⟩ := hends (unsortedState_engineSet _) passedSys (unsortedState_runs ▸ unsortedState_pass)
    (unsortedState_runs ▸ passedSys_writeFails)
  have hbyte := hzero blockRun (unsortedState_runs ▸ List.mem_singleton_self _) 0x30000 0 rfl (by decide)
  rw [Nat.add_zero, unsortedState_byte hdoes] at hbyte
  exact absurd hbyte (by decide)

end
